-- ==== Sys2Proof/Word.lean ====
section
/-! DEFINITION. The words of the DZ-4192: the byte of the array line and a run of bytes. -/

namespace Sys2Proof

/-- One byte of a frame (07, 7.1). -/
abbrev Byte := BitVec 8

/-- The bytes of a frame, or of a part of one, in the order in which they cross the line. -/
abbrev Bytes := List Byte

/-- A sample word: 24 bits, signed (R11, R24). -/
abbrev Sample := BitVec 24

end Sys2Proof
end

