-- ==== Sys2Proof/Syntax.lean ====
section
/-! DEFINITION. The commands of the block: one constructor of `Instr` per row of spec/opcode_table.json, in the table's order.
A row is one whole step of the engine (95_what_each_step_holds.md). The rows that execute an engine command (R158) carry no
operand here: the step executes the OLDEST HELD command, whose tag, code and parameter bytes came in an ENGINE_COMMAND frame
(assumption 1). -/

namespace Sys2Proof

/-- What causes a cold start (R177). -/
inductive ColdCause where
  | powerUp
  | resetLine
deriving DecidableEq, Repr

/-- The rows of the table of operations and events. -/
inductive Instr where
  /-- COLD_START (R177). -/
  | coldStart (cause : ColdCause)
  /-- UPSTREAM_FRAME_RECEIVED (R142, R144): the bytes between a start and an end delimiter. -/
  | upstreamFrameReceived (bytes : Bytes)
  /-- SAMPLE_FRAME_PROCESSING (R9, R10): the oldest frame handed to the Lane Tracker. -/
  | sampleFrameProcessing
  /-- ACCEPTED_BLOCK (R12, R14): the oldest block selected for the lane. -/
  | acceptedBlock (lane : Nat)
  /-- LANE_TIMER_EXPIRY (R21). -/
  | laneTimerExpiry (lane : Nat)
  /-- LINE_SILENCE_EXPIRY (R27). -/
  | lineSilenceExpiry
  /-- DOWNSTREAM_FRAME_RECEIVED (R142, R145). -/
  | downstreamFrameReceived (bytes : Bytes)
  /-- HOLD_RECEIVED (R150), at the downstream port. -/
  | holdReceived
  /-- HOLD_RELEASE_RECEIVED (R150), at the downstream port. -/
  | holdReleaseReceived
  /-- DOWNSTREAM_TRANSMIT_END (R147, R149). -/
  | downstreamTransmitEnd
  /-- UPSTREAM_TRANSMIT_END (R147, R151). -/
  | upstreamTransmitEnd
  /-- NOTICE_FRAME (R171). -/
  | noticeFrame
  /-- UNKNOWN_COMMAND_CODE (R159). -/
  | unknownCommandCode
  /-- SET_ADDRESS, code 0x01 (R153). -/
  | setAddress
  /-- READ_PORT_COUNTERS, code 0x02 (R155). -/
  | readPortCounters
  /-- READ_STATUS, code 0x08 (R163). -/
  | readStatus
  /-- SET_PARAMETERS, code 0x09 (R165). -/
  | setParameters
  /-- READ_PARAMETERS, code 0x0A (R169). -/
  | readParameters
  /-- LOAD_LANE_MAP, code 0x10 (R2). -/
  | loadLaneMap
  /-- SET_LANE, code 0x11 (R3, R4). -/
  | setLane
  /-- READ_LANE, code 0x12 (R5). -/
  | readLane
  /-- READ_LANE_CHANGES, code 0x13 (R6). -/
  | readLaneChanges
  /-- BEGIN_BANK_LOAD, code 0x20 (R50). -/
  | beginBankLoad
  /-- LOAD_ROWS, code 0x21 (R51, R52). -/
  | loadRows
  /-- END_BANK_LOAD, code 0x22 (R53). -/
  | endBankLoad
  /-- END_OF_VALIDATION (R53 to R57). -/
  | endOfValidation
  /-- SWITCH_BANK, code 0x23 (R62, R63). -/
  | switchBank
  /-- READ_BANK, code 0x24 (R58). -/
  | readBank
  /-- READ_ROW, code 0x25 (R59). -/
  | readRow
  /-- START_SCAN, code 0x30 (R68). -/
  | startScan
  /-- HALT_SCAN, code 0x31 (R69). -/
  | haltScan
  /-- CLEAR_SCAN, code 0x32 (R71). -/
  | clearScan
  /-- READ_SCAN, code 0x33 (R90). -/
  | readScan
  /-- READ_DETECTOR, code 0x38 (R116). -/
  | readDetector
  /-- FETCH_EVENT, code 0x40 (R134). -/
  | fetchEvent
  /-- READ_SNIPPET, code 0x41 (R135). -/
  | readSnippet
  /-- SNIPPET_FRAME_PLACED (R136, R137). -/
  | snippetFramePlaced
  /-- RELEASE_EVENT, code 0x42 (R139). -/
  | releaseEvent
  /-- READ_NOTICES, code 0x48 (R170). -/
  | readNotices
  /-- CLEAR_NOTICES, code 0x49 (R170). -/
  | clearNotices
  /-- SET_NOTICE_MASK, code 0x4A (R170). -/
  | setNoticeMask
  /-- READ_FAULT, code 0x50 (R174). -/
  | readFault
  /-- CLEAR_FAULT, code 0x51 (R174). -/
  | clearFault
  /-- RESTART, code 0x5F (R178). -/
  | restart
  /-- HOT_START_COMPLETION (R178). -/
  | hotStartCompletion
  /-- TICK_SCAN_BEGIN (R77). -/
  | tickScanBegin
  /-- VOXEL_EVALUATION (R79 to R82). -/
  | voxelEvaluation
  /-- TICK_RESULT_DELIVERY (R83). -/
  | tickResultDelivery
  /-- CLOSE_COMPLETION (R108 to R115). -/
  | closeCompletion
  /-- WAIT_TIMER_EXPIRY (R126). -/
  | waitTimerExpiry
  /-- COPY_STEP (R128 to R130). -/
  | copyStep
  /-- RESET_LINE_RELEASED (R177). -/
  | resetLineReleased
deriving DecidableEq, Repr

end Sys2Proof
end

