-- ==== Sys2Proof/Config.lean ====
section
/-! DEFINITION. What the DZ-4192 fixes for every part (00_scope.md, Capacities), and the one free value of the model. -/

namespace Sys2Proof.Config

/-- Lanes tracked: lane numbers 0..191 (00, Capacities). -/
abbrev lanes : Nat := 192

/-- Depth of a track in cells (R39). -/
abbrev trackDepth : Nat := 4096

/-- Depth of a ring in samples (R24). -/
abbrev ringDepth : Nat := 8192

/-- Words of the Snippet Store (R122). -/
abbrev storeWords : Nat := 65536

/-- Records the Event Queue holds (R118). -/
abbrev queueDepth : Nat := 32

/-- Frames the Forwarding Queue holds (R144). -/
abbrev forwardingDepth : Nat := 64

/-- Frames the Upward Queue holds (R145). -/
abbrev upwardDepth : Nat := 16

/-- Frames the Own Queue holds (R148). -/
abbrev ownDepth : Nat := 16

/-- Commands the Command Unit holds (R146). -/
abbrev heldDepth : Nat := 4

/-- Forwarded frames between two own frames under load (R149). -/
abbrev forwardedRun : Nat := 8

/-- Voxels a bank may define (R50). -/
abbrev maxVoxels : Nat := 4096

/-- The maximum of a 32-bit saturating counter (00, Arithmetic). -/
abbrev counterMax : Nat := 4294967295

/-- The first number a 48-bit count cannot hold (00, Time). -/
abbrev count48Bound : Nat := 281474976710656

/-- FREE VALUE (DESIGN CHOICE, assumption 8; safe). The 48-bit count a part shows where a sum passes 48 bits:
the spec states no result there, so nothing constrains it. -/
opaque count48Overflow : Nat → BitVec 48

end Sys2Proof.Config
end

