-- ==== Sys2Proof/Machine/State.lean ====
section
/-! DEFINITION. The state of the engine, block by block, as plain data: everything spec/ gives the machine (INVENTORY.md,
"State", lists each piece with its rule and reset value), the machine right after a cold start, and the reasons a step can
stop. -/

namespace Sys2Proof.Machine

/-- An addressed store or a table by number: (address, word) pairs in one canonical form (`Memory.wf`): addresses strictly
rising, and no entry equal to what an unlisted address reads as. -/
abbrev Memory (α : Type) := List (Nat × α)

/-! ## Names the manual gives -/

/-- Lane states, coded in this order (1.2). -/
inductive LaneState where
  | excluded | absent | acquiring | admitted | muted
deriving DecidableEq, Repr

/-- Bank states, coded in this order (R47). -/
inductive BankState where
  | empty | loading | ready | active
deriving DecidableEq, Repr

/-- The two banks, coded A 0 and B 1 (R156). -/
inductive BankId where
  | a | b
deriving DecidableEq, Repr

/-- Scan states, coded in this order (4.1). -/
inductive ScanState where
  | idle | running | halting | frozen
deriving DecidableEq, Repr

/-- Detector states, coded in this order (5.1). -/
inductive DetState where
  | quiet | onset | declared | holdoff
deriving DecidableEq, Repr

/-- Close reasons, coded in this order (R108). -/
inductive CloseReason where
  | quietRun | durationLimit | overrun | silence
deriving DecidableEq, Repr

/-- SNIPPET_STATUS, coded in this order (R119). -/
inductive SnippetStatus where
  | none | waiting | capturing | complete | partialCopy | noSpace | aborted
deriving DecidableEq, Repr

/-- Address modes, coded AUTO 0 and MANUAL 1 (R157, ROLLCALL_ANSWER). -/
inductive AddressMode where
  | auto | manual
deriving DecidableEq, Repr

/-- The activity in which a fault arose, coded in this order (9.3). -/
inductive Activity where
  | scan | validation | planning | capture | readSnippet
deriving DecidableEq, Repr

/-- The outcome in the fault record, coded in this order (R173). -/
inductive FaultOutcome where
  | continued | frozen
deriving DecidableEq, Repr

/-- An entry of a bank row: the flag entry, or the delay entry of a lane (R46, R56). -/
inductive RowEntry where
  | flag
  | delay (lane : Nat)
deriving DecidableEq, Repr

/-- The place of a fault, which also says its kind (9.3): TABLE_PARITY, TRACK_PARITY, or STORE_ECC in the Sample Store or in
the Snippet Store. -/
inductive FaultPlace where
  | table (bank : BankId) (voxel : Nat) (entry : RowEntry)
  | track (lane tick : Nat)
  | ring (lane index : Nat)
  | store (word : Nat)
deriving DecidableEq, Repr

/-- The producers of the Own Queue (R148). -/
inductive Producer where
  | commandUnit | noticeUnit | lineInterface
deriving DecidableEq, Repr

/-- The nine notice flags, in bit order (R157, NOTICE). -/
inductive Flag where
  | eventReady | queueOverflow | laneChange | scanState | scanOverrun | lineSilent | bank | fault | address
deriving DecidableEq, Repr

/-! ## Line Interface (chapter 7) -/

/-- Port counters, 32 bits and saturating (R155). FWD_DROPS and UP_DROPS are the one `drops` of their port; OWN_SENT and
COMMAND_DISCARDS belong to the downstream port and stand in `Line`. -/
structure PortCounters where
  framesIn : Nat
  badFrames : Nat
  formatDrops : Nat
  forwarded : Nat
  drops : Nat
deriving DecidableEq, Repr

/-- The frame in transmission at the downstream transmitter, and whether it is an own frame (R147, R148). -/
structure TxFrame where
  bytes : Bytes
  isOwn : Bool
deriving DecidableEq, Repr

/-- The Line Interface (7.1 to 7.5). -/
structure Line where
  fwd : List Bytes
  up : List Bytes
  own : List Bytes
  waiters : List Producer
  waitingAnswer : Option Bytes
  dnTx : Option TxFrame
  upTx : Option Bytes
  sinceOwn : Nat
  hold : Bool
  address : Nat
  addressValid : Bool
  mode : AddressMode
  upPort : PortCounters
  dnPort : PortCounters
  ownSent : Nat
  commandDiscards : Nat
deriving DecidableEq, Repr

/-! ## Command Unit (chapter 8) -/

/-- A held command: tag, code and parameters (8.1). -/
structure Held where
  tag : Byte
  code : Byte
  params : Bytes
deriving DecidableEq, Repr

/-- A SET LANE that changes INCLUDED, with its values after clamping (R3, R4). -/
structure LaneChange where
  lane : Nat
  weight : Nat
  gainShift : Nat
  included : Bool
  clamped : Bool
deriving DecidableEq, Repr

/-- A READ SNIPPET in its stream (R135 to R137): the range is `total` words from `first` within the words selected. -/
structure Stream where
  serial : Nat
  selector : Nat
  first : Nat
  total : Nat
  clamped : Bool
  sent : Nat
  frames : Nat
  replaced : Nat
  faultMet : Bool
deriving DecidableEq, Repr

/-- What the command in execution, the oldest held one, waits for (R158). -/
inductive Executing where
  /-- Its reply, built, waits for room in the Own Queue (R148). -/
  | replyWaiting (frame : Bytes)
  /-- SET LANE waits for the boundary of the tick scan in flight (R4). -/
  | laneChange (change : LaneChange)
  /-- CLEAR SCAN waits for the close in progress (R71). -/
  | clearScan
  /-- END BANK LOAD, its validation in progress (R53). -/
  | validating (bank : BankId)
  /-- READ SNIPPET, its stream in progress (R136). -/
  | streaming (stream : Stream)
  /-- RESTART, its hot start in progress (R178). -/
  | hotStart
deriving DecidableEq, Repr

/-- The Command Unit's held commands and command in execution (8.1). -/
structure CommandUnit where
  held : List Held
  executing : Option Executing
deriving DecidableEq, Repr

/-- The LANE group (8.3). -/
structure LaneParams where
  sampleRate : Nat
  tickLen : Nat
  dcShift : Nat
  staShift : Nat
  ltaShift : Nat
  ltaFloor : Nat
  freeze : Nat
  admitCount : Nat
  muteCount : Nat
  clipLimit : Nat
  holdoverLimit : Nat
  maxGap : Nat
deriving DecidableEq, Repr

/-- The TIMERS group (8.3), in milliseconds. -/
structure TimerParams where
  laneTimeout : Nat
  lineSilence : Nat
deriving DecidableEq, Repr

/-- The SCAN group (8.3). -/
structure ScanParams where
  grace : Nat
  lagAllowance : Nat
  minWeight : Nat
deriving DecidableEq, Repr

/-- The DETECT group (8.3). -/
structure DetectParams where
  tOn : Nat
  tOff : Nat
  coherence : Nat
  kOn : Nat
  qOff : Nat
  maxDuration : Nat
  holdoff : Nat
  vetoLimit : Nat
deriving DecidableEq, Repr

/-- The CAPTURE group (8.3). -/
structure CaptureParams where
  enable : Bool
  snipLanes : Nat
  preSamples : Nat
  postSamples : Nat
  captureWait : Nat
deriving DecidableEq, Repr

/-- The parameter set: one stored value for each parameter (R164). -/
structure Params where
  lane : LaneParams
  timers : TimerParams
  scan : ScanParams
  detect : DetectParams
  capture : CaptureParams
  faultCapture : Bool
deriving DecidableEq, Repr

/-! ## Lane Tracker and CF unit (chapters 1 and 2) -/

/-- A Lane Map entry, less its LANE, which is the number it is listed under (1.1). -/
structure LaneEntry where
  station : Nat
  channel : Nat
  weight : Nat
  gainShift : Nat
  included : Bool
deriving DecidableEq, Repr

/-- The filter values of an initialised filter: DC estimate m, STA s and LTA l (2.1). -/
structure Filter where
  m : Int
  s : Int
  l : Int
deriving DecidableEq, Repr

/-- The filter values taken for the lane's newest block (R29). -/
structure FilterValues where
  dcShift : Nat
  staShift : Nat
  ltaShift : Nat
  ltaFloor : Nat
  freeze : Nat
deriving DecidableEq, Repr

/-- The seven counters of a lane record (R23). -/
structure LaneCounters where
  blocksAccepted : Nat
  staleFrames : Nat
  gaps : Nat
  gapSamples : Nat
  clippedSamples : Nat
  lateCells : Nat
  badBlocks : Nat
deriving DecidableEq, Repr

/-- A lane record (1.2), with the lane's filter record (2.1). `timer` is the lane timer's expiry on the millisecond timer, or
none when it is stopped; `filter` is none when the filter is not initialised. -/
structure LaneRecord where
  state : LaneState
  expectedTag : Option Nat
  completeThrough : Option Nat
  goodRun : Nat
  badRun : Nat
  warmup : Nat
  weightInUse : Nat
  gainInUse : Nat
  timer : Option Nat
  changed : Bool
  counters : LaneCounters
  filter : Option Filter
  taken : Option FilterValues
deriving DecidableEq, Repr

/-- A mapped lane: its entry and its record. Every mapped lane has a record, and no other lane (1.2). -/
structure Lane where
  entry : LaneEntry
  record : LaneRecord
deriving DecidableEq, Repr

/-- One block of one lane, selected from a processed SAMPLE frame and not yet handled (R9, R12; assumption 9). -/
structure Block where
  lane : Nat
  station : Nat
  channel : Nat
  tag : Nat
  quality : Nat
  holdoverAge : Nat
  clips : Nat
  samples : List Sample
deriving DecidableEq, Repr

/-- The Lane Tracker: the lanes by number, line time, the line-silence timer's expiry, and the work handed to it. -/
structure Tracker where
  lanes : Memory Lane
  lineTime : Option Nat
  silenceTimer : Option Nat
  inbox : List Bytes
  blocks : List Block
deriving DecidableEq, Repr

/-! ## Track Memory and Sample Store (2.5, 1.9) -/

/-- One position of a track: cell value, present mark, and whether its parity check passes (R39, R40). -/
structure TrackCell where
  value : Nat
  present : Bool
  parityOk : Bool
deriving DecidableEq, Repr

/-- One lane number's track (R39). -/
structure Track where
  newest : Option Nat
  cells : Memory TrackCell
deriving DecidableEq, Repr

/-- One position of a ring: sample, present mark, and whether its ECC can give the stored value (R24, R129). -/
structure RingWord where
  sample : Sample
  present : Bool
  eccOk : Bool
deriving DecidableEq, Repr

/-- One lane number's ring (R24). -/
structure Ring where
  newest : Option Nat
  words : Memory RingWord
deriving DecidableEq, Repr

/-! ## Bank Memory (chapter 3) -/

/-- The flag entry of a row (R46). -/
structure FlagEntry where
  enabled : Bool
  nuisance : Bool
  parityOk : Bool
deriving DecidableEq, Repr

/-- A delay entry of a row: 0..1022, or none for NONE (R46). -/
structure DelayEntry where
  delay : Option Nat
  parityOk : Bool
deriving DecidableEq, Repr

/-- A written row: its flag entry and its 192 delay entries in lane order (R46). -/
structure Row where
  flags : FlagEntry
  delays : List DelayEntry
deriving DecidableEq, Repr

/-- A bank (3.1). A voxel's written mark is set exactly when its row is listed. -/
structure Bank where
  state : BankState
  voxelCount : Nat
  tag : Nat
  dmax : Option Nat
  check : Option (BitVec 32)
  rows : Memory Row
deriving DecidableEq, Repr

/-- Bank Memory: the two banks, the active-bank selector and the pending switch (3.4). -/
structure Banks where
  a : Bank
  b : Bank
  active : Option BankId
  pendingSwitch : Option BankId
deriving DecidableEq, Repr

/-! ## Scan Unit (chapter 4) -/

/-- The greatest stack met so far in a tick scan (R82). -/
structure Peak where
  stack : Nat
  voxel : Nat
  nuisance : Bool
  pairs : List (Nat × Nat)
deriving DecidableEq, Repr

/-- The tick scan in flight: its context (4.1, R77) and its running values (R82). `voxel` is the voxel evaluated next, and
`parityMet` the (lane, tick) cells whose parity failure this tick scan has met (R80). -/
structure TickScan where
  origin : Nat
  contributing : List (Nat × Nat)
  bank : BankId
  bankTag : Nat
  dmax : Nat
  voxel : Nat
  count : Nat
  total : Nat
  peak : Option Peak
  parityMet : List (Nat × Nat)
deriving DecidableEq, Repr

/-- The summary of the latest tick result (4.1). -/
structure LastResult where
  origin : Nat
  eligible : Nat
  peak : Nat
  peakVoxel : Option Nat
  nuisance : Bool
  mean : Nat
  listLength : Nat
deriving DecidableEq, Repr

/-- A tick result, as delivered to the Detector (R83). -/
structure TickResult where
  origin : Nat
  bank : BankId
  bankTag : Nat
  eligible : Nat
  peak : Nat
  peakVoxel : Option Nat
  nuisance : Bool
  mean : Nat
  pairs : List (Nat × Nat)
deriving DecidableEq, Repr

/-- The Scan Unit (4.1). -/
structure Scan where
  state : ScanState
  cursor : Option Nat
  cutoffs : Memory Nat
  tick : Option TickScan
  inUse : Option ScanParams
  lastResult : Option LastResult
  ticksScanned : Nat
  deadlineTicks : Nat
  skippedTicks : Nat
deriving DecidableEq, Repr

/-! ## Detector (chapter 5) -/

/-- The maximum of the running record (5.1, R97). -/
structure Maximum where
  origin : Nat
  peak : Nat
  peakVoxel : Nat
  mean : Nat
  bank : BankId
  bankTag : Nat
  pairs : List (Nat × Nat)
deriving DecidableEq, Repr

/-- The running record (5.1). -/
structure Running where
  onsetTick : Nat
  onsetCount : Nat
  quietRun : Nat
  vetoCount : Nat
  durationLimit : Nat
  lastTick : Nat
  maximum : Maximum
deriving DecidableEq, Repr

/-- A close in progress, its place in the Event Queue reserved (R106), with the CAPTURE values taken as it began (R111), the DETECT
values in use then (R93, R109, R115; assumption 12), whether the boundary of a tick follows it (R73, R115), and whether the
Detector has been told OVERRUN meanwhile, which it handles as the close ends (R101; assumption 12). -/
structure Closing where
  reason : CloseReason
  closeTick : Nat
  capture : CaptureParams
  detect : DetectParams
  boundary : Bool
  overrun : Bool
deriving DecidableEq, Repr

/-- The Detector (5.1). -/
structure Detector where
  state : DetState
  running : Option Running
  holdoff : Nat
  inUse : Option DetectParams
  serial : Nat
  closing : Option Closing
  abortedOnsets : Nat
  nuisanceHits : Nat
  eventsClosed : Nat
  queueDiscards : Nat
  clearedEvents : Nat
deriving DecidableEq, Repr

/-! ## Event Queue and Capture Unit (chapter 6) -/

/-- A snippet plan entry (R113). -/
structure PlanEntry where
  lane : Nat
  product : Nat
  start : Nat
  count : Nat
  omitStart : Nat
  omitEnd : Nat
  extentOffset : Option Nat
deriving DecidableEq, Repr

/-- An event record (R108) with its close time (6.1). -/
structure EventRecord where
  serial : Nat
  bank : BankId
  bankTag : Nat
  onsetTick : Nat
  originTick : Nat
  closeTick : Nat
  duration : Nat
  peakVoxel : Nat
  peak : Nat
  mean : Nat
  contributors : Nat
  vetoCount : Nat
  closeReason : CloseReason
  contaminated : Bool
  overflowFollows : Bool
  status : SnippetStatus
  plan : List PlanEntry
  closeTime : Nat
deriving DecidableEq, Repr

/-- A Snippet Store word: sample value, and whether its ECC can give it (R137). -/
structure StoreWord where
  sample : Sample
  eccOk : Bool
deriving DecidableEq, Repr

/-- The Snippet Store and its allocation state (6.2). -/
structure SnippetStore where
  writePos : Nat
  freeWords : Nat
  words : Memory StoreWord
deriving DecidableEq, Repr

/-- A capture in progress: the plan entry copied next, counted from 1, and the store error flag (6.3). -/
structure ActiveCapture where
  next : Nat
  storeError : Bool
deriving DecidableEq, Repr

/-- The Capture Unit (6.3): CAPTURING when `active` is some, else IDLE; `waitTimer` is the wait timer's expiry, or none when
it is stopped. -/
structure CaptureUnit where
  active : Option ActiveCapture
  waitTimer : Option Nat
deriving DecidableEq, Repr

/-! ## Notice and Fault Unit (chapter 9) -/

/-- The fault record (9.3, R173); its kind is that of its place. -/
structure FaultRecord where
  activity : Activity
  place : FaultPlace
  cursor : Option Nat
  detector : DetState
  outcome : FaultOutcome
deriving DecidableEq, Repr

/-- The second-fault record (9.3). -/
structure SecondFault where
  activity : Activity
  place : FaultPlace
deriving DecidableEq, Repr

/-- The Notice and Fault Unit (9.1, 9.3). A fault is held exactly when the fault record is not empty. -/
structure NoticeUnit where
  flags : BitVec 9
  enables : BitVec 9
  due : Bool
  faultRecord : Option FaultRecord
  secondFault : Option SecondFault
  frozen : Bool
  frozenStoreErrors : Nat
deriving DecidableEq, Repr

/-! ## The engine -/

/-- The whole engine, with the queue of commands that wait to be taken. -/
structure State where
  pending : List Instr
  resetHeld : Bool
  now : Nat
  line : Line
  cmd : CommandUnit
  params : Params
  tracker : Tracker
  tracks : Memory Track
  rings : Memory Ring
  banks : Banks
  scan : Scan
  det : Detector
  queue : List EventRecord
  store : SnippetStore
  capture : CaptureUnit
  notice : NoticeUnit
deriving DecidableEq, Repr

/-- The reasons a step stops with a fault. There is none (assumption 30): the engine's own faults are state (R173), and every
command has an effect in every state. -/
inductive Fault where
deriving DecidableEq, Repr

/-- The reasons a step is refused. -/
inductive Refusal where
  /-- Raised by an arm of `exec` whose command has no meaning yet; safe. No arm raises it. -/
  | notModelled (mnemonic : String)
deriving DecidableEq, Repr

/-! ## The machine right after a cold start -/

/-- Port counters at 0 (R155). -/
def PortCounters.zero : PortCounters :=
  { framesIn := 0, badFrames := 0, formatDrops := 0, forwarded := 0, drops := 0 }

/-- The Line Interface after a cold start (R147 to R155). The spec shows no address; the model holds 0 (DESIGN CHOICE,
assumption 6; unsafe). -/
def Line.cold : Line :=
  { fwd := [], up := [], own := [], waiters := [], waitingAnswer := none, dnTx := none, upTx := none, sinceOwn := 0,
    hold := false, address := 0, addressValid := false, mode := .auto, upPort := .zero, dnPort := .zero, ownSent := 0,
    commandDiscards := 0 }

/-- The cold defaults of the parameter set (8.3, R164). -/
def Params.cold : Params :=
  { lane := { sampleRate := 500, tickLen := 4, dcShift := 10, staShift := 3, ltaShift := 9, ltaFloor := 64, freeze := 1024,
              admitCount := 16, muteCount := 4, clipLimit := 2, holdoverLimit := 600, maxGap := 64 },
    timers := { laneTimeout := 500, lineSilence := 2000 },
    scan := { grace := 32, lagAllowance := 512, minWeight := 8 },
    detect := { tOn := 768, tOff := 640, coherence := 40, kOn := 3, qOff := 8, maxDuration := 512, holdoff := 16,
                vetoLimit := 4 },
    capture := { enable := true, snipLanes := 4, preSamples := 200, postSamples := 600, captureWait := 3000 },
    faultCapture := true }

/-- The Lane Tracker after a cold start: an empty map, no line time, the timer stopped (R1, R26, R27). -/
def Tracker.cold : Tracker :=
  { lanes := [], lineTime := none, silenceTimer := none, inbox := [], blocks := [] }

/-- A bank after a cold start (R48). -/
def Bank.cold : Bank :=
  { state := .empty, voxelCount := 0, tag := 0, dmax := none, check := none, rows := [] }

/-- Bank Memory after a cold start (R48). -/
def Banks.cold : Banks := { a := .cold, b := .cold, active := none, pendingSwitch := none }

/-- The Scan Unit after either start (R66). -/
def Scan.started : Scan :=
  { state := .idle, cursor := none, cutoffs := [], tick := none, inUse := none, lastResult := none, ticksScanned := 0,
    deadlineTicks := 0, skippedTicks := 0 }

/-- The Detector after a start that leaves the serial counter at `serial` (R92). -/
def Detector.started (serial : Nat) : Detector :=
  { state := .quiet, running := none, holdoff := 0, inUse := none, serial := serial, closing := none, abortedOnsets := 0,
    nuisanceHits := 0, eventsClosed := 0, queueDiscards := 0, clearedEvents := 0 }

/-- The Snippet Store with no extent held (R122). -/
def SnippetStore.empty (words : Memory StoreWord) : SnippetStore :=
  { writePos := 0, freeWords := Config.storeWords, words := words }

/-- The Capture Unit IDLE (6.3). -/
def CaptureUnit.idle : CaptureUnit := { active := none, waitTimer := none }

/-- The Notice and Fault Unit after a start that leaves the enables at `enables` (R170, 9.3). -/
def NoticeUnit.started (enables : BitVec 9) : NoticeUnit :=
  { flags := 0, enables := enables, due := false, faultRecord := none, secondFault := none, frozen := false,
    frozenStoreErrors := 0 }

/-- The engine right after a cold start, the reset line released (R177). -/
def State.reset : State :=
  { pending := [], resetHeld := false, now := 0, line := .cold, cmd := { held := [], executing := none }, params := .cold,
    tracker := .cold, tracks := [], rings := [], banks := .cold, scan := .started, det := .started 0, queue := [],
    store := .empty [], capture := .idle, notice := .started 0 }

/-! ## Updates of one field (their lemmas stand in Laws/State.lean) -/

def State.setPending (s : State) (x : List Instr) : State := { s with pending := x }
def State.setResetHeld (s : State) (x : Bool) : State := { s with resetHeld := x }
def State.setNow (s : State) (x : Nat) : State := { s with now := x }
def State.setLine (s : State) (x : Line) : State := { s with line := x }
def State.setCmd (s : State) (x : CommandUnit) : State := { s with cmd := x }
def State.setParams (s : State) (x : Params) : State := { s with params := x }
def State.setTracker (s : State) (x : Tracker) : State := { s with tracker := x }
def State.setTracks (s : State) (x : Memory Track) : State := { s with tracks := x }
def State.setRings (s : State) (x : Memory Ring) : State := { s with rings := x }
def State.setBanks (s : State) (x : Banks) : State := { s with banks := x }
def State.setScan (s : State) (x : Scan) : State := { s with scan := x }
def State.setDet (s : State) (x : Detector) : State := { s with det := x }
def State.setQueue (s : State) (x : List EventRecord) : State := { s with queue := x }
def State.setStore (s : State) (x : SnippetStore) : State := { s with store := x }
def State.setCapture (s : State) (x : CaptureUnit) : State := { s with capture := x }
def State.setNotice (s : State) (x : NoticeUnit) : State := { s with notice := x }

end Sys2Proof.Machine
end

