-- ==== Sys2Proof/Machine/Bytes.lean ====
section
/-! DEFINITION. Byte order, field encodings, the two checks and the outer form of frames (07, 7.1 and 7.6). -/

namespace Sys2Proof.Machine

/-- `n` bytes of a number, high byte first (7.6). -/
def encNat : Nat → Nat → Bytes
  | 0, _ => []
  | n + 1, v => encNat n (v / 256) ++ [BitVec.ofNat 8 v]

/-- The number that bytes give, high byte first (7.6). -/
def decNat (bs : Bytes) : Nat := bs.foldl (fun acc b => acc * 256 + b.toNat) 0

/-- A yes/no field: 0 for no, 1 for yes (R156). -/
def encBool (b : Bool) : Bytes := [if b then 1 else 0]

/-- `n` bytes with every bit set: a field that is none (R156). -/
def encNone (n : Nat) : Bytes := List.replicate n 255

/-- A field that may be none, after its presence byte (R156). -/
def encOpt (n : Nat) : Option Nat → Bytes
  | none => 0 :: encNone n
  | some v => 1 :: encNat n v

/-- A yes/no field that may be none (R156). -/
def encOptBool (b : Option Bool) : Bytes := encOpt 1 (b.map fun x => if x then 1 else 0)

/-- A signed field of `n` bytes, two's complement (R156). -/
def encInt (n : Nat) (v : Int) : Bytes := encNat n (v % (256 ^ n : Nat)).toNat

/-- A signed field that may be none (R156). -/
def encOptInt (n : Nat) : Option Int → Bytes
  | none => 0 :: encNone n
  | some v => 1 :: encInt n v

/-- A sample: 3 bytes, two's complement (R156). -/
def encSample (x : Sample) : Bytes := encNat 3 x.toNat

/-- Byte `i` of a frame, counted from 0 at the kind byte; 0 past its end. -/
def byteAt (bs : Bytes) (i : Nat) : Nat := (bs.getD i 0).toNat

/-- The number in `n` bytes from offset `i`. -/
def fieldAt (bs : Bytes) (i n : Nat) : Nat := decNat ((bs.drop i).take n)

/-- One bit step of a check whose bytes enter most significant bit first. -/
def crcShift (w : Nat) (poly reg : BitVec w) : BitVec w :=
  if reg.msb then (reg <<< 1) ^^^ poly else reg <<< 1

/-- `n` bit steps. -/
def crcShifts (w : Nat) (poly : BitVec w) : Nat → BitVec w → BitVec w
  | 0, reg => reg
  | n + 1, reg => crcShifts w poly n (crcShift w poly reg)

/-- One byte into a check register. -/
def crcByte (w : Nat) (poly reg : BitVec w) (b : Byte) : BitVec w :=
  crcShifts w poly 8 (reg ^^^ ((b.setWidth w) <<< (w - 8)))

/-- The CRC-16 of a frame, over its header and body (R142). -/
def crc16 (bs : Bytes) : BitVec 16 := bs.foldl (crcByte 16 0x1021) 0xFFFF

/-- The register of the bank check after more bytes (R55). -/
def crc32Update (reg : BitVec 32) (bs : Bytes) : BitVec 32 := bs.foldl (crcByte 32 0x04C11DB7) reg

/-- The bank check's register at the start (R55). -/
def crc32Start : BitVec 32 := 0xFFFFFFFF

/-- A frame whole, from its header and body: the CRC follows, high byte first (R142). -/
def withTail (headerBody : Bytes) : Bytes := headerBody ++ encNat 2 (crc16 headerBody).toNat

/-- A frame the engine originates: kind, flags 0, total length, body, CRC (R143, 7.6). -/
def ownFrame (kind : Byte) (body : Bytes) : Bytes :=
  withTail (kind :: 0 :: (encNat 2 (body.length + 6) ++ body))

/-- The four tests of a received frame (R142). -/
def frameGood (bs : Bytes) : Bool :=
  8 ≤ bs.length && bs.length ≤ 1024 && fieldAt bs 2 2 == bs.length
    && decNat (bs.drop (bs.length - 2)) == (crc16 (bs.take (bs.length - 2))).toNat

/-- Frame kinds (7.6). -/
def kindSample : Nat := 0x10
def kindCommand : Nat := 0x30
def kindReply : Byte := 0x31
def kindNotice : Byte := 0x32
def kindSnippet : Byte := 0x33
def kindRollcall : Nat := 0x40
def kindRollcallAnswer : Byte := 0x41

/-- Reply codes (R157, R159). -/
inductive ReplyCode where
  | ok | clamped | busy | notReady | faultHeld | frozen | badRequest
deriving DecidableEq, Repr

def ReplyCode.code : ReplyCode → Nat
  | .ok => 0 | .clamped => 1 | .busy => 2 | .notReady => 3 | .faultHeld => 4 | .frozen => 5 | .badRequest => 6

/-- OK, or CLAMPED where a value was brought within range (R159). -/
def okOr (clamped : Bool) : ReplyCode := if clamped then .clamped else .ok

/-! ## Codes of named values (R156) -/

def LaneState.code : LaneState → Nat
  | .excluded => 0 | .absent => 1 | .acquiring => 2 | .admitted => 3 | .muted => 4

def BankState.code : BankState → Nat
  | .empty => 0 | .loading => 1 | .ready => 2 | .active => 3

def BankId.code : BankId → Nat
  | .a => 0 | .b => 1

def ScanState.code : ScanState → Nat
  | .idle => 0 | .running => 1 | .halting => 2 | .frozen => 3

def DetState.code : DetState → Nat
  | .quiet => 0 | .onset => 1 | .declared => 2 | .holdoff => 3

def CloseReason.code : CloseReason → Nat
  | .quietRun => 0 | .durationLimit => 1 | .overrun => 2 | .silence => 3

/-- R119. -/
def SnippetStatus.code : SnippetStatus → Nat
  | .none => 0 | .waiting => 1 | .capturing => 2 | .complete => 3 | .partialCopy => 4 | .noSpace => 5 | .aborted => 6

def AddressMode.code : AddressMode → Nat
  | .auto => 0 | .manual => 1

def Activity.code : Activity → Nat
  | .scan => 0 | .validation => 1 | .planning => 2 | .capture => 3 | .readSnippet => 4

def FaultOutcome.code : FaultOutcome → Nat
  | .continued => 0 | .frozen => 1

/-- 192 for the flag entry, the lane number for a delay entry (R156). -/
def RowEntry.code : RowEntry → Nat
  | .flag => 192 | .delay lane => lane

/-- The kind of a fault by its place (9.3): TABLE_PARITY 0, TRACK_PARITY 1, STORE_ECC 2. -/
def FaultPlace.kindCode : FaultPlace → Nat
  | .table _ _ _ => 0 | .track _ _ => 1 | .ring _ _ => 2 | .store _ => 2

end Sys2Proof.Machine
end

