-- ==== Sys2Proof/Machine/Ops.lean ====
section
/-! DEFINITION. The named operations over the addressed stores and tables: sparse memory, counters, tracks, rings, banks and
the Snippet Store. -/

namespace Sys2Proof.Machine

/-! ## Sparse memory in canonical form -/

/-- The entry listed at an address. -/
def Memory.find {α : Type} : Memory α → Nat → Option α
  | [], _ => none
  | (j, v) :: t, k => if k = j then some v else Memory.find t k

/-- What an address reads as: its entry, or `d` where nothing is listed. -/
def Memory.read {α : Type} (d : α) (m : Memory α) (k : Nat) : α := (Memory.find m k).getD d

/-- List `v` at `k`, in address order, in place of any entry there. -/
def Memory.put {α : Type} : Memory α → Nat → α → Memory α
  | [], k, v => [(k, v)]
  | (j, w) :: t, k, v =>
    if k < j then (k, v) :: (j, w) :: t
    else if k = j then (k, v) :: t
    else (j, w) :: Memory.put t k v

/-- Take the entry at `k` out. -/
def Memory.erase {α : Type} (m : Memory α) (k : Nat) : Memory α := m.filter fun e => e.1 != k

/-- Take out every entry whose address `gone` names. -/
def Memory.eraseWhere {α : Type} (m : Memory α) (gone : Nat → Bool) : Memory α := m.filter fun e => !gone e.1

/-- Write `v` at `k`, where an unlisted address reads as `d`: writing `d` takes the entry out. -/
def Memory.write {α : Type} [DecidableEq α] (d : α) (m : Memory α) (k : Nat) (v : α) : Memory α :=
  if v = d then Memory.erase m k else Memory.put m k v

/-- Write the values at `k`, `k + 1`, ... modulo `size`. -/
def Memory.writeRun {α : Type} [DecidableEq α] (d : α) (size : Nat) : Memory α → Nat → List α → Memory α
  | m, _, [] => m
  | m, k, v :: vs => Memory.writeRun d size (Memory.write d m (k % size) v) (k + 1) vs

/-- Addresses strictly rising. -/
def Memory.rising {α : Type} : Memory α → Bool
  | [] => true
  | (j, _) :: t => (match t with | [] => true | (k, _) :: _ => decide (j < k)) && Memory.rising t

/-- The canonical form of a memory whose unlisted addresses read as `d`. -/
def Memory.wf {α : Type} [DecidableEq α] (d : α) (m : Memory α) : Bool :=
  Memory.rising m && m.all fun e => e.2 != d

/-- Apply `f` to the entry at `k`, if there is one. -/
def Memory.modify {α : Type} (m : Memory α) (k : Nat) (f : α → α) : Memory α :=
  m.map fun e => if e.1 = k then (e.1, f e.2) else e

/-- Apply `f` to every entry. -/
def Memory.mapValues {α : Type} (m : Memory α) (f : α → α) : Memory α := m.map fun e => (e.1, f e.2)

/-! ## Counts -/

/-- A 32-bit saturating counter, increased by `n` (00, Arithmetic). -/
def satAdd (c n : Nat) : Nat := min (c + n) Config.counterMax

/-- A 48-bit count; where a sum passes 48 bits, a free value (assumption 8). -/
def count48 (n : Nat) : Nat := if n < Config.count48Bound then n else (Config.count48Overflow n).toNat

/-- Whether position `p` is one of the `n` positions from `start`, counted round a ring of `size`. -/
def inRun (size start n p : Nat) : Bool := (p + size - start % size) % size < n

/-! ## Tracks (2.5) -/

/-- An absent position whose parity is fresh (R41, R44). The value behind its clear mark is the model's (assumption 43). -/
def TrackCell.absent : TrackCell := { value := 0, present := false, parityOk := true }

/-- A cleared track (R44). -/
def Track.cleared : Track := { newest := none, cells := [] }

/-- The track of a lane number. -/
def trackOf (s : State) (lane : Nat) : Track := Memory.read Track.cleared s.tracks lane

/-- Replace the track of a lane number. -/
def setTrack (s : State) (lane : Nat) (t : Track) : State := s.setTracks (Memory.write Track.cleared s.tracks lane t)

/-- The answer to a read of a cell (R40). -/
inductive CellAnswer where
  | value (c : Nat)
  | absent
  | parityFailure
deriving DecidableEq, Repr

/-- Whether a history of `depth` positions, newest at `newest`, holds index `i` (R24, R39). -/
def holds (depth : Nat) (newest : Option Nat) (i : Nat) : Bool :=
  match newest with
  | none => false
  | some n => i ≤ n && n < i + depth

/-- Read the cell of tick `u` (R40). -/
def Track.readCell (t : Track) (u : Nat) : CellAnswer :=
  if holds Config.trackDepth t.newest u then
    let c := Memory.read TrackCell.absent t.cells (u % Config.trackDepth)
    if !c.parityOk then .parityFailure else if c.present then .value c.value else .absent
  else .absent

/-- The `n` positions from index `start` made absent; all of them when they are `depth` or more (R24, R41). -/
def Memory.eraseRun {α : Type} (m : Memory α) (depth start n : Nat) : Memory α :=
  if depth ≤ n then [] else Memory.eraseWhere m (inRun depth start n)

/-- The cells of a block above the cut-off, written from tick `u` on (R41). -/
def writeCells (cutoff : Option Nat) : Memory TrackCell → Nat → List Nat → Memory TrackCell
  | m, _, [] => m
  | m, u, c :: cs =>
    let m' := if cutoff.all (· < u) then
        Memory.write TrackCell.absent m (u % Config.trackDepth) { value := c, present := true, parityOk := true }
      else m
    writeCells cutoff m' (u + 1) cs

/-- How many of the `n` ticks from `k0` are at or below the cut-off (R41). -/
def lateCount (cutoff : Option Nat) (k0 n : Nat) : Nat :=
  match cutoff with
  | none => 0
  | some c => min n (c + 1 - k0)

/-- The first tick that the write of a block from tick `k0` makes absent (R41, Advancing). -/
def Track.firstNew (t : Track) (k0 : Nat) : Nat :=
  match t.newest with
  | none => k0
  | some n => n + 1

/-- The cells of a block, its first tick `k0`, written into a track (R41). -/
def Track.writeBlock (t : Track) (cutoff : Option Nat) (k0 : Nat) (cells : List Nat) : Track :=
  let k1 := k0 + cells.length - 1
  let first := t.firstNew k0
  { newest := some k1
    cells := writeCells cutoff (Memory.eraseRun t.cells Config.trackDepth first (k1 + 1 - first)) k0 cells }

/-! ## Rings (1.9) -/

/-- A position with its present mark clear and fresh ECC (R25). The sample behind its clear mark is the model's (assumption 43). -/
def RingWord.absent : RingWord := { sample := 0, present := false, eccOk := true }

/-- A cleared ring (R25). -/
def Ring.cleared : Ring := { newest := none, words := [] }

/-- The ring of a lane number. -/
def ringOf (s : State) (lane : Nat) : Ring := Memory.read Ring.cleared s.rings lane

/-- Replace the ring of a lane number. -/
def setRing (s : State) (lane : Nat) (r : Ring) : State := s.setRings (Memory.write Ring.cleared s.rings lane r)

/-- The 24-bit code of the missing marker, -8,388,608 (R11). -/
def missingMarker : Sample := 0x800000

/-- The clamp of R11: the missing marker arriving as a sample becomes -8,388,607. -/
def clampSample (x : Sample) : Sample := if x = missingMarker then 0x800001 else x

/-- The answer to a read of a ring by the copy step (R128). -/
inductive RingAnswer where
  | notReceived
  | older
  | sample (x : Sample)
  | missing
  | eccFailure
deriving DecidableEq, Repr

/-- Read sample index `i` (R24, R128, R129). -/
def Ring.readSample (r : Ring) (i : Nat) : RingAnswer :=
  match r.newest with
  | none => .notReceived
  | some n =>
    if n < i then .notReceived
    else if i + Config.ringDepth ≤ n then .older
    else
      let w := Memory.read RingWord.absent r.words (i % Config.ringDepth)
      if !w.eccOk then .eccFailure else if w.present then .sample w.sample else .missing

/-- Mark the `n` indices from `start` missing (R24, gap positions; R25). -/
def Ring.markMissing (r : Ring) (start n : Nat) : Ring :=
  { r with words := Memory.eraseRun r.words Config.ringDepth start n }

/-- Write a block's samples at `tag`, after the clamp (R24). -/
def Ring.writeBlock (r : Ring) (tag : Nat) (samples : List Sample) : Ring :=
  { newest := some (tag + samples.length - 1)
    words := Memory.writeRun RingWord.absent Config.ringDepth r.words tag
      (samples.map fun x => { sample := x, present := true, eccOk := true }) }

/-- Prepare the ring for the first block after ABSENT (R25). -/
def Ring.prepare (r : Ring) (tag : Nat) : Ring :=
  match r.newest with
  | none => r
  | some n => if n < tag then r.markMissing (n + 1) (tag - n - 1) else Ring.cleared

/-! ## Banks (chapter 3) -/

/-- The bank of a letter. -/
def Banks.get (b : Banks) : BankId → Bank
  | .a => b.a
  | .b => b.b

/-- Replace the bank of a letter. -/
def Banks.set (b : Banks) (i : BankId) (x : Bank) : Banks :=
  match i with
  | .a => { b with a := x }
  | .b => { b with b := x }

/-- The other bank. -/
def BankId.other : BankId → BankId
  | .a => .b
  | .b => .a

/-- Change one bank of the engine. -/
def updateBank (s : State) (i : BankId) (f : Bank → Bank) : State :=
  s.setBanks (s.banks.set i (f (s.banks.get i)))

/-- The ACTIVE bank (R61). -/
def activeBank (s : State) : Option Bank := s.banks.active.map s.banks.get

/-- DMAX of the ACTIVE bank, 0 while there is none. -/
def activeDmax (s : State) : Nat := ((activeBank s).bind Bank.dmax).getD 0

/-- A delay entry of a row, in lane order. -/
def Row.delayEntry (r : Row) (lane : Nat) : DelayEntry := r.delays.getD lane { delay := none, parityOk := true }

/-- The flag value of a row: ENABLED 1 plus NUISANCE 2 (R51, R55). -/
def FlagEntry.value (f : FlagEntry) : Nat := (if f.enabled then 1 else 0) + (if f.nuisance then 2 else 0)

/-- A delay as it is shown: NONE as 1023 (R55, R59). -/
def DelayEntry.shown (d : DelayEntry) : Nat := d.delay.getD 1023

/-- The 385 bytes a row gives to the bank check (R55). -/
def Row.checkBytes (r : Row) : Bytes :=
  encNat 1 r.flags.value ++ (r.delays.map fun d => encNat 2 d.shown).flatten

/-- The first delay entry, from lane `lane` on, that fails its parity check. -/
def firstBadDelay : Nat → List DelayEntry → Option RowEntry
  | _, [] => none
  | lane, d :: ds => if d.parityOk then firstBadDelay (lane + 1) ds else some (.delay lane)

/-- The first entry of a row that fails its parity check, in the order flag entry, then lanes 0 to 191 (R56, R59). -/
def Row.firstBad (r : Row) : Option RowEntry :=
  if r.flags.parityOk then firstBadDelay 0 r.delays else some .flag

/-- The number of entries of a row that fail their parity check (R59). -/
def Row.badCount (r : Row) : Nat :=
  (if r.flags.parityOk then 0 else 1) + (r.delays.filter fun d => !d.parityOk).length

/-- The largest delay of a row other than NONE (R53, R54). -/
def Row.maxDelay (r : Row) : Nat := r.delays.foldl (fun m d => max m (d.delay.getD 0)) 0

/-- The lowest of the `n` voxels from `v` whose written mark is clear (R53, R58). -/
def Bank.lowestUnwritten (b : Bank) : Nat → Nat → Option Nat
  | 0, _ => none
  | n + 1, v => if (Memory.find b.rows v).isNone then some v else b.lowestUnwritten n (v + 1)

/-- The number of voxels below the voxel count whose written mark is set (R58). -/
def Bank.writtenCount (b : Bank) : Nat := (b.rows.filter fun e => e.1 < b.voxelCount).length

/-! ## The Snippet Store (6.2) -/

/-- What a Snippet Store word reads as before a capture writes it (DESIGN CHOICE, assumption 7; unsafe). -/
def StoreWord.unwritten : StoreWord := { sample := missingMarker, eccOk := true }

/-- Read a store word; `none` where its ECC cannot correct it (R137). -/
def SnippetStore.readWord (st : SnippetStore) (w : Nat) : Option Sample :=
  let x := Memory.read StoreWord.unwritten st.words w
  if x.eccOk then some x.sample else none

/-- Write a store word with fresh ECC (R128). -/
def SnippetStore.writeWord (st : SnippetStore) (w : Nat) (x : Sample) : SnippetStore :=
  { st with words := Memory.write StoreWord.unwritten st.words w { sample := x, eccOk := true } }

/-- The words a record's extent takes: the sum of its entries' COUNT (R123). -/
def extentSize (plan : List PlanEntry) : Nat := (plan.map PlanEntry.count).sum

/-- Whether a status holds an extent (R119). -/
def SnippetStatus.holdsExtent : SnippetStatus → Bool
  | .capturing | .complete | .partialCopy => true
  | .none | .waiting | .noSpace | .aborted => false

/-- Whether a record is settled (R119). -/
def SnippetStatus.settled : SnippetStatus → Bool
  | .none | .complete | .partialCopy | .noSpace | .aborted => true
  | .waiting | .capturing => false

/-- The words of the extent a record holds (R122). -/
def EventRecord.extent (r : EventRecord) : Nat := if r.status.holdsExtent then extentSize r.plan else 0

/-- The tail position: the word at which the oldest extent begins, or the write position when none is held (R122). -/
def SnippetStore.tailPos (st : SnippetStore) : Nat := (st.writePos + st.freeWords) % Config.storeWords

/-! ## Lists -/

/-- Apply `f` to the first element that `p` accepts. -/
def modifyFirst {α : Type} (p : α → Bool) (f : α → α) : List α → List α
  | [] => []
  | x :: xs => if p x then f x :: xs else x :: modifyFirst p f xs

/-- Take the first element that `p` accepts out of a list. -/
def takeFirst {α : Type} (p : α → Bool) : List α → Option (α × List α)
  | [] => none
  | x :: xs => if p x then some (x, xs) else (takeFirst p xs).map fun r => (r.1, x :: r.2)

end Sys2Proof.Machine
end

