-- ==== Sys2Proof/Machine/Flags.lean ====
section
/-! DEFINITION. The nine notice flags, their enables and the notice due mark (9.1, 9.2). -/

namespace Sys2Proof.Machine

/-- The bit of a flag in the flag and enable sets (R157, NOTICE). -/
def Flag.bit : Flag → Nat
  | .eventReady => 0 | .queueOverflow => 1 | .laneChange => 2 | .scanState => 3 | .scanOverrun => 4
  | .lineSilent => 5 | .bank => 6 | .fault => 7 | .address => 8

/-- The set that holds one flag. -/
def Flag.mask (f : Flag) : BitVec 9 := 1#9 <<< f.bit

/-- Whether a flag is set. -/
def NoticeUnit.isSet (n : NoticeUnit) (f : Flag) : Bool := n.flags &&& f.mask != 0

/-- The flags that are both set and enabled (R171). -/
def NoticeUnit.reportable (n : NoticeUnit) : BitVec 9 := n.flags &&& n.enables

/-- A cause sets its flag; a flag that goes from clear to set while its enable is on makes a notice due (R170, R171). -/
def NoticeUnit.raise (n : NoticeUnit) (f : Flag) : NoticeUnit :=
  if n.isSet f then n
  else { n with flags := n.flags ||| f.mask, due := n.due || (n.enables &&& f.mask != 0) }

/-- Set a notice flag (R170). -/
def setFlag (f : Flag) (s : State) : State := s.setNotice (s.notice.raise f)

/-- Set a notice flag where `c` holds. -/
def setFlagIf (c : Bool) (f : Flag) (s : State) : State := if c then setFlag f s else s

/-- The producer `p` no longer waits for room (R148, R172). -/
def stopWaiting (p : Producer) (s : State) : State :=
  s.setLine { s.line with waiters := s.line.waiters.filter fun q => q != p }

/-- A due notice is cancelled when no flag is left both set and enabled (R172). -/
def cancelIfEmpty (s : State) : State :=
  if s.notice.reportable = 0 then stopWaiting .noticeUnit (s.setNotice { s.notice with due := false }) else s

/-- CLEAR NOTICES: each flag named is cleared (R170). -/
def clearFlags (named : BitVec 9) (s : State) : State :=
  cancelIfEmpty (s.setNotice { s.notice with flags := s.notice.flags &&& ~~~named })

/-- SET NOTICE MASK: the enables are replaced; an enable turned on whose flag is set makes a notice due (R170, R171). -/
def setEnables (new : BitVec 9) (s : State) : State :=
  let n := s.notice
  let turnedOn := new &&& ~~~n.enables
  cancelIfEmpty (s.setNotice { n with enables := new, due := n.due || (turnedOn &&& n.flags != 0) })

/-- The 2 bytes of a flag set, bits 9 to 15 sent as 0 (R157). -/
def encFlags (f : BitVec 9) : Bytes := encNat 2 f.toNat

end Sys2Proof.Machine
end

