-- ==== Sys2Proof/Machine/Operands.lean ====
section
/-! DEFINITION. The operand forms: the fields of SAMPLE, ENGINE_COMMAND and ROLLCALL frames, the parameters of the engine
commands, and the clamps that bring a value within its range (R157, R166). -/

namespace Sys2Proof.Machine

/-! ## SAMPLE frames -/

/-- The channel count a SAMPLE frame carries: the high four bits of byte 5 (R157). -/
def frameChannels (f : Bytes) : Nat := byteAt f 5 / 16

/-- The rate a SAMPLE frame's rate code denotes: the low four bits of byte 5 (R157). -/
def frameRate (f : Bytes) : Option Nat :=
  match byteAt f 5 % 16 with
  | 1 => some 250
  | 2 => some 500
  | 3 => some 1000
  | _ => none

/-- The tag of a SAMPLE frame (R157). -/
def frameTag (f : Bytes) : Nat := fieldAt f 9 6

/-- The checks of a frame as a whole (R10). -/
def frameFits (rate : Nat) (f : Bytes) : Bool :=
  frameRate f == some rate && frameTag f % 16 == 0 && 1 ≤ frameChannels f && frameChannels f ≤ 3
    && f.length == 20 + 48 * frameChannels f

/-- Sample `j` of channel `channel`, counted from 1 (R157). -/
def frameSample (f : Bytes) (channel j : Nat) : Sample :=
  BitVec.ofNat 24 (fieldAt f (18 + 3 * (j * frameChannels f + (channel - 1))) 3)

/-- The block a SAMPLE frame holds for a lane's station and channel (R157). -/
def frameBlock (f : Bytes) (lane : Nat) (e : LaneEntry) : Block :=
  { lane := lane, station := e.station, channel := e.channel, tag := frameTag f, quality := byteAt f 6
    holdoverAge := fieldAt f 7 2, clips := byteAt f (15 + (e.channel - 1))
    samples := (List.range 16).map (frameSample f e.channel) }

/-- Time quality codes (R157). -/
def qualityLocked : Nat := 0
def qualityHoldover : Nat := 1

/-! ## ENGINE_COMMAND frames -/

/-- The target that broadcasts (R145). -/
def broadcastTarget : Nat := 15

/-- The command a good ENGINE_COMMAND frame of 9 bytes or more carries (R157). -/
def frameCommand (f : Bytes) : Held :=
  { tag := f.getD 5 0, code := f.getD 6 0, params := (f.drop 7).take (f.length - 9) }

/-- Byte `i` of a command's parameters. -/
def Held.byte (c : Held) (i : Nat) : Nat := byteAt c.params i

/-- The number in `n` parameter bytes from offset `i`. -/
def Held.field (c : Held) (i n : Nat) : Nat := fieldAt c.params i n

/-- A yes/no parameter: a byte above 1 is taken as yes (R156). -/
def Held.yes (c : Held) (i : Nat) : Bool := c.byte i != 0

/-- A set of notice flags in 2 parameter bytes, bits 9 to 15 ignored (R170). -/
def Held.flagSet (c : Held) : BitVec 9 := BitVec.ofNat 9 (c.field 0 2)

/-- A bank code: 0 for A, 1 for B (3.2). -/
def bankOfCode : Nat → Option BankId
  | 0 => some .a
  | 1 => some .b
  | _ => none

/-- An address mode: AUTO 0, MANUAL 1. -/
def modeOfCode : Nat → Option AddressMode
  | 0 => some .auto
  | 1 => some .manual
  | _ => none

/-- The command codes the manual gives (R159). -/
def knownCodes : List Nat :=
  [0x01, 0x02, 0x08, 0x09, 0x0A, 0x10, 0x11, 0x12, 0x13, 0x20, 0x21, 0x22, 0x23, 0x24, 0x25, 0x30, 0x31, 0x32, 0x33, 0x38,
   0x40, 0x41, 0x42, 0x48, 0x49, 0x4A, 0x50, 0x51, 0x5F]

/-! ## LOAD LANE MAP and LOAD ROWS -/

/-- One packed entry of LOAD LANE MAP, as its lane number and its fields; the fifth component is the INCLUDED code (R157). -/
def mapEntryAt (c : Held) (i : Nat) : Nat × LaneEntry × Nat :=
  let at4 := 1 + 4 * i
  (c.byte at4,
    { station := c.byte (at4 + 1), weight := c.byte (at4 + 2) / 16, channel := c.byte (at4 + 2) % 16
      gainShift := c.byte (at4 + 3) / 16, included := c.byte (at4 + 3) % 16 == 1 },
    c.byte (at4 + 3) % 16)

/-- The entries a LOAD LANE MAP carries. -/
def mapEntries (c : Held) : List (Nat × LaneEntry × Nat) := (List.range (c.byte 0)).map (mapEntryAt c)

/-- Every field of an entry is in its range (R2). -/
def mapEntryFits (x : Nat × LaneEntry × Nat) : Bool :=
  x.1 < Config.lanes && 1 ≤ x.2.1.station && x.2.1.station ≤ 254 && 1 ≤ x.2.1.channel && x.2.1.channel ≤ 3
    && x.2.1.weight ≤ 15 && x.2.1.gainShift ≤ 8 && x.2.2 ≤ 1

/-- No two entries have the same LANE, nor the same STATION and CHANNEL (R1, R2). -/
def mapDistinct : List (Nat × LaneEntry × Nat) → Bool
  | [] => true
  | x :: xs =>
    (xs.all fun y => y.1 != x.1 && !(y.2.1.station == x.2.1.station && y.2.1.channel == x.2.1.channel)) && mapDistinct xs

/-- Delay value of 16 bits as it is stored: 0..1022 as it stands, any other as NONE (R52). -/
def storedDelay (v : Nat) : DelayEntry := { delay := if v ≤ 1022 then some v else none, parityOk := true }

/-- The flag value of row `i` of a LOAD ROWS. -/
def rowFlagValue (c : Held) (i : Nat) : Nat := c.byte (4 + 385 * i)

/-- The delay values of row `i` of a LOAD ROWS, in lane order. -/
def rowDelayValues (c : Held) (i : Nat) : List Nat :=
  (List.range Config.lanes).map fun l => c.field (4 + 385 * i + 1 + 2 * l) 2

/-- Row `i` of a LOAD ROWS as it is stored (R52). -/
def storedRow (c : Held) (i : Nat) : Row :=
  { flags := { enabled := rowFlagValue c i % 2 == 1, nuisance := rowFlagValue c i / 2 % 2 == 1, parityOk := true }
    delays := (rowDelayValues c i).map storedDelay }

/-- Whether a row carries a delay value above 1023 (R52). -/
def rowClamped (c : Held) (i : Nat) : Bool := (rowDelayValues c i).any (1023 < ·)

/-! ## Parameter groups (8.3) -/

/-- Bring a value within a range of numbers (R166). -/
def clampTo (lo hi v : Nat) : Nat := max lo (min hi v)

/-- The nearest sample rate, the lower of two equally near (R166). -/
def clampRate (v : Nat) : Nat := if v ≤ 375 then 250 else if v ≤ 750 then 500 else 1000

/-- The nearest tick length, the lower of two equally near (R166). -/
def clampTickLen (v : Nat) : Nat :=
  if v ≤ 1 then 1 else if v ≤ 3 then 2 else if v ≤ 6 then 4 else if v ≤ 12 then 8 else 16

/-- The bytes of a group's values in its command and replies, in the order of the table (8.3). -/
def groupWidths : Nat → List Nat
  | 0 => List.replicate 12 2
  | 1 => [2, 2]
  | 2 => [2, 2, 2]
  | 3 => List.replicate 8 2
  | 4 => [1, 2, 2, 2, 2]
  | 5 => [1]
  | _ => []

/-- Read fields of the given widths from offset `i`. -/
def fieldsAt (bs : Bytes) : Nat → List Nat → List Nat
  | _, [] => []
  | i, w :: ws => fieldAt bs i w :: fieldsAt bs (i + w) ws

/-- Write fields of the given widths. -/
def encFields : List Nat → List Nat → Bytes
  | w :: ws, v :: vs => encNat w v ++ encFields ws vs
  | _, _ => []

/-- The values of a group, in the order of the table (R164). -/
def Params.values (p : Params) : Nat → List Nat
  | 0 => [p.lane.sampleRate, p.lane.tickLen, p.lane.dcShift, p.lane.staShift, p.lane.ltaShift, p.lane.ltaFloor,
          p.lane.freeze, p.lane.admitCount, p.lane.muteCount, p.lane.clipLimit, p.lane.holdoverLimit, p.lane.maxGap]
  | 1 => [p.timers.laneTimeout, p.timers.lineSilence]
  | 2 => [p.scan.grace, p.scan.lagAllowance, p.scan.minWeight]
  | 3 => [p.detect.tOn, p.detect.tOff, p.detect.coherence, p.detect.kOn, p.detect.qOff, p.detect.maxDuration,
          p.detect.holdoff, p.detect.vetoLimit]
  | 4 => [if p.capture.enable then 1 else 0, p.capture.snipLanes, p.capture.preSamples, p.capture.postSamples,
          p.capture.captureWait]
  | 5 => [if p.faultCapture then 1 else 0]
  | _ => []

/-- The LANE group as it is stored (R166). -/
def storedLane (v : List Nat) : LaneParams :=
  let x := fun i => v.getD i 0
  let sta := clampTo 1 8 (x 3)
  { sampleRate := clampRate (x 0), tickLen := clampTickLen (x 1), dcShift := clampTo 6 14 (x 2), staShift := sta
    ltaShift := max (sta + 2) (min 16 (x 4)), ltaFloor := clampTo 1 65535 (x 5), freeze := clampTo 256 65535 (x 6)
    admitCount := clampTo 1 63 (x 7), muteCount := clampTo 1 15 (x 8), clipLimit := clampTo 0 16 (x 9)
    holdoverLimit := clampTo 0 65535 (x 10), maxGap := clampTo 0 4096 (x 11) }

/-- The TIMERS group as it is stored (R166). -/
def storedTimers (v : List Nat) : TimerParams :=
  { laneTimeout := clampTo 50 10000 (v.getD 0 0), lineSilence := clampTo 100 60000 (v.getD 1 0) }

/-- The SCAN group as it is stored (R166). -/
def storedScan (v : List Nat) : ScanParams :=
  { grace := clampTo 0 255 (v.getD 0 0), lagAllowance := clampTo 64 1024 (v.getD 1 0)
    minWeight := clampTo 1 2880 (v.getD 2 0) }

/-- The DETECT group as it is stored (R166). -/
def storedDetect (v : List Nat) : DetectParams :=
  let x := fun i => v.getD i 0
  let tOn := clampTo 256 65535 (x 0)
  { tOn := tOn, tOff := min tOn (clampTo 256 65535 (x 1)), coherence := clampTo 16 255 (x 2), kOn := clampTo 1 15 (x 3)
    qOff := clampTo 1 63 (x 4), maxDuration := clampTo 16 1024 (x 5), holdoff := clampTo 0 1023 (x 6)
    vetoLimit := clampTo 0 1024 (x 7) }

/-- The CAPTURE group as it is stored (R166). -/
def storedCapture (v : List Nat) : CaptureParams :=
  { enable := v.getD 0 0 != 0, snipLanes := clampTo 1 8 (v.getD 1 0), preSamples := clampTo 0 1023 (v.getD 2 0)
    postSamples := clampTo 1 2047 (v.getD 3 0), captureWait := clampTo 100 10000 (v.getD 4 0) }

/-- The parameter set with one group replaced by values brought within their ranges (R165, R166). -/
def Params.store (p : Params) (group : Nat) (v : List Nat) : Params :=
  match group with
  | 0 => { p with lane := storedLane v }
  | 1 => { p with timers := storedTimers v }
  | 2 => { p with scan := storedScan v }
  | 3 => { p with detect := storedDetect v }
  | 4 => { p with capture := storedCapture v }
  | 5 => { p with faultCapture := v.getD 0 0 != 0 }
  | _ => p

/-- The bytes of a group's values as the table gives them (R165, R169). -/
def Params.encGroup (p : Params) (group : Nat) : Bytes :=
  encNat 1 group ++ encFields (groupWidths group) (p.values group)

end Sys2Proof.Machine
end

