-- ==== Sys2Proof/Machine/Line.lean ====
section
/-! DEFINITION. The Line Interface: the queues, the Output Arbiter, the replies and own frames, routing and roll call
(chapter 7), and how the Command Unit begins and answers a command (8.1). -/

namespace Sys2Proof.Machine

/-- The source field of the frames the engine builds: the address, or 255 while it is invalid (R154, R157). -/
def Line.source (l : Line) : Nat := if l.addressValid then l.address else 255

/-! ## The Own Queue and the Output Arbiter -/

/-- The Own Queue has room for one more frame (R148). -/
def Line.room (l : Line) : Bool := l.own.length < Config.ownDepth

/-- Producer `p` may place a frame now: there is room, and no other producer has waited longer (R148). -/
def Line.mayPlace (l : Line) (p : Producer) : Bool :=
  l.room && (match l.waiters with | [] => true | q :: _ => q == p)

/-- The Output Arbiter's choice while the transmitter is free and HOLD is not in force (R149, R150). -/
def Line.arbitrate (l : Line) : Line :=
  if l.hold || l.dnTx.isSome then l
  else
    match l.own, l.fwd with
    | f :: rest, [] => { l with own := rest, dnTx := some { bytes := f, isOwn := true }, sinceOwn := 0 }
    | f :: rest, g :: more =>
      if l.sinceOwn = Config.forwardedRun then
        { l with own := rest, dnTx := some { bytes := f, isOwn := true }, sinceOwn := 0 }
      else
        { l with fwd := more, dnTx := some { bytes := g, isOwn := false }
                 sinceOwn := min Config.forwardedRun (l.sinceOwn + 1) }
    | [], g :: more =>
      { l with fwd := more, dnTx := some { bytes := g, isOwn := false }
               sinceOwn := min Config.forwardedRun (l.sinceOwn + 1) }
    | [], [] => l

/-- A reply that waits is placed when a place is free for it; the command then leaves the list (R148, R158). -/
def placeReply (frame : Bytes) (s : State) : State :=
  (s.setLine { s.line with own := s.line.own ++ [frame], waiters := s.line.waiters.filter fun q => q != .commandUnit }).setCmd
    { held := s.cmd.held.tail, executing := none }

/-- One freed place goes to the producer that has waited longest, where its frame is already built (R148). A NOTICE or a
SNIPPET frame is built when it is placed, by its own step; the place is kept for it (assumption 17). -/
def placeOneWaiter (s : State) : State :=
  if s.line.room then
    match s.line.waiters with
    | .commandUnit :: _ =>
      match s.cmd.executing with
      | some (.replyWaiting f) => placeReply f s
      | _ => s
    | .lineInterface :: rest =>
      match s.line.waitingAnswer with
      | some f => s.setLine { s.line with own := s.line.own ++ [f], waiters := rest, waitingAnswer := none }
      | none => s
    | .noticeUnit :: _ => s
    | [] => s
  else s

/-- Every producer that waits and may place its frame does so (at most the three producers wait). -/
def placeWaiters (s : State) : State := placeOneWaiter (placeOneWaiter (placeOneWaiter s))

/-- The Output Arbiter's choice on the state (R149). -/
def arbitrate (s : State) : State := s.setLine s.line.arbitrate

/-- After any step that may place an own frame or free the transmitter: freed places are filled, and the arbiter chooses
(R148, R149). -/
def settleLine (s : State) : State := placeWaiters (arbitrate (placeWaiters s))

/-! ## Steps -/

/-- A step of the engine: nothing happens while the reset line holds it (R177). -/
def live (f : State → State) (s : State) : Host.Outcome State Fault Refusal :=
  .next (if s.resetHeld then s else f s)

/-- A step that may place own frames: the line settles after it. -/
def liveLine (f : State → State) (s : State) : Host.Outcome State Fault Refusal := live (fun t => settleLine (f t)) s

/-- A hot start is in progress (R178). -/
def hotStarting (s : State) : Bool := s.cmd.executing == some .hotStart

/-! ## Beginning and answering a command (R158 to R160) -/

/-- An ENGINE_REPLY frame (R157). -/
def replyFrame (source : Nat) (c : Held) (code : ReplyCode) (result : Bytes) : Bytes :=
  ownFrame kindReply (encNat 1 source ++ [c.tag, c.code] ++ encNat 1 code.code ++ result)

/-- The reply to the oldest held command is built and placed, or waits for room; the execution ends when it is placed
(R148, R158, R160). -/
def answer (code : ReplyCode) (result : Bytes) (s : State) : State :=
  match s.cmd.held with
  | [] => s
  | c :: _ =>
    let f := replyFrame s.line.source c code result
    if s.line.mayPlace .commandUnit then placeReply f s
    else
      (s.setLine { s.line with waiters := s.line.waiters.filter (fun q => q != .commandUnit) ++ [.commandUnit] }).setCmd
        { s.cmd with executing := some (.replyWaiting f) }

/-- The oldest held command begins execution when none is in execution (R158). -/
def beginHeld (mine : Held → Bool) (body : Held → State → State) (s : State) : State :=
  match s.cmd.executing, s.cmd.held with
  | none, c :: _ => if mine c then body c s else s
  | _, _ => s

/-- The checks of R159 that come before a command's own: the length, then the FROZEN condition for a command not served
there. -/
def checked (fits : Held → Bool) (served : Bool) (body : Held → State → State) (c : Held) (s : State) : State :=
  if !fits c then answer .badRequest [] s
  else if s.notice.frozen && !served then answer .frozen [] s
  else body c s

/-- A command with fixed parameters: its length equals their length (R159). -/
def fixedLength (n : Nat) (c : Held) : Bool := c.params.length == n

/-- The execution of the oldest held command when its code is `code` (R158, R159). -/
def runCommand (code : Nat) (fits : Held → Bool) (served : Bool) (body : Held → State → State) (s : State) :
    Host.Outcome State Fault Refusal :=
  liveLine (beginHeld (fun c => c.code.toNat == code) (checked fits served body)) s

/-! ## Roll call and the address (7.4) -/

/-- The Notice and Fault Unit is told that the address has become valid (R172). -/
def addressBecameValid (s : State) : State := if s.notice.due then cancelIfEmpty s else s

/-- A ROLLCALL_ANSWER frame (R157). -/
def rollcallAnswer (l : Line) (seq : Bytes) (hop : Nat) : Bytes :=
  ownFrame kindRollcallAnswer (encNat 1 l.source ++ encNat 1 l.mode.code ++ encBool l.addressValid ++ seq ++ encNat 1 hop)

/-- The answer is placed, or waits; an answer that waits already is replaced in its waiting position (R148). -/
def placeAnswer (f : Bytes) (s : State) : State :=
  if s.line.waitingAnswer.isSome then s.setLine { s.line with waitingAnswer := some f }
  else if s.line.mayPlace .lineInterface then s.setLine { s.line with own := s.line.own ++ [f] }
  else s.setLine { s.line with waitingAnswer := some f, waiters := s.line.waiters ++ [.lineInterface] }

/-- The address and its validity after a roll call of hop `hop` (R152, steps 1 and 2). -/
def Line.rollcallAddress (l : Line) (hop : Nat) : Line :=
  match l.mode with
  | .manual => l
  | .auto => if hop ≤ 3 then { l with address := hop, addressValid := true } else { l with addressValid := false }

/-- The address or its validity differs between two moments (R152). -/
def addressChanged (l l' : Line) : Bool := l.address != l'.address || l.addressValid != l'.addressValid

/-- The address part of a roll call: the address, the ADDRESS flag, and the Notice and Fault Unit told or its offer stopped
(R152, R172). -/
def rollcallSet (hop : Nat) (s : State) : State :=
  let l' := s.line.rollcallAddress hop
  let t := setFlagIf (addressChanged s.line l') .address (s.setLine l')
  if !l'.addressValid then stopWaiting .noticeUnit t
  else if !s.line.addressValid then addressBecameValid t
  else t

/-- A ROLLCALL with its hop byte increased by 1, or left at 255, and its CRC recomputed (R143, R152). -/
def rollcallForward (f : Bytes) : Bytes :=
  let hop := byteAt f 1
  withTail ([f.getD 0 0, BitVec.ofNat 8 (min 255 (hop + 1))] ++ (f.drop 2).take (f.length - 4))

/-! ## Routing (7.2) -/

/-- A frame routed to the Upward Queue: placed at its tail, or counted in UP_DROPS (R145); the upstream transmitter takes the
oldest whenever it is free (R151). -/
def Line.upward (l : Line) (f : Bytes) : Line :=
  if l.up.length < Config.upwardDepth then { l with up := l.up ++ [f] }
  else { l with dnPort := { l.dnPort with drops := satAdd l.dnPort.drops 1 } }

/-- The upstream transmitter sends the oldest frame of the Upward Queue whenever it is free (R151). -/
def Line.sendUp (l : Line) : Line :=
  match l.upTx, l.up with
  | none, f :: rest => { l with up := rest, upTx := some f }
  | _, _ => l

/-- Route a frame to the Upward Queue. -/
def routeUp (f : Bytes) (s : State) : State := s.setLine (s.line.upward f).sendUp

/-- A command routed to the Command Unit is held, or discarded and counted (R146); during a hot start it is discarded
(R179). -/
def takeCommand (c : Held) (s : State) : State :=
  if hotStarting s || Config.heldDepth ≤ s.cmd.held.length then
    s.setLine { s.line with commandDiscards := satAdd s.line.commandDiscards 1 }
  else s.setCmd { s.cmd with held := s.cmd.held ++ [c] }

/-- A ROLLCALL at the downstream port (R152): address, answer, forwarding. -/
def handleRollcall (f : Bytes) (s : State) : State :=
  let hop := byteAt f 1
  let t := rollcallSet hop s
  routeUp (rollcallForward f) (placeAnswer (rollcallAnswer t.line ((f.drop 4).take 2) hop) t)

/-- Routing of a good frame that arrives at the downstream port, by its kind (R145). -/
def routeDownstream (f : Bytes) (s : State) : State :=
  if byteAt f 0 = kindRollcall then handleRollcall f s
  else if byteAt f 0 = kindCommand then
    if f.length < 9 then
      routeUp f (s.setLine { s.line with dnPort := { s.line.dnPort with formatDrops := satAdd s.line.dnPort.formatDrops 1 } })
    else if byteAt f 4 = broadcastTarget then routeUp f (takeCommand (frameCommand f) s)
    else if s.line.addressValid && byteAt f 4 == s.line.address then takeCommand (frameCommand f) s
    else routeUp f s
  else routeUp f s

/-- Count a received frame (R142). -/
def PortCounters.received (p : PortCounters) (good : Bool) : PortCounters :=
  { p with framesIn := satAdd p.framesIn 1, badFrames := if good then p.badFrames else satAdd p.badFrames 1 }

/-- Handing a good SAMPLE frame to the Lane Tracker: not while FROZEN, nor during a hot start (R9, R144, R179). -/
def handSample (f : Bytes) (s : State) : State :=
  if byteAt f 0 = kindSample && !s.notice.frozen && !hotStarting s then
    s.setTracker { s.tracker with inbox := s.tracker.inbox ++ [f] }
  else s

/-- A good frame at the upstream port: placed in the Forwarding Queue or counted in FWD_DROPS (R144). -/
def Line.forwardFrame (l : Line) (f : Bytes) : Line :=
  if l.fwd.length < Config.forwardingDepth then { l with fwd := l.fwd ++ [f] }
  else { l with upPort := { l.upPort with drops := satAdd l.upPort.drops 1 } }

/-! ## The commands of the line -/

/-- UPSTREAM_FRAME_RECEIVED (R142, R144). -/
def upstreamFrame (f : Bytes) (s : State) : State :=
  let good := frameGood f
  let t := s.setLine { s.line with upPort := s.line.upPort.received good }
  if good then handSample f (t.setLine (t.line.forwardFrame f)) else t

def execUpstreamFrameReceived (bytes : Bytes) (s : State) : Host.Outcome State Fault Refusal :=
  liveLine (upstreamFrame bytes) s

/-- DOWNSTREAM_FRAME_RECEIVED (R142, R145). -/
def downstreamFrame (f : Bytes) (s : State) : State :=
  let good := frameGood f
  let t := s.setLine { s.line with dnPort := s.line.dnPort.received good }
  if good then routeDownstream f t else t

def execDownstreamFrameReceived (bytes : Bytes) (s : State) : Host.Outcome State Fault Refusal :=
  liveLine (downstreamFrame bytes) s

/-- HOLD_RECEIVED: the hold condition is set (R150). -/
def execHoldReceived (s : State) : Host.Outcome State Fault Refusal :=
  live (fun t => t.setLine { t.line with hold := true }) s

/-- HOLD_RELEASE_RECEIVED: the hold condition is cleared, and the arbiter chooses (R149, R150). -/
def execHoldReleaseReceived (s : State) : Host.Outcome State Fault Refusal :=
  liveLine (fun t => t.setLine { t.line with hold := false }) s

/-- The frame in transmission downstream has been sent: OWN_SENT or the upstream port's FORWARDED counts it (R147, R148). -/
def Line.downstreamSent (l : Line) : Line :=
  match l.dnTx with
  | none => l
  | some f =>
    if f.isOwn then { l with dnTx := none, ownSent := satAdd l.ownSent 1 }
    else { l with dnTx := none, upPort := { l.upPort with forwarded := satAdd l.upPort.forwarded 1 } }

/-- DOWNSTREAM_TRANSMIT_END (R147 to R149). -/
def execDownstreamTransmitEnd (s : State) : Host.Outcome State Fault Refusal :=
  liveLine (fun t => t.setLine t.line.downstreamSent) s

/-- The frame in transmission upstream has been sent: the downstream port's FORWARDED counts it (R147). -/
def Line.upstreamSent (l : Line) : Line :=
  match l.upTx with
  | none => l
  | some _ => { l with upTx := none, dnPort := { l.dnPort with forwarded := satAdd l.dnPort.forwarded 1 } }

/-- UPSTREAM_TRANSMIT_END (R147, R151). -/
def execUpstreamTransmitEnd (s : State) : Host.Outcome State Fault Refusal :=
  live (fun t => t.setLine t.line.upstreamSent.sendUp) s

/-- A NOTICE frame as things stand (R157, R171). -/
def noticeFrameBytes (s : State) : Bytes :=
  ownFrame kindNotice (encNat 1 s.line.source ++ encFlags s.notice.reportable ++ encOpt 6 s.tracker.lineTime
    ++ encNat 1 s.queue.length)

/-- NOTICE_FRAME: a due notice is offered while the address is valid; it is placed, or waits for room (R148, R171). -/
def placeNotice (s : State) : State :=
  if s.notice.due && s.line.addressValid && s.notice.reportable != 0 then
    if s.line.mayPlace .noticeUnit then
      (s.setLine { s.line with own := s.line.own ++ [noticeFrameBytes s]
                               waiters := s.line.waiters.filter fun q => q != .noticeUnit }).setNotice
        { s.notice with due := false }
    else if s.line.waiters.contains .noticeUnit then s
    else s.setLine { s.line with waiters := s.line.waiters ++ [.noticeUnit] }
  else s

def execNoticeFrame (s : State) : Host.Outcome State Fault Refusal := liveLine placeNotice s

/-- UNKNOWN_COMMAND_CODE: a code the manual does not give is answered BAD_REQUEST (R159). -/
def execUnknownCommandCode (s : State) : Host.Outcome State Fault Refusal :=
  liveLine (beginHeld (fun c => !knownCodes.contains c.code.toNat) fun _ t => answer .badRequest [] t) s

/-- SET ADDRESS's own handling (R153). -/
def setAddress (c : Held) (s : State) : State :=
  match modeOfCode (c.byte 0) with
  | none => answer .badRequest [] s
  | some .auto => answer .ok [] (s.setLine { s.line with mode := .auto })
  | some .manual =>
    if c.byte 1 ≤ 3 then
      let t := s.setLine { s.line with mode := .manual, address := c.byte 1, addressValid := true }
      answer .ok [] (if s.line.addressValid then t else addressBecameValid t)
    else answer .badRequest [] s

/-- SET_ADDRESS, code 0x01: mode and address; served while FROZEN (R153). -/
def execSetAddress (s : State) : Host.Outcome State Fault Refusal := runCommand 0x01 (fixedLength 2) true setAddress s

/-- The port counters in the order of R155, upstream port first. -/
def Line.counterValues (l : Line) : List Nat :=
  [l.upPort.framesIn, l.upPort.badFrames, l.upPort.formatDrops, l.upPort.forwarded, l.upPort.drops,
   l.dnPort.framesIn, l.dnPort.badFrames, l.dnPort.formatDrops, l.dnPort.forwarded, l.dnPort.drops, l.ownSent,
   l.commandDiscards]

/-- Counters of 4 bytes each (R156). -/
def encCounters (cs : List Nat) : Bytes := (cs.map (encNat 4)).flatten

/-- The result of READ PORT COUNTERS (R155). -/
def portCountersResult (l : Line) : Bytes :=
  encCounters l.counterValues ++ encNat 1 l.fwd.length ++ encNat 1 l.up.length ++ encNat 1 l.own.length ++ encBool l.hold
    ++ encNat 1 l.sinceOwn

/-- Every port counter at 0 (R155, clear option). -/
def Line.clearCounters (l : Line) : Line :=
  { l with upPort := .zero, dnPort := .zero, ownSent := 0, commandDiscards := 0 }

/-- READ PORT COUNTERS's own handling (R155). -/
def readPortCounters (c : Held) (s : State) : State :=
  answer .ok (portCountersResult s.line) (if c.yes 0 then s.setLine s.line.clearCounters else s)

/-- READ_PORT_COUNTERS, code 0x02: a clear option (R155). -/
def execReadPortCounters (s : State) : Host.Outcome State Fault Refusal :=
  runCommand 0x02 (fixedLength 1) true readPortCounters s

end Sys2Proof.Machine
end

