-- ==== Sys2Proof/Machine/Capture.lean ====
section
/-! DEFINITION. The Event Queue, the allocation of the Snippet Store, and the Capture Unit's choice of a candidate, wait test
and beginning of a capture (chapter 6). -/

namespace Sys2Proof.Machine

/-- A record is waiting (R119). -/
def EventRecord.isWaiting (r : EventRecord) : Bool := r.status == .waiting

/-- A record is the one in capture (6.3). -/
def EventRecord.isCapturing (r : EventRecord) : Bool := r.status == .capturing

/-- The Capture Unit's candidate: the oldest WAITING record, while the unit is IDLE and the engine is not FROZEN (R125). -/
def candidate (s : State) : Option EventRecord :=
  if s.capture.active.isSome || s.notice.frozen then none else s.queue.find? EventRecord.isWaiting

/-- A record becomes settled: EVENT_READY (R120). -/
def raiseEventReady (s : State) : State := setFlag .eventReady s

/-- The lane is lost: EXCLUDED or ABSENT, or its number is unmapped (R126 (b)). -/
def laneLost (s : State) (lane : Nat) : Bool :=
  match Memory.find s.tracker.lanes lane with
  | none => true
  | some l => l.record.state == .excluded || l.record.state == .absent

/-- The lane's ring has received the end of the entry's span (R126 (a)). -/
def spanDelivered (s : State) (e : PlanEntry) : Bool :=
  (ringOf s e.lane).newest.any fun n => e.start + e.count - 1 ≤ n

/-- The wait test of the candidate, with the CAPTURE_WAIT taken at the test (R126). -/
def waitTestPasses (s : State) (r : EventRecord) : Bool :=
  r.plan.all fun e =>
    spanDelivered s e || laneLost s e.lane || r.closeTime + s.params.capture.captureWait ≤ s.now

/-- The entries of a plan receive their places in an extent that begins at word `first` (R123). -/
def placeEntries : Nat → List PlanEntry → List PlanEntry
  | _, [] => []
  | first, e :: es =>
    { e with extentOffset := some (first % Config.storeWords) } :: placeEntries (first + e.count) es

/-- The candidate's capture begins with an extent (R123, R127). -/
def beginCapture (r : EventRecord) (s : State) : State :=
  let size := extentSize r.plan
  (((s.setQueue (modifyFirst EventRecord.isWaiting
        (fun x => { x with status := .capturing, plan := placeEntries s.store.writePos x.plan }) s.queue)).setStore
      { s.store with writePos := (s.store.writePos + size) % Config.storeWords, freeWords := s.store.freeWords - size }).setCapture
    { active := some { next := 1, storeError := false }, waitTimer := none })

/-- The candidate's capture finds no room: NO_SPACE, settled (R127). -/
def refuseCapture (s : State) : State :=
  raiseEventReady
    ((s.setQueue (modifyFirst EventRecord.isWaiting (fun x => { x with status := .noSpace }) s.queue)).setCapture
      { s.capture with waitTimer := none })

/-- The wait test is made for the candidate; a capture that begins without room leaves the unit IDLE, and the next candidate
is tested at once (R125 to R127). `fuel` bounds the candidates tested. -/
def serveCandidate : Nat → State → State
  | 0, s => s
  | fuel + 1, s =>
    match candidate s with
    | none => s
    | some r =>
      if waitTestPasses s r then
        if s.store.freeWords < extentSize r.plan then serveCandidate fuel (refuseCapture s) else beginCapture r s
      else s.setCapture { s.capture with waitTimer := some (r.closeTime + s.params.capture.captureWait) }

/-- The wait test, at one of the points of R126. -/
def waitTest (s : State) : State := serveCandidate (s.queue.length + 1) s

/-- A lane is named in the candidate's plan (R126). -/
def candidatePlans (s : State) (lane : Nat) : Bool :=
  (candidate s).any fun r => r.plan.any fun e => e.lane == lane

/-- The wait test after a block or a change of state of a lane (R126). -/
def waitTestFor (lane : Nat) (s : State) : State := if candidatePlans s lane then waitTest s else s

/-- WAIT_TIMER_EXPIRY: the timer expires, and the wait test is made again (R126; the clock, assumption 3). -/
def waitTimerExpiry (s : State) : State :=
  match s.capture.waitTimer with
  | none => s
  | some e =>
    if s.notice.frozen then s
    else waitTest ((s.setNow (max s.now e)).setCapture { s.capture with waitTimer := none })

def execWaitTimerExpiry (s : State) : Host.Outcome State Fault Refusal := live waitTimerExpiry s

/-- A record's capture is ended by the FROZEN condition: ABORTED, its entries' places taken back (R132). -/
def EventRecord.abort (r : EventRecord) : EventRecord :=
  if r.status.settled then r
  else { r with status := .aborted, plan := r.plan.map fun e => { e with extentOffset := none } }

/-- The words of the extent that the CAPTURING record holds (R124). -/
def capturingWords (q : List EventRecord) : Nat := ((q.filter EventRecord.isCapturing).map EventRecord.extent).sum

/-- The Capture Unit stops as the engine becomes FROZEN (R124, R132). -/
def abortCaptures (s : State) : State :=
  let size := capturingWords s.queue
  let t := ((s.setQueue (s.queue.map EventRecord.abort)).setStore
      { s.store with writePos := (s.store.writePos + Config.storeWords - size % Config.storeWords) % Config.storeWords
                     freeWords := s.store.freeWords + size }).setCapture .idle
  setFlagIf (s.queue.any fun r => !r.status.settled) .eventReady t

/-- A record is appended at the tail (R118, R121): a settled one raises EVENT_READY; a WAITING one that finds the unit IDLE
and no candidate becomes the candidate and is tested. -/
def appendRecord (r : EventRecord) (s : State) : State :=
  let t := s.setQueue (s.queue ++ [r])
  if r.status.settled then raiseEventReady t
  else if (candidate s).isNone then waitTest t
  else t

/-- The head is removed: its extent, if it holds one, is freed (R124, R139). -/
def removeHead (s : State) : State :=
  match s.queue with
  | [] => s
  | r :: rest => (s.setQueue rest).setStore { s.store with freeWords := s.store.freeWords + r.extent }

end Sys2Proof.Machine
end

