-- ==== Sys2Proof/Machine/Records.lean ====
section
/-! DEFINITION. The record that a close appends, and the Detector after it (R108 to R110, R114, R115): shared by a close that
completes and by a freeze that meets one. -/

namespace Sys2Proof.Machine

/-- The DETECT values in use (R93). A Detector that has taken none meets no tick result; the stored values stand in for them
there (assumption 32). -/
def detValues (s : State) : DetectParams := s.det.inUse.getD s.params.detect

/-- The detector after a close (R115). -/
def Detector.afterClose (d : Detector) (holdoff : Nat) : Detector :=
  { d with state := if 0 < holdoff then .holdoff else .quiet, holdoff := holdoff, running := none, closing := none
           eventsClosed := satAdd d.eventsClosed 1 }

/-- The SNIPPET_STATUS a record is appended with (R111, R114). -/
def appendedStatus (plan : List PlanEntry) (frozen : Bool) : SnippetStatus :=
  if frozen then .aborted else if plan.isEmpty then .none else .waiting

/-- The event record of a close (R108 to R110). -/
def closedRecord (c : Closing) (run : Running) (vetoLimit serial closeTime : Nat) (plan : List PlanEntry) (frozen : Bool) :
    EventRecord :=
  { serial := serial, bank := run.maximum.bank, bankTag := run.maximum.bankTag, onsetTick := run.onsetTick
    originTick := run.maximum.origin, closeTick := c.closeTick, duration := c.closeTick - run.onsetTick + 1
    peakVoxel := run.maximum.peakVoxel, peak := run.maximum.peak, mean := run.maximum.mean
    contributors := run.maximum.pairs.length, vetoCount := run.vetoCount, closeReason := c.reason
    contaminated := vetoLimit < run.vetoCount, overflowFollows := false, status := appendedStatus plan frozen
    plan := plan, closeTime := closeTime }

/-- The record of a close is appended with the next serial, and the detector's state is set (R108 to R110, R114, R115). -/
def appendClosed (c : Closing) (run : Running) (plan : List PlanEntry) (s : State) : State :=
  let d := s.det.afterClose c.detect.holdoff
  appendRecord (closedRecord c run c.detect.vetoLimit s.det.serial s.now plan s.notice.frozen)
    (s.setDet { d with serial := (s.det.serial + 1) % 65536 })

end Sys2Proof.Machine
end

