-- ==== Sys2Proof/Machine/Faults.lean ====
section
/-! DEFINITION. Taking a fault (R173) and becoming FROZEN (R175): one shared operation for every block that reports one. -/

namespace Sys2Proof.Machine

/-- A close in progress as the engine becomes FROZEN: another block's fault completes it in the same step, with no entry made,
so its record is ABORTED (R105, R114, R175; assumption 13). A fault of the planning is met inside the close, which completes as
its walk ends (R114). A close without a running record, which no run reaches, is dropped. -/
def freezeClose (activity : Activity) (s : State) : State :=
  if activity = .planning then s
  else
    match s.det.closing with
    | none => s
    | some c =>
      match s.det.running with
      | some run => appendClosed c run [] s
      | none => s.setDet { s.det with closing := none }

/-- The command in execution as the engine becomes FROZEN: a waiting SET LANE and a validation are answered FROZEN, as is a CLEAR
SCAN whose close has completed; a snippet stream goes on (R4, R57, R71, R138, R161, R175). -/
def freezeCommand (s : State) : State :=
  match s.cmd.executing with
  | some (.laneChange _) => answer .frozen [] s
  | some .clearScan => if s.det.closing.isSome then s else answer .frozen [] s
  | some (.validating _) => answer .frozen [] s
  | some (.replyWaiting _) | some (.streaming _) | some .hotStart | none => s

/-- The engine becomes FROZEN by a fault of `activity` (R72, R9, R132, R175): the scan stops with its tick scan abandoned, the Lane
Tracker drops the frames it has not handled (assumption 10), captures are aborted, and a close in progress completes. The
detector stops where it stands (R105). -/
def enterFrozen (activity : Activity) (s : State) : State :=
  freezeCommand
    (freezeClose activity
      (abortCaptures
        (((s.setNotice { s.notice with frozen := true }).setScan { s.scan with state := .frozen, tick := none }).setTracker
          { s.tracker with inbox := [], blocks := [] })))

/-- A block reports a fault while the engine is not FROZEN (R173). While FROZEN no fault is taken. -/
def takeFault (activity : Activity) (place : FaultPlace) (s : State) : State :=
  if s.notice.frozen then s
  else if s.notice.faultRecord.isSome then
    enterFrozen activity (setFlag .fault (s.setNotice { s.notice with secondFault := some { activity := activity, place := place } }))
  else
    let outcome : FaultOutcome := if s.params.faultCapture then .continued else .frozen
    let t := setFlag .fault (s.setNotice
      { s.notice with faultRecord := some { activity := activity, place := place, cursor := s.scan.cursor
                                            detector := s.det.state, outcome := outcome } })
    if s.params.faultCapture then t else enterFrozen activity t

/-! ## COPY_STEP (R128 to R130) -/

/-- A copy step under way: the state, and the omit counts so far (R128). -/
structure CopyProgress where
  state : State
  omitStart : Nat
  omitEnd : Nat

/-- The first ECC failure of a capture sets the store error flag and takes a STORE_ECC fault (R129). -/
def copyEccFailure (lane index : Nat) (s : State) : State :=
  match s.capture.active with
  | none => s
  | some a =>
    if a.storeError then s
    else takeFault .capture (.ring lane index) (s.setCapture { s.capture with active := some { a with storeError := true } })

/-- Write a word of a capture's extent (R123, R128). -/
def writeStore (w : Nat) (x : Sample) (s : State) : State := s.setStore (s.store.writeWord (w % Config.storeWords) x)

/-- Copy sample index `i` of a lane's ring to store word `w` (R128, R129). -/
def copyWord (lane i w : Nat) (p : CopyProgress) : CopyProgress :=
  match (ringOf p.state lane).readSample i with
  | .notReceived => { p with state := writeStore w missingMarker p.state, omitEnd := p.omitEnd + 1 }
  | .older => { p with state := writeStore w missingMarker p.state, omitStart := p.omitStart + 1 }
  | .sample x => { p with state := writeStore w x p.state }
  | .missing => { p with state := writeStore w missingMarker p.state }
  | .eccFailure => { p with state := copyEccFailure lane i (writeStore w missingMarker p.state) }

/-- Copy `n` words; a fault that makes the engine FROZEN ends the capture at its index (R129). -/
def copyWords (lane : Nat) : Nat → Nat → Nat → CopyProgress → CopyProgress
  | 0, _, _, p => p
  | n + 1, i, w, p =>
    let q := copyWord lane i w p
    if q.state.notice.frozen then q else copyWords lane n (i + 1) (w + 1) q

/-- Apply `f` to entry `k`, counted from 1, of a plan. -/
def modifyEntry (f : PlanEntry → PlanEntry) : Nat → List PlanEntry → List PlanEntry
  | _, [] => []
  | 0, es => es
  | 1, e :: es => f e :: es
  | k + 2, e :: es => e :: modifyEntry f (k + 1) es

/-- The omit counts of entry `k`, as its copy step found them (R128). -/
def EventRecord.setOmits (k omitStart omitEnd : Nat) (r : EventRecord) : EventRecord :=
  { r with plan := modifyEntry (fun e => { e with omitStart := omitStart, omitEnd := omitEnd }) k r.plan }

/-- Change the record in capture. -/
def updateCapturing (f : EventRecord → EventRecord) (s : State) : State :=
  s.setQueue (modifyFirst EventRecord.isCapturing f s.queue)

/-- The status at the end of a capture (R130). -/
def EventRecord.outcome (r : EventRecord) (storeError : Bool) : SnippetStatus :=
  if !storeError && r.plan.all (fun e => e.omitStart == 0 && e.omitEnd == 0) then .complete else .partialCopy

/-- The capture ends: COMPLETE or PARTIAL, EVENT_READY, the unit IDLE, the next candidate chosen (R130). -/
def endCapture (storeError : Bool) (s : State) : State :=
  waitTest (raiseEventReady
    ((updateCapturing (fun r => { r with status := r.outcome storeError }) s).setCapture .idle))

/-- COPY_STEP: the next plan entry's span is copied (R128), and the last ends the capture (R130). -/
def copyStep (s : State) : State :=
  match s.capture.active, s.queue.find? EventRecord.isCapturing with
  | some a, some r =>
    match r.plan[a.next - 1]? with
    | none => s
    | some e =>
      let p := copyWords e.lane e.count e.start (e.extentOffset.getD 0) { state := s, omitStart := 0, omitEnd := 0 }
      match p.state.capture.active with
      | none => p.state
      | some a' =>
        let t := updateCapturing (EventRecord.setOmits a.next p.omitStart p.omitEnd) p.state
        if a.next < r.plan.length then t.setCapture { t.capture with active := some { a' with next := a.next + 1 } }
        else endCapture a'.storeError t
  | _, _ => s

def execCopyStep (s : State) : Host.Outcome State Fault Refusal := liveLine copyStep s

end Sys2Proof.Machine
end

