-- ==== Sys2Proof/Machine/Detector.lean ====
section
/-! DEFINITION. The Detector: the tests of one tick, the handling of tick results, cuts and stops, and the close of an event
with its snippet plan (chapter 5). The record of a close stands in Records.lean. -/

namespace Sys2Proof.Machine

/-! ## The tests of one tick (R94) -/

/-- The four conditions of a trigger test, with the level `level`. -/
def triggerAt (level coherence : Nat) (r : TickResult) : Bool :=
  1 ≤ r.eligible && !r.nuisance && level ≤ r.peak && r.mean * coherence ≤ r.peak * 16

/-- trigger_on(t). -/
def triggerOn (v : DetectParams) (r : TickResult) : Bool := triggerAt v.tOn v.coherence r

/-- trigger_off(t). -/
def triggerOff (v : DetectParams) (r : TickResult) : Bool := triggerAt v.tOff v.coherence r

/-- veto(t). -/
def vetoTick (r : TickResult) : Bool := 1 ≤ r.eligible && r.nuisance

/-- A tick's summary as a maximum (R95, R97). -/
def TickResult.asMaximum (r : TickResult) : Maximum :=
  { origin := r.origin, peak := r.peak, peakVoxel := r.peakVoxel.getD 0, mean := r.mean, bank := r.bank
    bankTag := r.bankTag, pairs := r.pairs }

/-- The running maximum moves only to a strictly greater peak (R97). -/
def Maximum.update (m : Maximum) (r : TickResult) : Maximum := if m.peak < r.peak then r.asMaximum else m

/-! ## Closing (5.5, 5.7) -/

/-- The tail gets OVERFLOW_FOLLOWS (R107). -/
def markOverflow : List EventRecord → List EventRecord
  | [] => []
  | [r] => [{ r with overflowFollows := true }]
  | r :: q :: rest => r :: markOverflow (q :: rest)

/-- A closing record that finds the Event Queue full is discarded (R107, R115). -/
def discardClose (s : State) : State :=
  let d := s.det.afterClose (detValues s).holdoff
  setFlag .queueOverflow
    ((s.setDet { d with queueDiscards := satAdd d.queueDiscards 1 }).setQueue (markOverflow s.queue))

/-- A close begins: a place is reserved, and the CAPTURE values are taken, with the DETECT values in use noted; or the record is
discarded (R106, R111, R93). -/
def beginClose (reason : CloseReason) (closeTick : Nat) (boundary : Bool) (s : State) : State :=
  if s.queue.length < Config.queueDepth then
    s.setDet { s.det with closing := some { reason := reason, closeTick := closeTick, capture := s.params.capture
                                            detect := detValues s, boundary := boundary, overrun := false } }
  else discardClose s

/-! ## Tick results in each state (5.3) -/

/-- A candidate opens (R95). -/
def openCandidate (v : DetectParams) (r : TickResult) (d : Detector) : Detector :=
  { d with
    state := if v.kOn ≤ 1 then .declared else .onset
    running := some { onsetTick := r.origin, onsetCount := 1, quietRun := 0, vetoCount := 0, durationLimit := v.maxDuration
                      lastTick := r.origin, maximum := r.asMaximum } }

/-- A tick result in QUIET (R95). -/
def tickInQuiet (v : DetectParams) (r : TickResult) (d : Detector) : Detector :=
  if triggerOn v r then openCandidate v r d
  else if vetoTick r then { d with nuisanceHits := satAdd d.nuisanceHits 1 }
  else d

/-- The candidate is aborted (R96, R101, R102). -/
def Detector.abortOnset (d : Detector) : Detector :=
  { d with state := .quiet, running := none, abortedOnsets := satAdd d.abortedOnsets 1 }

/-- A tick result in ONSET (R96). -/
def tickInOnset (v : DetectParams) (r : TickResult) (run : Running) (d : Detector) : Detector :=
  if triggerOn v r then
    let run' := { run with onsetCount := run.onsetCount + 1, lastTick := r.origin, maximum := run.maximum.update r }
    if v.kOn ≤ run'.onsetCount then
      { d with state := .declared, running := some { run' with quietRun := 0, vetoCount := 0 } }
    else { d with running := some run' }
  else
    let d' := d.abortOnset
    if vetoTick r then { d' with nuisanceHits := satAdd d'.nuisanceHits 1 } else d'

/-- A tick result is taken into the quiet run in DECLARED (R98). -/
def Running.takeDeclared (v : DetectParams) (r : TickResult) (run : Running) : Running :=
  if triggerOff v r then { run with quietRun := 0, lastTick := r.origin, maximum := run.maximum.update r }
  else
    { run with quietRun := min 63 (run.quietRun + 1), lastTick := r.origin
               vetoCount := if vetoTick r then min 1024 (run.vetoCount + 1) else run.vetoCount }

/-- A tick result in DECLARED: the quiet run, then the closing tests (R98, R99). -/
def tickInDeclared (v : DetectParams) (r : TickResult) (run : Running) (s : State) : State :=
  let run' := run.takeDeclared v r
  let t := s.setDet { s.det with running := some run' }
  if v.qOff ≤ run'.quietRun then beginClose .quietRun r.origin true t
  else if run'.durationLimit ≤ r.origin - run'.onsetTick + 1 then beginClose .durationLimit r.origin true t
  else t

/-- A tick result in HOLDOFF (R100). -/
def tickInHoldoff (d : Detector) : Detector :=
  { d with holdoff := d.holdoff - 1, state := if d.holdoff ≤ 1 then .quiet else .holdoff }

/-- The Detector handles a tick result (R94 to R100). -/
def takeTickResult (r : TickResult) (s : State) : State :=
  let v := detValues s
  match s.det.state, s.det.running with
  | .quiet, _ => s.setDet (tickInQuiet v r s.det)
  | .onset, some run => s.setDet (tickInOnset v r run s.det)
  | .declared, some run => tickInDeclared v r run s
  | .holdoff, _ => s.setDet (tickInHoldoff s.det)
  | _, none => s

/-! ## Cuts and stops (5.4) -/

/-- A cut closes a DECLARED event at its last tick and aborts a candidate (R101, R102). -/
def cutOpenEvent (reason : CloseReason) (s : State) : State :=
  match s.det.state, s.det.running with
  | .onset, _ => s.setDet s.det.abortOnset
  | .declared, some run => beginClose reason run.lastTick false s
  | _, _ => s

/-- OVERRUN (R101): a cut, and HOLDOFF is dropped. A DECLARED event that it closes leaves what R115 gives for every close, HOLDOFF
with HOLDOFF above 0, where R101's last paragraph speaks of QUIET (assumption 44). While a close is in progress the Detector,
which takes each input whole, keeps it until the close ends (assumption 12). -/
def takeOverrun (s : State) : State :=
  match s.det.closing with
  | some c => s.setDet { s.det with closing := some { c with overrun := true } }
  | none =>
    if s.det.state = .holdoff then s.setDet { s.det with state := .quiet, holdoff := 0 } else cutOpenEvent .overrun s

/-- An OVERRUN that came while the close was in progress is handled as it ends (R101; assumption 12). While FROZEN no input reaches
the Detector (R105). -/
def keptOverrun (c : Closing) (s : State) : State := if c.overrun && !s.notice.frozen then takeOverrun s else s

/-- SILENCE (R102): a cut. While a close is in progress it finds what the close leaves, HOLDOFF or QUIET, and changes nothing
(assumption 12). -/
def takeSilence (s : State) : State := if s.det.closing.isSome then s else cutOpenEvent .silence s

/-- STOP (R103). -/
def Detector.stop (d : Detector) : Detector :=
  if d.state = .holdoff then { d with state := .quiet, holdoff := 0 } else d

/-- CLEAR (R104). -/
def Detector.clear (d : Detector) : Detector :=
  let d' := { d with state := .quiet, running := none, holdoff := 0 }
  match d.state with
  | .declared => { d' with clearedEvents := satAdd d.clearedEvents 1 }
  | .onset => { d' with abortedOnsets := satAdd d.abortedOnsets 1 }
  | .quiet | .holdoff => d'

/-! ## The snippet plan (5.6) -/

/-- Pair `p` ranks before pair `q`: the larger PRODUCT, then the lower lane number (R111). -/
def ranksBefore (p q : Nat × Nat) : Bool := q.2 < p.2 || (p.2 == q.2 && p.1 < q.1)

/-- Insert a pair at its rank. -/
def insertRanked (p : Nat × Nat) : List (Nat × Nat) → List (Nat × Nat)
  | [] => [p]
  | q :: qs => if ranksBefore p q then p :: q :: qs else q :: insertRanked p qs

/-- The candidates of a contribution list in rank order (R111). -/
def rankPairs (pairs : List (Nat × Nat)) : List (Nat × Nat) := pairs.foldr insertRanked []

/-- The delay entry of a lane in a voxel's row, as the Detector and the Scan Unit read it (R60). A voxel with no row reads as
NONE. -/
def readDelay (b : Bank) (voxel lane : Nat) : DelayEntry :=
  match Memory.find b.rows voxel with
  | none => { delay := none, parityOk := true }
  | some r => r.delayEntry lane

/-- A candidate's two reads: the delay at which it passes, or none where it is passed over, with the faults taken (R112). -/
def planRead (m : Maximum) (lane : Nat) (s : State) : Option Nat × State :=
  let e := readDelay (s.banks.get m.bank) m.peakVoxel lane
  if !e.parityOk then (none, takeFault .planning (.table m.bank m.peakVoxel (.delay lane)) s)
  else
    match e.delay with
    | none => (none, s)
    | some d =>
      match (trackOf s lane).readCell (m.origin + d) with
      | .value _ => (some d, s)
      | .absent => (none, s)
      | .parityFailure => (none, takeFault .planning (.track lane (m.origin + d)) s)

/-- The plan entry of a candidate that passes at delay `d` (R113). -/
def planEntry (m : Maximum) (cap : CaptureParams) (tickLen lane product d : Nat) : PlanEntry :=
  { lane := lane, product := product, start := (m.origin + d) * tickLen - cap.preSamples
    count := cap.preSamples + cap.postSamples, omitStart := 0, omitEnd := 0, extentOffset := none }

/-- The walk over the candidates in rank order, until `n` entries are made or a fault freezes the engine (R111, R112,
R114). -/
def walkPlan (m : Maximum) (cap : CaptureParams) : List (Nat × Nat) → Nat → State → List PlanEntry × State
  | [], _, s => ([], s)
  | p :: ps, n, s =>
    if n = 0 then ([], s)
    else
      match planRead m p.1 s with
      | (some d, t) =>
        let w := walkPlan m cap ps (n - 1) t
        (planEntry m cap s.params.lane.tickLen p.1 p.2 d :: w.1, w.2)
      | (none, t) => if t.notice.frozen then ([], t) else walkPlan m cap ps n t

/-- The plan of a close. With CAPTURE_ENABLE off nothing is read (R111); a close that the FROZEN condition met before its walk
makes no entry (R114, assumption 13). -/
def makePlan (c : Closing) (m : Maximum) (s : State) : List PlanEntry × State :=
  if s.notice.frozen || !c.capture.enable then ([], s)
  else walkPlan m c.capture (rankPairs m.pairs) c.capture.snipLanes s

/-- A close with a reserved place completes: the plan, then the record and the detector's state after it (R108 to R115). -/
def completeClose (c : Closing) (run : Running) (s : State) : State :=
  let w := makePlan c run.maximum s
  appendClosed c run w.1 w.2

end Sys2Proof.Machine
end

