-- ==== Sys2Proof/Machine/LaneOps.lean ====
section
/-! DEFINITION. Lane records: the cleared record, changes of state with their marks, the return to ABSENT, and a change of
INCLUDED (1.2, R4, R7, R8, R21). -/

namespace Sys2Proof.Machine

/-- All seven counters at 0 (R7, R23). -/
def LaneCounters.zero : LaneCounters :=
  { blocksAccepted := 0, staleFrames := 0, gaps := 0, gapSamples := 0, clippedSamples := 0, lateCells := 0, badBlocks := 0 }

/-- A cleared lane record (R7). The taken filter values are `taken` (none for a new record; assumption 27). -/
def clearedRecord (e : LaneEntry) (taken : Option FilterValues) : LaneRecord :=
  { state := if e.included then .absent else .excluded, expectedTag := none, completeThrough := none, goodRun := 0
    badRun := 0, warmup := 0, weightInUse := e.weight, gainInUse := e.gainShift, timer := none, changed := false
    counters := .zero, filter := none, taken := taken }

/-- Clear a lane's record (R7). -/
def Lane.clear (l : Lane) : Lane := { l with record := clearedRecord l.entry l.record.taken }

/-- The lane of a number, when it is mapped. -/
def laneOf (s : State) (lane : Nat) : Option Lane := Memory.find s.tracker.lanes lane

/-- Change a mapped lane. -/
def updateLane (lane : Nat) (f : Lane → Lane) (s : State) : State :=
  s.setTracker { s.tracker with lanes := Memory.modify s.tracker.lanes lane f }

/-- A record with a new state; a change sets the changed mark (R8). -/
def LaneRecord.withState (r : LaneRecord) (state : LaneState) : LaneRecord :=
  if r.state = state then r else { r with state := state, changed := true }

/-- A lane that is ACQUIRING, ADMITTED or MUTED. -/
def LaneRecord.receiving (r : LaneRecord) : Bool :=
  r.state == .acquiring || r.state == .admitted || r.state == .muted

/-- A lane becomes ABSENT as its timer expires (R21). -/
def LaneRecord.lose (r : LaneRecord) : LaneRecord :=
  { r.withState .absent with expectedTag := none, completeThrough := none, goodRun := 0, badRun := 0, warmup := 0
                             timer := none, filter := none }

/-- The entry with the values of a SET LANE (R3, R4). -/
def LaneEntry.change (e : LaneEntry) (weight gainShift : Nat) (included : Bool) : LaneEntry :=
  { e with weight := weight, gainShift := gainShift, included := included }

/-- A lane excluded: its record cleared and EXCLUDED, its changed mark set (R4, R8). -/
def Lane.exclude (c : LaneChange) (l : Lane) : Lane :=
  let l' := Lane.clear { l with entry := l.entry.change c.weight c.gainShift false }
  { l' with record := { l'.record with changed := true } }

/-- A lane included: ABSENT, its weight and gain in use from the entry, its changed mark set (R4, R8). -/
def Lane.include (c : LaneChange) (l : Lane) : Lane :=
  { entry := l.entry.change c.weight c.gainShift true
    record := { l.record with state := .absent, changed := true, weightInUse := c.weight, gainInUse := c.gainShift } }

/-- A SET LANE that changes INCLUDED is applied (R4); the wait test follows for a candidate that names the lane (R126). -/
def applyLaneChange (c : LaneChange) (s : State) : State :=
  let t :=
    if c.included then updateLane c.lane (Lane.include c) s
    else setRing (setTrack (updateLane c.lane (Lane.exclude c) s) c.lane .cleared) c.lane .cleared
  waitTestFor c.lane (setFlag .laneChange t)

/-- A waiting SET LANE is applied, and its reply follows (R4, R73 step 3). -/
def applyWaitingChange (s : State) : State :=
  match s.cmd.executing with
  | some (.laneChange c) => answer (okOr c.clamped) [] (applyLaneChange c s)
  | _ => s

end Sys2Proof.Machine
end

