-- ==== Sys2Proof/Machine/Scan.lean ====
section
/-! DEFINITION. The Scan Unit: readiness, falling behind, tick boundaries, the tick scan with its stacks, and the commands
START SCAN, HALT SCAN, CLEAR SCAN and READ SCAN (chapter 4), with the taking of a pending switch (R64) and the end of a close
(R115). -/

namespace Sys2Proof.Machine

/-- The SCAN values in use (R76). A Scan Unit that has taken none makes no test; the stored values stand in for them there
(assumption 32). -/
def scanValues (s : State) : ScanParams := s.scan.inUse.getD s.params.scan

/-- The scan makes tests and scans ticks. -/
def scanning (s : State) : Bool := s.scan.state == .running || s.scan.state == .halting

/-! ## Readiness (R75) -/

/-- A lane contributes: ADMITTED with a weight in use above 0 (R77). -/
def LaneRecord.contributes (r : LaneRecord) : Bool := r.state == .admitted && 0 < r.weightInUse

/-- Line time has reached tick `t` + DMAX + `extra` (R75). -/
def lineReached (s : State) (t extra : Nat) : Bool := s.tracker.lineTime.any fun l => t + activeDmax s + extra ≤ l

/-- A lane has delivered through tick `t` + DMAX. -/
def laneDelivered (s : State) (t : Nat) (r : LaneRecord) : Bool := r.completeThrough.any fun k => t + activeDmax s ≤ k

/-- Test (a), completeness (R75). -/
def complete (s : State) (t : Nat) : Bool :=
  s.tracker.lanes.all fun e => !e.2.record.contributes || laneDelivered s t e.2.record

/-- Test (b), deadline (R75). -/
def deadline (s : State) (t : Nat) : Bool := lineReached s t (scanValues s).grace

/-- Tick `t` is ready (R75). -/
def ready (s : State) (t : Nat) : Bool := lineReached s t 0 && (complete s t || deadline s t)

/-! ## Falling behind (R86) -/

/-- The jump of the cursor (R86). -/
def jumpCursor (t t' : Nat) (s : State) : State :=
  setFlag .scanOverrun
    (takeOverrun (s.setScan { s.scan with cursor := some t', skippedTicks := satAdd s.scan.skippedTicks (t' - t) }))

/-- The fall-behind test (R86, R87). -/
def fallBehind (s : State) : State :=
  match s.scan.cursor, s.tracker.lineTime with
  | some t, some l =>
    let v := scanValues s
    if t + (activeDmax s + v.grace + v.lagAllowance) < l then jumpCursor t (l - activeDmax s - v.grace) s else s
  | _, _ => s

/-- The boundary of the tick just delivered has not been reached: the Detector has yet to complete the close that its result began
(R73, R115; assumption 12). -/
def boundaryWaits (s : State) : Bool := s.det.closing.any Closing.boundary

/-- The tests of R74: the fall-behind test; a tick that is then ready is begun by TICK_SCAN_BEGIN (assumption 11). What changes
before a boundary that waits is seen at that boundary (assumption 12). -/
def retest (s : State) : State :=
  if scanning s && s.scan.tick.isNone && !boundaryWaits s then fallBehind s else s

/-! ## The pending switch and the tick boundary -/

/-- A bank becomes ACTIVE and the other leaves ACTIVE, in one step (R62, R64). -/
def Banks.activate (k : Banks) (bank : BankId) : Banks :=
  let k' := match k.active with
    | none => k
    | some old => k.set old { k.get old with state := .ready }
  { k'.set bank { k'.get bank with state := .active } with active := some bank, pendingSwitch := none }

/-- A pending switch is taken (R64). -/
def takeSwitch (s : State) : State :=
  match s.banks.pendingSwitch with
  | none => s
  | some bank => setFlag .bank (s.setBanks (s.banks.activate bank))

/-- The detector is QUIET or HOLDOFF. -/
def detResting (s : State) : Bool := s.det.state == .quiet || s.det.state == .holdoff

/-- HALTING ends (R70). -/
def endHalting (s : State) : State :=
  setFlag .scanState (takeSwitch ((s.setScan { s.scan with state := .idle }).setDet s.det.stop))

/-- A tick boundary (R73). -/
def tickBoundary (s : State) : State :=
  if s.scan.state = .halting && detResting s then applyWaitingChange (endHalting s)
  else retest (applyWaitingChange (if detResting s then takeSwitch s else s))

/-! ## TICK_SCAN_BEGIN (R77) -/

/-- The contributing set: (lane, weight) in ascending lane number (R77). -/
def contributingSet (s : State) : List (Nat × Nat) :=
  s.tracker.lanes.filterMap fun e => if e.2.record.contributes then some (e.1, e.2.record.weightInUse) else none

/-- The cut-offs of every mapped lane raised to a tick (R77). -/
def raiseCutoffs (lanes : Memory Lane) (u : Nat) (cutoffs : Memory Nat) : Memory Nat :=
  lanes.foldl (fun m e => Memory.put m e.1 (max u ((Memory.find m e.1).getD 0))) cutoffs

/-- A SET LANE that changes INCLUDED is waiting (R4, R77). -/
def laneChangeWaits (s : State) : Bool :=
  match s.cmd.executing with
  | some (.laneChange _) => true
  | _ => false

/-- The tick scan of `t` begins on a bank (R77, R93). -/
def beginTick (t : Nat) (bank : BankId) (s : State) : State :=
  let k := s.banks.get bank
  let dmax := activeDmax s
  (s.setScan
    { s.scan with
      cutoffs := raiseCutoffs s.tracker.lanes (t + dmax) s.scan.cutoffs
      tick := some { origin := t, contributing := contributingSet s, bank := bank, bankTag := k.tag, dmax := dmax, voxel := 0
                     count := 0, total := 0, peak := none, parityMet := [] }
      inUse := some s.params.scan
      deadlineTicks := if complete s t then s.scan.deadlineTicks else satAdd s.scan.deadlineTicks 1 }).setDet
    { s.det with inUse := some s.params.detect }

/-- TICK_SCAN_BEGIN: the cursor tick is ready and no tick scan is in flight (R77). -/
def tickScanBegin (s : State) : State :=
  match s.scan.cursor, s.banks.active with
  | some t, some bank =>
    if scanning s && s.scan.tick.isNone && !boundaryWaits s && !laneChangeWaits s && ready s t then beginTick t bank s
    else s
  | _, _ => s

def execTickScanBegin (s : State) : Host.Outcome State Fault Refusal := live tickScanBegin s

/-! ## VOXEL_EVALUATION (R79 to R82) -/

/-- What a voxel's evaluation has gathered: SUM, WSUM, and the noted pairs (R80, R81). -/
structure Stack where
  sum : Nat
  wsum : Nat
  pairs : List (Nat × Nat)
deriving DecidableEq, Repr

/-- A stack with no lane in it. -/
def Stack.nothing : Stack := { sum := 0, wsum := 0, pairs := [] }

/-- A lane takes part with weight `w` and cell `c` (R80, R81). -/
def Stack.add (k : Stack) (lane w c : Nat) : Stack :=
  { sum := k.sum + w * c, wsum := k.wsum + w, pairs := k.pairs ++ [(lane, w * c)] }

/-- The stack value, halves rounded up (R81). -/
def Stack.value (k : Stack) : Nat := (k.sum + k.wsum / 2) / k.wsum

/-- Change the tick scan in flight. -/
def updateTick (f : TickScan → TickScan) (s : State) : State := s.setScan { s.scan with tick := s.scan.tick.map f }

/-- A cell whose parity failed: a TRACK_PARITY fault at the first failure of that lane and tick in this tick scan (R80). -/
def meetTrackParity (lane u : Nat) (s : State) : State :=
  if s.scan.tick.any fun k => k.parityMet.contains (lane, u) then s
  else takeFault .scan (.track lane u) (updateTick (fun k => { k with parityMet := k.parityMet ++ [(lane, u)] }) s)

/-- The lanes of C(t), gone through for a voxel (R80). The stack is none where the voxel is ineligible by a parity failure, or
where a fault has frozen the engine. -/
def stackLanes (bank : BankId) (voxel t : Nat) : List (Nat × Nat) → Stack → State → Option Stack × State
  | [], k, s => (some k, s)
  | (lane, w) :: rest, k, s =>
    let e := readDelay (s.banks.get bank) voxel lane
    if !e.parityOk then (none, takeFault .scan (.table bank voxel (.delay lane)) s)
    else
      match e.delay with
      | none => stackLanes bank voxel t rest k s
      | some d =>
        match (trackOf s lane).readCell (t + d) with
        | .value c => stackLanes bank voxel t rest (k.add lane w c) s
        | .absent => stackLanes bank voxel t rest k s
        | .parityFailure =>
          let s' := meetTrackParity lane (t + d) s
          if s'.notice.frozen then (none, s') else stackLanes bank voxel t rest k s'

/-- A greater stack replaces the peak (R82). -/
def takePeak (p : Option Peak) (new : Peak) : Option Peak :=
  match p with
  | none => some new
  | some old => if old.stack < new.stack then some new else some old

/-- An eligible voxel's stack enters the running values (R82). -/
def TickScan.takeStack (k : TickScan) (nuisance : Bool) (x : Stack) : TickScan :=
  { k with
    count := k.count + 1
    total := k.total + x.value
    peak := takePeak k.peak { stack := x.value, voxel := k.voxel, nuisance := nuisance, pairs := x.pairs } }

/-- An evaluated voxel is eligible when its WSUM reaches MIN_WEIGHT (R81). -/
def takeVoxel (nuisance : Bool) (x : Option Stack) (s : State) : State :=
  match x with
  | none => s
  | some k => if k.wsum < (scanValues s).minWeight then s else updateTick (fun t => t.takeStack nuisance k) s

/-- The walk passes to the next voxel (R79). -/
def nextVoxel (s : State) : State := updateTick (fun k => { k with voxel := k.voxel + 1 }) s

/-- The flag entry of a voxel; a voxel with no row reads as not ENABLED. -/
def readFlags (b : Bank) (voxel : Nat) : FlagEntry :=
  match Memory.find b.rows voxel with
  | none => { enabled := false, nuisance := false, parityOk := true }
  | some r => r.flags

/-- One voxel of the tick scan `k` (R79 to R82). -/
def evaluateVoxel (k : TickScan) (s : State) : State :=
  let f := readFlags (s.banks.get k.bank) k.voxel
  if !f.parityOk then nextVoxel (takeFault .scan (.table k.bank k.voxel .flag) s)
  else if !f.enabled then nextVoxel s
  else
    let r := stackLanes k.bank k.voxel k.origin k.contributing Stack.nothing s
    nextVoxel (takeVoxel f.nuisance r.1 r.2)

/-- VOXEL_EVALUATION: the next voxel of the tick scan in flight. -/
def voxelEvaluation (s : State) : State :=
  match s.scan.tick with
  | none => s
  | some k => if k.voxel < (s.banks.get k.bank).voxelCount then evaluateVoxel k s else s

def execVoxelEvaluation (s : State) : Host.Outcome State Fault Refusal := liveLine voxelEvaluation s

/-! ## TICK_RESULT_DELIVERY (R83, R84) -/

/-- The tick result of a finished walk (R83, R84). -/
def TickScan.result (k : TickScan) : TickResult :=
  { origin := k.origin, bank := k.bank, bankTag := k.bankTag, eligible := k.count
    peak := (k.peak.map Peak.stack).getD 0, peakVoxel := k.peak.map Peak.voxel
    nuisance := (k.peak.map Peak.nuisance).getD false, mean := k.total / k.count
    pairs := (k.peak.map Peak.pairs).getD [] }

/-- The summary of a tick result (4.1). -/
def TickResult.summary (r : TickResult) : LastResult :=
  { origin := r.origin, eligible := r.eligible, peak := r.peak, peakVoxel := r.peakVoxel, nuisance := r.nuisance
    mean := r.mean, listLength := r.pairs.length }

/-- Delivery to the Detector (R83). -/
def deliver (r : TickResult) (s : State) : State :=
  takeTickResult r (s.setScan
    { s.scan with cursor := some (count48 (r.origin + 1)), tick := none, lastResult := some r.summary
                  ticksScanned := satAdd s.scan.ticksScanned 1 })

/-- TICK_RESULT_DELIVERY: the walk has passed the last voxel; the boundary follows, unless a close has begun (R73, R83;
assumption 12). -/
def tickResultDelivery (s : State) : State :=
  match s.scan.tick with
  | none => s
  | some k =>
    if k.voxel < (s.banks.get k.bank).voxelCount || s.det.closing.isSome then s
    else
      let t := deliver k.result s
      if t.det.closing.isSome then t else tickBoundary t

def execTickResultDelivery (s : State) : Host.Outcome State Fault Refusal := liveLine tickResultDelivery s

/-! ## Clearing the scan (R71) -/

/-- CLEAR SCAN's effect by the state it finds. -/
def clearScanEffect (s : State) : State :=
  if scanning s then takeSwitch ((s.setScan { s.scan with state := .idle, tick := none }).setDet s.det.clear) else s

/-- CLEAR SCAN: it waits for a close in progress (R71). -/
def clearScan (_ : Held) (s : State) : State :=
  if s.det.closing.isSome then s.setCmd { s.cmd with executing := some .clearScan } else answer .ok [] (clearScanEffect s)

/-- CLEAR_SCAN, code 0x32 (R71). -/
def execClearScan (s : State) : Host.Outcome State Fault Refusal := runCommand 0x32 (fixedLength 0) false clearScan s

/-! ## CLOSE_COMPLETION (R108 to R115) -/

/-- What a completed close leaves to do: a CLEAR SCAN that waited for it is handled by the state it finds (R71; before the boundary,
assumption 14), or the boundary of the tick follows (R73, R115). -/
def afterCompletion (boundary : Bool) (s : State) : State :=
  if s.cmd.executing = some .clearScan then
    if s.notice.frozen then answer .frozen [] s else answer .ok [] (clearScanEffect s)
  else if boundary && !s.notice.frozen then tickBoundary s
  else s

/-- CLOSE_COMPLETION: the close in progress completes. -/
def closeCompletion (s : State) : State :=
  match s.det.closing, s.det.running with
  | some c, some run => afterCompletion c.boundary (keptOverrun c (completeClose c run s))
  | _, _ => s

def execCloseCompletion (s : State) : Host.Outcome State Fault Refusal := liveLine closeCompletion s

/-! ## START SCAN, HALT SCAN and READ SCAN -/

/-- Some lane is ADMITTED (R68). -/
def anyAdmitted (s : State) : Bool := s.tracker.lanes.any fun e => e.2.record.state == .admitted

/-- The cursor after START SCAN: line time + 1, unless it stands above that (R68). -/
def startCursor (cursor : Option Nat) (lineTime : Nat) : Nat := max (count48 (lineTime + 1)) (cursor.getD 0)

/-- START SCAN's own handling, checks 3 to 6 and acceptance (R68). A line time of none is answered NOT_READY (assumption
31). -/
def startScan (_ : Held) (s : State) : State :=
  if s.scan.state != .idle then answer .busy [] s
  else if s.notice.faultRecord.isSome then answer .faultHeld [] s
  else
    match s.banks.active, s.tracker.lineTime with
    | some bank, some l =>
      if anyAdmitted s then
        let c := startCursor s.scan.cursor l
        retest (answer .ok (encNat 6 c ++ encNat 1 bank.code ++ encNat 2 (activeDmax s))
          (s.setScan { s.scan with state := .running, cursor := some c, inUse := some s.params.scan }))
      else answer .notReady [] s
    | _, _ => answer .notReady [] s

/-- START_SCAN, code 0x30 (R68). -/
def execStartScan (s : State) : Host.Outcome State Fault Refusal := runCommand 0x30 (fixedLength 0) false startScan s

/-- HALT SCAN's own handling (R69). -/
def haltScan (_ : Held) (s : State) : State :=
  match s.scan.state with
  | .running => answer .ok [] (s.setScan { s.scan with state := .halting })
  | .halting => answer .ok [] s
  | .idle => answer .notReady [] s
  | .frozen => answer .frozen [] s

/-- HALT_SCAN, code 0x31 (R69). -/
def execHaltScan (s : State) : Host.Outcome State Fault Refusal := runCommand 0x31 (fixedLength 0) false haltScan s

/-- The blocking lane of the reason LANES (R90). -/
def blockingLane (s : State) (t : Nat) : Option Nat :=
  (s.tracker.lanes.find? fun e => e.2.record.contributes && !laneDelivered s t e.2.record).map Prod.fst

/-- The wait reason, NONE 0, LINE 1, LANES 2, and the blocking lane (R90). Its table gives no reason where the scan is RUNNING or
HALTING with no tick scan in flight and the cursor tick is ready: the model answers NONE there (assumption 40). -/
def waitReason (s : State) : Nat × Option Nat :=
  match s.scan.cursor with
  | none => (0, none)
  | some t =>
    if !scanning s || s.scan.tick.isSome then (0, none)
    else if !lineReached s t 0 then (1, none)
    else if complete s t || deadline s t then (0, none)
    else (2, blockingLane s t)

/-- The last tick result as READ SCAN shows it (R90). -/
def encLastResult (r : Option LastResult) : Bytes :=
  encOpt 6 (r.map LastResult.origin) ++ encOpt 2 (r.map LastResult.eligible) ++ encOpt 2 (r.map LastResult.peak)
    ++ encOpt 2 (r.bind LastResult.peakVoxel) ++ encOptBool (r.map LastResult.nuisance) ++ encOpt 2 (r.map LastResult.mean)
    ++ encOpt 1 (r.map LastResult.listLength)

/-- The result of READ SCAN (R90). -/
def scanResult (s : State) : Bytes :=
  let k := s.scan
  let w := waitReason s
  encNat 1 k.state.code ++ encOpt 6 k.cursor ++ encOpt 6 (k.tick.map TickScan.origin)
    ++ encOpt 1 (s.banks.active.map BankId.code) ++ encOpt 2 ((activeBank s).map Bank.tag)
    ++ encOpt 2 ((activeBank s).bind Bank.dmax) ++ encOpt 1 (s.banks.pendingSwitch.map BankId.code)
    ++ encOpt 2 (k.inUse.map ScanParams.grace) ++ encOpt 2 (k.inUse.map ScanParams.lagAllowance)
    ++ encOpt 2 (k.inUse.map ScanParams.minWeight) ++ encCounters [k.ticksScanned, k.deadlineTicks, k.skippedTicks]
    ++ encLastResult k.lastResult ++ encNat 1 w.1 ++ encOpt 1 w.2

/-- The three scan counters at 0 (R90, clear option). -/
def Scan.clearCounters (k : Scan) : Scan := { k with ticksScanned := 0, deadlineTicks := 0, skippedTicks := 0 }

/-- READ SCAN's own handling (R90). -/
def readScan (c : Held) (s : State) : State :=
  answer .ok (scanResult s) (if c.yes 0 then s.setScan s.scan.clearCounters else s)

/-- READ_SCAN, code 0x33: a clear option; served while FROZEN (R90). -/
def execReadScan (s : State) : Host.Outcome State Fault Refusal := runCommand 0x33 (fixedLength 1) true readScan s

end Sys2Proof.Machine
end

