-- ==== Sys2Proof/Machine/BankCommands.lean ====
section
/-! DEFINITION. The bank commands: BEGIN BANK LOAD, LOAD ROWS, END BANK LOAD and its validation, SWITCH BANK, READ BANK and
READ ROW (chapter 3). -/

namespace Sys2Proof.Machine

/-- A bank command's own handling, once its bank code is one (3.2). -/
def withBank (body : BankId → State → State) (c : Held) (s : State) : State :=
  match bankOfCode (c.byte 0) with
  | none => answer .badRequest [] s
  | some bank => body bank s

/-! ## BEGIN BANK LOAD (R50) -/

/-- A bank whose load begins (R50). -/
def Bank.loading (count tag : Nat) : Bank :=
  { state := .loading, voxelCount := count, tag := tag, dmax := none, check := none, rows := [] }

/-- BEGIN BANK LOAD's own handling. -/
def beginBankLoad (c : Held) (s : State) : State :=
  withBank (fun bank t =>
    let count := c.field 1 2
    if count = 0 || Config.maxVoxels < count then answer .badRequest [] t
    else if (t.banks.get bank).state = .active then answer .busy [] t
    else if t.banks.pendingSwitch = some bank then answer .busy [] t
    else answer .ok [] (updateBank t bank fun _ => Bank.loading count (c.field 3 2))) c s

/-- BEGIN_BANK_LOAD, code 0x20 (R50). -/
def execBeginBankLoad (s : State) : Host.Outcome State Fault Refusal := runCommand 0x20 (fixedLength 5) false beginBankLoad s

/-! ## LOAD ROWS (R51, R52) -/

/-- The row count of a LOAD ROWS. -/
def rowCount (c : Held) : Nat := c.byte 3

/-- The first voxel of a LOAD ROWS. -/
def firstVoxel (c : Held) : Nat := c.field 1 2

/-- The length matches the row count, which is 1 or 2 (R51, check 1). -/
def loadRowsFits (c : Held) : Bool :=
  (rowCount c == 1 || rowCount c == 2) && c.params.length == 4 + 385 * rowCount c

/-- Some flag value is above 3 (R51, check 4). -/
def badFlagValue (c : Held) : Bool := (List.range (rowCount c)).any fun i => 3 < rowFlagValue c i

/-- The rows are written, with their written marks (R52). -/
def Bank.writeRows (c : Held) (k : Bank) : Bank :=
  { k with rows := (List.range (rowCount c)).foldl (fun m i => Memory.put m (firstVoxel c + i) (storedRow c i)) k.rows }

/-- Some delay value is above 1023 (R52). -/
def rowsClamped (c : Held) : Bool := (List.range (rowCount c)).any (rowClamped c)

/-- LOAD ROWS's own handling. -/
def loadRows (c : Held) (s : State) : State :=
  withBank (fun bank t =>
    let k := t.banks.get bank
    if k.state != .loading then answer .notReady [] t
    else if k.voxelCount < firstVoxel c + rowCount c then answer .badRequest [] t
    else if badFlagValue c then answer .badRequest [] t
    else answer (okOr (rowsClamped c)) [] (updateBank t bank (Bank.writeRows c))) c s

/-- LOAD_ROWS, code 0x21 (R51, R52). -/
def execLoadRows (s : State) : Host.Outcome State Fault Refusal := runCommand 0x21 loadRowsFits false loadRows s

/-! ## END BANK LOAD and its validation (R53 to R57) -/

/-- END BANK LOAD's own handling: validation begins (R53). Failure reason NOT_LOADING is 0. -/
def endBankLoad (c : Held) (s : State) : State :=
  withBank (fun bank t =>
    if (t.banks.get bank).state = .loading then t.setCmd { t.cmd with executing := some (.validating bank) }
    else answer .notReady (encNat 1 0) t) c s

/-- END_BANK_LOAD, code 0x22 (R53). -/
def execEndBankLoad (s : State) : Host.Outcome State Fault Refusal := runCommand 0x22 (fixedLength 1) false endBankLoad s

/-- What validation's walk finds (R53). -/
inductive Validation where
  | unwritten (voxel : Nat)
  | parity (voxel : Nat) (entry : RowEntry)
  | finished (live : Bool) (dmax : Nat) (register : BitVec 32)
deriving DecidableEq, Repr

/-- The walk over the `n` voxels from `v` (R53 to R56). -/
def Bank.walk (k : Bank) : Nat → Nat → Bool → Nat → BitVec 32 → Validation
  | 0, _, live, dmax, reg => .finished live dmax reg
  | n + 1, v, live, dmax, reg =>
    match Memory.find k.rows v with
    | none => .unwritten v
    | some r =>
      match r.firstBad with
      | some e => .parity v e
      | none =>
        k.walk n (v + 1) (live || (r.flags.enabled && !r.flags.nuisance))
          (if r.flags.enabled then max dmax r.maxDelay else dmax) (crc32Update reg r.checkBytes)

/-- Validation of a bank (R53). -/
def Bank.validate (k : Bank) : Validation := k.walk k.voxelCount 0 false 0 crc32Start

/-- Validation's outcome: READY with DMAX and check, or a failure with its reason, UNWRITTEN 1, PARITY 2 or NO_LIVE_ROW 3
(R53, R54, R56). The voxel and the entry stand in the reply only under the reasons that name them, without a presence byte
(assumption 42). The execution ends with the reply also where the fault has frozen the engine. -/
def endValidation (bank : BankId) (s : State) : State :=
  let k := s.banks.get bank
  let t := s.setCmd { s.cmd with executing := none }
  match k.validate with
  | .unwritten v => answer .notReady (encNat 1 1 ++ encNat 2 v) t
  | .parity v e =>
    answer .notReady (encNat 1 2 ++ encNat 2 v ++ encNat 1 e.code) (takeFault .validation (.table bank v e) t)
  | .finished live dmax reg =>
    if live then
      answer .ok (encNat 2 dmax ++ encNat 4 (~~~reg).toNat ++ encNat 2 k.voxelCount ++ encNat 2 k.tag)
        (updateBank t bank fun x => { x with state := .ready, dmax := some dmax, check := some (~~~reg) })
    else answer .notReady (encNat 1 3) t

/-- END_OF_VALIDATION: the validation in progress ends. -/
def endOfValidation (s : State) : State :=
  match s.cmd.executing with
  | some (.validating bank) => endValidation bank s
  | _ => s

def execEndOfValidation (s : State) : Host.Outcome State Fault Refusal := liveLine endOfValidation s

/-! ## SWITCH BANK (R62, R63) -/

/-- SWITCH BANK with the scan IDLE (R62). -/
def switchAtOnce (bank : BankId) (s : State) : State :=
  match (s.banks.get bank).state with
  | .ready => answer .ok [] (s.setBanks (s.banks.activate bank))
  | .active => answer .ok [] s
  | .empty | .loading => answer .notReady [] s

/-- SWITCH BANK with the scan RUNNING or HALTING (R63). -/
def switchPending (bank : BankId) (s : State) : State :=
  match (s.banks.get bank).state with
  | .ready => answer .ok [] (s.setBanks { s.banks with pendingSwitch := some bank })
  | .active => answer .ok [] (s.setBanks { s.banks with pendingSwitch := none })
  | .empty | .loading => answer .notReady [] s

/-- SWITCH BANK's own handling. -/
def switchBank (c : Held) (s : State) : State :=
  withBank (fun bank t => if t.scan.state = .idle then switchAtOnce bank t else switchPending bank t) c s

/-- SWITCH_BANK, code 0x23 (R62, R63). -/
def execSwitchBank (s : State) : Host.Outcome State Fault Refusal := runCommand 0x23 (fixedLength 1) false switchBank s

/-! ## READ BANK and READ ROW (R58, R59) -/

/-- The result of READ BANK (R58). R156 names no width for the count of written voxels: 2 bytes (assumption 23). -/
def bankResult (s : State) (bank : BankId) : Bytes :=
  let k := s.banks.get bank
  encNat 1 k.state.code ++ encNat 2 k.voxelCount ++ encNat 2 k.tag ++ encOpt 2 k.dmax
    ++ encOpt 4 (k.check.map BitVec.toNat) ++ encNat 2 k.writtenCount ++ encOpt 2 (k.lowestUnwritten k.voxelCount 0)
    ++ encBool (s.banks.pendingSwitch == some bank)

/-- READ BANK's own handling. -/
def readBank (c : Held) (s : State) : State := withBank (fun bank t => answer .ok (bankResult t bank) t) c s

/-- READ_BANK, code 0x24; served while FROZEN (R58). -/
def execReadBank (s : State) : Host.Outcome State Fault Refusal := runCommand 0x24 (fixedLength 1) true readBank s

/-- The result of READ ROW (R59). The value shown for a failing entry is the value stored (assumption 26). The first failing entry
has its presence byte, sent as none where no entry fails (assumption 42). -/
def rowResult (r : Row) : Bytes :=
  r.checkBytes ++ encNat 1 r.badCount ++ encOpt 1 (r.firstBad.map RowEntry.code)

/-- READ ROW's own handling. -/
def readRow (c : Held) (s : State) : State :=
  withBank (fun bank t =>
    let k := t.banks.get bank
    let v := c.field 1 2
    if k.state = .empty then answer .notReady [] t
    else if k.voxelCount ≤ v then answer .badRequest [] t
    else
      match Memory.find k.rows v with
      | none => answer .notReady [] t
      | some r => answer .ok (rowResult r) t) c s

/-- READ_ROW, code 0x25; served while FROZEN (R59). -/
def execReadRow (s : State) : Host.Outcome State Fault Refusal := runCommand 0x25 (fixedLength 3) true readRow s

end Sys2Proof.Machine
end

