-- ==== Sys2Proof/Machine/EventCommands.lean ====
section
/-! DEFINITION. READ DETECTOR (R116), and the event commands FETCH EVENT, READ SNIPPET with its stream, and RELEASE EVENT
(6.5). -/

namespace Sys2Proof.Machine

/-! ## READ DETECTOR (R116) -/

/-- A contribution list: each pair's lane and PRODUCT. -/
def encPairs (ps : List (Nat × Nat)) : Bytes := (ps.map fun p => encNat 1 p.1 ++ encNat 3 p.2).flatten

/-- The running record, or none (R116). The length of the contribution list stands before its pairs (assumption 22). -/
def encRunning (r : Option Running) : Bytes :=
  let m := r.map Running.maximum
  encOpt 6 (r.map Running.onsetTick) ++ encOpt 1 (r.map Running.onsetCount) ++ encOpt 1 (r.map Running.quietRun)
    ++ encOpt 2 (r.map Running.vetoCount) ++ encOpt 2 (r.map Running.durationLimit) ++ encOpt 6 (r.map Running.lastTick)
    ++ encOpt 6 (m.map Maximum.origin) ++ encOpt 2 (m.map Maximum.peak) ++ encOpt 2 (m.map Maximum.peakVoxel)
    ++ encOpt 2 (m.map Maximum.mean) ++ encOpt 1 (m.map fun x => x.bank.code) ++ encOpt 2 (m.map Maximum.bankTag)
    ++ encOpt 1 (m.map fun x => x.pairs.length) ++ encPairs ((m.map Maximum.pairs).getD [])

/-- The eight DETECT values in use, or none for each (R116). -/
def encDetect (v : Option DetectParams) : Bytes :=
  encOpt 2 (v.map DetectParams.tOn) ++ encOpt 2 (v.map DetectParams.tOff) ++ encOpt 2 (v.map DetectParams.coherence)
    ++ encOpt 2 (v.map DetectParams.kOn) ++ encOpt 2 (v.map DetectParams.qOff) ++ encOpt 2 (v.map DetectParams.maxDuration)
    ++ encOpt 2 (v.map DetectParams.holdoff) ++ encOpt 2 (v.map DetectParams.vetoLimit)

/-- The five counters in the order of R117. -/
def Detector.counterValues (d : Detector) : List Nat :=
  [d.abortedOnsets, d.nuisanceHits, d.eventsClosed, d.queueDiscards, d.clearedEvents]

/-- The result of READ DETECTOR (R116). -/
def detectorResult (d : Detector) : Bytes :=
  encNat 1 d.state.code ++ encNat 2 d.holdoff ++ encRunning d.running ++ encDetect d.inUse ++ encNat 2 d.serial
    ++ encCounters d.counterValues

/-- The five counters at 0 (R116, clear option). -/
def Detector.clearCounters (d : Detector) : Detector :=
  { d with abortedOnsets := 0, nuisanceHits := 0, eventsClosed := 0, queueDiscards := 0, clearedEvents := 0 }

/-- READ DETECTOR's own handling. -/
def readDetector (c : Held) (s : State) : State :=
  answer .ok (detectorResult s.det) (if c.yes 0 then s.setDet s.det.clearCounters else s)

/-- READ_DETECTOR, code 0x38: a clear option; served while FROZEN (R116). -/
def execReadDetector (s : State) : Host.Outcome State Fault Refusal :=
  runCommand 0x38 (fixedLength 1) true readDetector s

/-! ## FETCH EVENT (R134) -/

/-- A plan entry as FETCH EVENT returns it. -/
def encEntry (e : PlanEntry) : Bytes :=
  encNat 1 e.lane ++ encNat 3 e.product ++ encNat 6 e.start ++ encNat 2 e.count ++ encNat 2 e.omitStart
    ++ encNat 2 e.omitEnd ++ encOpt 2 e.extentOffset

/-- A record as FETCH EVENT returns it: the fields of R108 in their order, then the plan. -/
def encRecord (r : EventRecord) : Bytes :=
  encNat 2 r.serial ++ encNat 1 r.bank.code ++ encNat 2 r.bankTag ++ encNat 6 r.onsetTick ++ encNat 6 r.originTick
    ++ encNat 6 r.closeTick ++ encNat 2 r.duration ++ encNat 2 r.peakVoxel ++ encNat 2 r.peak ++ encNat 2 r.mean
    ++ encNat 1 r.contributors ++ encNat 2 r.vetoCount ++ encNat 1 r.closeReason.code ++ encBool r.contaminated
    ++ encBool r.overflowFollows ++ encNat 1 r.status.code ++ (r.plan.map encEntry).flatten

/-- The SERIAL and SNIPPET_STATUS of the head, as refusals carry them. -/
def encHead (r : EventRecord) : Bytes := encNat 2 r.serial ++ encNat 1 r.status.code

/-- The number of plan entries already copied, for a CAPTURING head; left out elsewhere (R134; assumption 42). -/
def encCopied (s : State) (r : EventRecord) : Bytes :=
  match r.status, s.capture.active with
  | .capturing, some a => encNat 1 (a.next - 1)
  | _, _ => []

/-- FETCH EVENT's own handling. -/
def fetchEvent (_ : Held) (s : State) : State :=
  let depth := encNat 1 s.queue.length
  match s.queue with
  | [] => answer .notReady depth s
  | r :: _ =>
    if r.status.settled then answer .ok (depth ++ encRecord r) s
    else answer .busy (encHead r ++ depth ++ encCopied s r) s

/-- FETCH_EVENT, code 0x40; served while FROZEN (R134). -/
def execFetchEvent (s : State) : Host.Outcome State Fault Refusal := runCommand 0x40 (fixedLength 0) true fetchEvent s

/-! ## READ SNIPPET (R135 to R138) -/

/-- The lane selector that names every lane of the plan (R135). -/
def selectAll : Nat := 255

/-- Selector, first word and word count; the selector is 0..191 or ALL (R135, check 1). -/
def readSnippetFits (c : Held) : Bool :=
  c.params.length == 5 && (c.byte 0 < Config.lanes || c.byte 0 == selectAll)

/-- The plan entries a selector names: all of them, or the lane's own (R135). -/
def selected (selector : Nat) (plan : List PlanEntry) : List PlanEntry :=
  if selector = selectAll then plan else plan.filter fun e => e.lane == selector

/-- The range is shortened (R135). -/
def rangeClamped (first count words : Nat) : Bool := count == 0 || words < first + count

/-- The words of the range (R135). -/
def rangeLength (first count words : Nat) : Nat := if count = 0 then words - first else min count (words - first)

/-- The stream of an accepted READ SNIPPET. -/
def newStream (r : EventRecord) (selector first count words : Nat) : Stream :=
  { serial := r.serial, selector := selector, first := first, total := rangeLength first count words
    clamped := rangeClamped first count words, sent := 0, frames := 0, replaced := 0, faultMet := false }

/-- READ SNIPPET's own handling, checks 2 to 6 and acceptance (R135). -/
def readSnippet (c : Held) (s : State) : State :=
  match s.queue with
  | [] => answer .notReady [] s
  | r :: _ =>
    let sel := selected (c.byte 0) r.plan
    let words := extentSize sel
    let first := c.field 1 2
    if !r.status.settled then answer .busy (encHead r) s
    else if !r.status.holdsExtent then answer .notReady (encHead r) s
    else if sel.isEmpty then answer .badRequest [] s
    else if words ≤ first then answer .badRequest [] s
    else s.setCmd { s.cmd with executing := some (.streaming (newStream r (c.byte 0) first (c.field 3 2) words)) }

/-- READ_SNIPPET, code 0x41; served while FROZEN (R135, R136). -/
def execReadSnippet (s : State) : Host.Outcome State Fault Refusal := runCommand 0x41 readSnippetFits true readSnippet s

/-- The plan entry and the word of its span at which word `w` of the words selected lies (R135). -/
def locateWord : List PlanEntry → Nat → Option (PlanEntry × Nat)
  | [], _ => none
  | e :: es, w => if w < e.count then some (e, w) else locateWord es (w - e.count)

/-- The words of the next frame: at most 64, within one span and the range (R136). -/
def frameWords (st : Stream) (e : PlanEntry) (w : Nat) : Nat := min 64 (min (st.total - st.sent) (e.count - w))

/-- A store word that the ECC cannot correct: the first one met while not FROZEN takes a STORE_ECC fault; while FROZEN, it is
counted in FROZEN_STORE_ERRORS (R137, R173). -/
def meetStoreFailure (word : Nat) (st : Stream) (s : State) : Stream × State :=
  let st' := { st with replaced := st.replaced + 1 }
  if s.notice.frozen then
    (st', s.setNotice { s.notice with frozenStoreErrors := satAdd s.notice.frozenStoreErrors 1 })
  else if st.faultMet then (st', s)
  else ({ st' with faultMet := true }, takeFault .readSnippet (.store word) s)

/-- The `n` store words from `word` on, read in order for a frame (R136, R137). -/
def readWords : Nat → Nat → Stream → State → List Sample × Stream × State
  | 0, _, st, s => ([], st, s)
  | n + 1, word, st, s =>
    let w := word % Config.storeWords
    match s.store.readWord w with
    | some x =>
      let r := readWords n (word + 1) st s
      (x :: r.1, r.2)
    | none =>
      let m := meetStoreFailure w st s
      let r := readWords n (word + 1) m.1 m.2
      (missingMarker :: r.1, r.2)

/-- A SNIPPET frame (R136, R157). -/
def snippetFrame (source : Nat) (serial lane first : Nat) (samples : List Sample) : Bytes :=
  ownFrame kindSnippet (encNat 1 source ++ encNat 2 serial ++ encNat 1 lane ++ encNat 2 first
    ++ encNat 1 samples.length ++ (samples.map encSample).flatten)

/-- The reply that ends a stream (R136). -/
def streamReply (st : Stream) (s : State) : State :=
  answer (okOr st.clamped)
    (encNat 2 st.serial ++ encNat 1 st.selector ++ encNat 2 st.first ++ encNat 2 st.sent ++ encNat 2 st.frames
      ++ encNat 2 st.replaced) s

/-- The stream waits for room in the Own Queue (R136, R148). -/
def streamWaits (s : State) : State :=
  if s.line.waiters.contains .commandUnit then s
  else s.setLine { s.line with waiters := s.line.waiters ++ [.commandUnit] }

/-- The next frame of a stream, its words from word `w` of entry `e`, is built and placed; the last is followed by the reply
(R136, R137). -/
def placeSnippet (st : Stream) (e : PlanEntry) (w : Nat) (s : State) : State :=
  let n := frameWords st e w
  let r := readWords n (e.extentOffset.getD 0 + w) st s
  let t := r.2.2
  let st' := { r.2.1 with sent := st.sent + n, frames := st.frames + 1 }
  let f := snippetFrame t.line.source st.serial e.lane w r.1
  let t := (stopWaiting .commandUnit (t.setLine { t.line with own := t.line.own ++ [f] })).setCmd
    { t.cmd with executing := some (.streaming st') }
  if st'.sent < st.total then t else streamReply st' t

/-- SNIPPET_FRAME_PLACED: the next frame of the stream is placed, or waits for room. -/
def snippetFramePlaced (s : State) : State :=
  match s.cmd.executing, s.queue with
  | some (.streaming st), r :: _ =>
    match locateWord (selected st.selector r.plan) (st.first + st.sent) with
    | none => s
    | some (e, w) => if s.line.mayPlace .commandUnit then placeSnippet st e w s else streamWaits s
  | _, _ => s

def execSnippetFramePlaced (s : State) : Host.Outcome State Fault Refusal := liveLine snippetFramePlaced s

/-! ## RELEASE EVENT (R139) -/

/-- RELEASE EVENT's own handling. -/
def releaseEvent (c : Held) (s : State) : State :=
  match s.queue with
  | [] => answer .notReady [] s
  | r :: rest =>
    if r.serial != c.field 0 2 then answer .notReady (encHead r) s
    else if !r.status.settled then answer .busy (encHead r) s
    else answer .ok (encNat 2 r.serial ++ encNat 1 rest.length) (removeHead s)

/-- RELEASE_EVENT, code 0x42: a SERIAL; served while FROZEN (R139). -/
def execReleaseEvent (s : State) : Host.Outcome State Fault Refusal := runCommand 0x42 (fixedLength 2) true releaseEvent s

end Sys2Proof.Machine
end

