-- ==== Sys2Proof/Machine/CharFn.lean ====
section
/-! DEFINITION. The characteristic function: the six steps of one sample, the filter over a block, and the cells of a block
(chapter 2). All arithmetic is integer arithmetic with floor division, which is what `/` of `Int` gives for a positive
divisor. -/

namespace Sys2Proof.Machine

/-- The values the CF unit takes for a block (R29). -/
def takenValues (p : LaneParams) : FilterValues :=
  { dcShift := p.dcShift, staShift := p.staShift, ltaShift := p.ltaShift, ltaFloor := p.ltaFloor, freeze := p.freeze }

/-- 2 to the power of a shift. -/
def pow2 (n : Nat) : Int := (2 ^ n : Nat)

/-- A value moved toward a target by 1 / 2^k of the difference, rounded down (R32, R34, R36). -/
def approach (v target : Int) (k : Nat) : Int := v + (target - v) / pow2 k

/-- The quotient of the scale step, before its bounds (R33). -/
def scaleQuotient (y : Int) (g : Nat) : Int := y / pow2 g

/-- The scaled amplitude (R33). -/
def amplitude (q : Int) : Int := max (-32768) (min 32767 q)

/-- Whether a quotient is a saturation (R33). -/
def saturates (q : Int) : Bool := q < -32768 || 32767 < q

/-- The CF value from the STA just updated and the LTA before its update (R35). -/
def cfValue (s l : Int) (ltaFloor : Nat) : Nat := min 65535 (256 * s / max l ltaFloor).toNat

/-- Whether the LTA is held (R36). -/
def ltaHeld (state : LaneState) (c freeze : Nat) : Bool :=
  match state with
  | .admitted | .muted => freeze ≤ c
  | .excluded | .absent | .acquiring => false

/-- One sample through the six steps: the filter after it, its CF value, and whether it saturated (R30, R32 to R36). -/
def cfSample (v : FilterValues) (state : LaneState) (gain : Nat) (f : Filter) (x : Int) : Filter × Nat × Bool :=
  let y := x - f.m
  let q := scaleQuotient y gain
  let e := amplitude q * amplitude q
  let sta := approach f.s e v.staShift
  let c := cfValue sta f.l v.ltaFloor
  ({ m := approach f.m x v.dcShift, s := sta
     l := if ltaHeld state c v.freeze then f.l else approach f.l e v.ltaShift },
   c, saturates q)

/-- What the CF unit makes of a block: the filter after it, the CF values of its samples in order, and the number of
saturations it reports (R30, R33). -/
structure CfResult where
  filter : Filter
  values : List Nat
  saturations : Nat
deriving DecidableEq, Repr

/-- The samples of a block in ascending index (R30). -/
def cfBlock (v : FilterValues) (state : LaneState) (gain : Nat) : Filter → List Int → CfResult
  | f, [] => { filter := f, values := [], saturations := 0 }
  | f, x :: xs =>
    let r := cfSample v state gain f x
    let rest := cfBlock v state gain r.1 xs
    { rest with values := r.2.1 :: rest.values, saturations := (if r.2.2 then 1 else 0) + rest.saturations }

/-- The filter initialised from a block's first sample (R31). -/
def initFilter (xs : List Int) : Filter := { m := xs.headD 0, s := 0, l := 0 }

/-- The largest of some CF values. -/
def largest (cs : List Nat) : Nat := cs.foldl max 0

/-- The cells of a block of `n` ticks, each the largest CF value of its `d` samples (R38). -/
def cellsOf (d : Nat) : Nat → List Nat → List Nat
  | 0, _ => []
  | n + 1, cs => largest (cs.take d) :: cellsOf d n (cs.drop d)

/-- The cells of a block of 16 samples at a tick length (R38). -/
def blockCells (tickLen : Nat) (cs : List Nat) : List Nat := cellsOf tickLen (16 / tickLen) cs

end Sys2Proof.Machine
end

