-- ==== Sys2Proof/Machine/Lanes.lean ====
section
/-! DEFINITION. The Lane Tracker: SAMPLE frames, accepted blocks, the lane timers and the line-silence timer (chapter 1). -/

namespace Sys2Proof.Machine

/-- The Lane Tracker stands still: the engine is FROZEN, or a hot start is in progress (R9). -/
def trackerStill (s : State) : Bool := s.notice.frozen || hotStarting s

/-! ## SAMPLE_FRAME_PROCESSING (R9, R10, R12) -/

/-- A frame serves a mapped lane (R9). -/
def serves (f : Bytes) (l : Lane) : Bool :=
  l.entry.station == byteAt f 4 && l.record.state != .excluded && l.entry.channel ≤ frameChannels f

/-- A tag is stale for a record (R12). -/
def LaneRecord.stale (r : LaneRecord) (tag : Nat) : Bool := r.expectedTag.any fun e => tag < e

/-- A stale block is counted (R12). -/
def Lane.countStale (l : Lane) : Lane :=
  { l with record := { l.record with counters :=
      { l.record.counters with staleFrames := satAdd l.record.counters.staleFrames 1 } } }

/-- A frame that passes R10: the stale lanes count it, and the other served lanes receive their blocks. -/
def serveFrame (f : Bytes) (s : State) : State :=
  let tag := frameTag f
  s.setTracker
    { s.tracker with
      lanes := Memory.mapValues s.tracker.lanes fun l => if serves f l && l.record.stale tag then l.countStale else l
      blocks := s.tracker.blocks ++ s.tracker.lanes.filterMap fun e =>
        if serves f e.2 && !e.2.record.stale tag then some (frameBlock f e.1 e.2.entry) else none }

/-- FORMAT_DROPS of the upstream port (R10). -/
def countFormatDrop (s : State) : State :=
  s.setLine { s.line with upPort := { s.line.upPort with formatDrops := satAdd s.line.upPort.formatDrops 1 } }

/-- SAMPLE_FRAME_PROCESSING: the oldest frame handed to the Lane Tracker. -/
def processFrame (s : State) : State :=
  if trackerStill s then s
  else
    match s.tracker.inbox with
    | [] => s
    | f :: rest =>
      let t := s.setTracker { s.tracker with inbox := rest }
      if frameFits s.params.lane.sampleRate f then serveFrame f t else countFormatDrop t

def execSampleFrameProcessing (s : State) : Host.Outcome State Fault Refusal := live processFrame s

/-! ## ACCEPTED_BLOCK (R13 to R20) -/

/-- The gap that precedes a block (R13). -/
def LaneRecord.gap (r : LaneRecord) (tag : Nat) : Nat :=
  match r.expectedTag with
  | none => 0
  | some e => tag - e

/-- The block begins or restarts acquisition (R15). -/
def LaneRecord.acquires (r : LaneRecord) (tag maxGap : Nat) : Bool := r.expectedTag.isNone || maxGap < r.gap tag

/-- Step 1 of R14: gap accounting (R13). -/
def LaneRecord.countGap (r : LaneRecord) (gap : Nat) : LaneRecord :=
  if gap = 0 then r
  else { r with counters := { r.counters with gaps := satAdd r.counters.gaps 1
                                              gapSamples := satAdd r.counters.gapSamples gap } }

/-- Step 2 of R14: start of acquisition (R15). -/
def LaneRecord.startAcquisition (r : LaneRecord) : LaneRecord :=
  { r.withState .acquiring with goodRun := 0, badRun := 0, warmup := 0 }

/-- Step 3 of R14: the lane parameters are taken (R14, R29). -/
def LaneRecord.takeParameters (r : LaneRecord) (e : LaneEntry) (v : FilterValues) : LaneRecord :=
  { r with weightInUse := e.weight, gainInUse := e.gainShift, taken := some v }

/-- An accepted block is bad (R16). -/
def blockBad (p : LaneParams) (b : Block) (saturations gap : Nat) : Bool :=
  (b.quality != qualityLocked && !(b.quality == qualityHoldover && b.holdoverAge ≤ p.holdoverLimit))
    || p.clipLimit < b.clips + saturations || 0 < gap

/-- Step 5 of R14, with the counts of step 4: saturations, late cells and bad blocks (R23). -/
def LaneCounters.countBlock (c : LaneCounters) (saturations late : Nat) (bad : Bool) : LaneCounters :=
  { c with
    clippedSamples := satAdd c.clippedSamples saturations
    lateCells := satAdd c.lateCells late
    badBlocks := if bad then satAdd c.badBlocks 1 else c.badBlocks
    blocksAccepted := satAdd c.blocksAccepted 1 }

/-- Step 6 of R14: the run counts (R17). -/
def LaneRecord.countRuns (r : LaneRecord) (bad : Bool) : LaneRecord :=
  { r with
    goodRun := if bad then 0 else min 63 (r.goodRun + 1)
    badRun := if r.state = .admitted then (if bad then min 15 (r.badRun + 1) else 0) else r.badRun
    warmup := min 65536 (r.warmup + 16) }

/-- Step 6 of R14: the transitions (R18, R19, R20). -/
def LaneRecord.transition (r : LaneRecord) (p : LaneParams) : LaneRecord :=
  match r.state with
  | .acquiring =>
    if p.admitCount ≤ r.goodRun && 2 ^ p.ltaShift ≤ r.warmup then { r.withState .admitted with badRun := 0 } else r
  | .admitted => if p.muteCount ≤ r.badRun then r.withState .muted else r
  | .muted => if p.admitCount ≤ r.goodRun then { r.withState .admitted with badRun := 0 } else r
  | .excluded | .absent => r

/-- The ring after a block (R24, R25). -/
def blockRing (r : LaneRecord) (tag : Nat) (samples : List Sample) (ring : Ring) : Ring :=
  let prepared := if r.expectedTag.isNone then ring.prepare tag else ring.markMissing (tag - r.gap tag) (r.gap tag)
  prepared.writeBlock tag samples

/-- The track before a block's cells are written (R43). -/
def preparedTrack (r : LaneRecord) (k0 : Nat) (t : Track) : Track :=
  if r.expectedTag.isNone && t.newest.any (k0 ≤ ·) then .cleared else t

/-- The filter a block starts from (R31, R37). -/
def blockFilter (r : LaneRecord) (acquires : Bool) (xs : List Int) : Filter :=
  if acquires then initFilter xs else r.filter.getD (initFilter xs)

/-- What the handling of an accepted block gives: the lane's record, ring and track, and whether its state changed. -/
structure BlockResult where
  record : LaneRecord
  ring : Ring
  track : Track
  stateChanged : Bool
deriving DecidableEq, Repr

/-- Steps 1 to 7 of R14, and the restart of the lane timer. `cutoff` is the lane's cut-off tick. -/
def handleBlock (p : LaneParams) (timerAt : Nat) (cutoff : Option Nat) (e : LaneEntry) (r : LaneRecord) (ring : Ring)
    (track : Track) (b : Block) : BlockResult :=
  let samples := b.samples.map clampSample
  let xs := samples.map BitVec.toInt
  let gap := r.gap b.tag
  let acquires := r.acquires b.tag p.maxGap
  let r1 := r.countGap gap
  let r2 := if acquires then r1.startAcquisition else r1
  let r3 := r2.takeParameters e (takenValues p)
  let cf := cfBlock (takenValues p) r3.state r3.gainInUse (blockFilter r acquires xs) xs
  let cells := blockCells p.tickLen cf.values
  let k0 := b.tag / p.tickLen
  let bad := blockBad p b cf.saturations gap
  let r4 := { r3 with
    filter := some cf.filter
    counters := r3.counters.countBlock cf.saturations (lateCount cutoff k0 cells.length) bad }
  let r5 := (r4.countRuns bad).transition p
  { record := { r5 with expectedTag := some (count48 (b.tag + 16)), completeThrough := some ((b.tag + 15) / p.tickLen)
                        timer := some timerAt }
    ring := blockRing r b.tag samples ring
    track := (preparedTrack r k0 track).writeBlock cutoff k0 cells
    stateChanged := r2.state != r.state || r5.state != r2.state }

/-- Line time after an accepted block (R26). -/
def raiseLineTime (lineTime : Option Nat) (k : Nat) : Option Nat := some (max k (lineTime.getD k))

/-- An accepted block of a mapped lane, handled whole (R14), then the scan tests (R74) and the wait test (R126). -/
def acceptBlock (lane : Nat) (b : Block) (l : Lane) (s : State) : State :=
  let o := handleBlock s.params.lane (s.now + s.params.timers.laneTimeout) (Memory.find s.scan.cutoffs lane) l.entry
    l.record (ringOf s lane) (trackOf s lane) b
  let t := updateLane lane (fun x => { x with record := o.record }) s
  let t := t.setTracker
    { t.tracker with lineTime := raiseLineTime s.tracker.lineTime ((b.tag + 15) / s.params.lane.tickLen)
                     silenceTimer := some (s.now + s.params.timers.lineSilence) }
  let t := setTrack (setRing t lane o.ring) lane o.track
  waitTestFor lane (retest (setFlagIf o.stateChanged .laneChange t))

/-- A block still serves the lane: mapped to the same station channel, and not EXCLUDED (R9; assumption 9). -/
def stillServed (b : Block) (l : Lane) : Bool :=
  l.entry.station == b.station && l.entry.channel == b.channel && l.record.state != .excluded

/-- A block of a lane: stale, or accepted (R12). -/
def takeBlock (b : Block) (s : State) : State :=
  match laneOf s b.lane with
  | none => s
  | some l =>
    if !stillServed b l then s
    else if l.record.stale b.tag then updateLane b.lane Lane.countStale s
    else acceptBlock b.lane b l s

/-- ACCEPTED_BLOCK: the oldest block selected for the lane. -/
def acceptedBlock (lane : Nat) (s : State) : State :=
  if trackerStill s then s
  else
    match takeFirst (fun b => b.lane == lane) s.tracker.blocks with
    | none => s
    | some (b, rest) => takeBlock b (s.setTracker { s.tracker with blocks := rest })

def execAcceptedBlock (lane : Nat) (s : State) : Host.Outcome State Fault Refusal := live (acceptedBlock lane) s

/-! ## The timers -/

/-- LANE_TIMER_EXPIRY: the lane becomes ABSENT (R21; the clock, assumption 3), then the scan tests (R74) and the wait test
(R126). -/
def laneTimerExpiry (lane : Nat) (s : State) : State :=
  if trackerStill s then s
  else
    match laneOf s lane with
    | none => s
    | some l =>
      match l.record.timer with
      | none => s
      | some e =>
        let t := updateLane lane (fun x => { x with record := x.record.lose }) (s.setNow (max s.now e))
        waitTestFor lane (retest (setFlagIf (l.record.state != .absent) .laneChange t))

def execLaneTimerExpiry (lane : Nat) (s : State) : Host.Outcome State Fault Refusal := live (laneTimerExpiry lane) s

/-- LINE_SILENCE_EXPIRY: LINE_SILENT is set, and the Detector is told SILENCE (R27; the clock, assumption 3). -/
def lineSilenceExpiry (s : State) : State :=
  if trackerStill s then s
  else
    match s.tracker.silenceTimer with
    | none => s
    | some e =>
      takeSilence (setFlag .lineSilent
        ((s.setNow (max s.now e)).setTracker { s.tracker with silenceTimer := none }))

def execLineSilenceExpiry (s : State) : Host.Outcome State Fault Refusal := live lineSilenceExpiry s

end Sys2Proof.Machine
end

