-- ==== Sys2Proof/Machine/LaneCommands.lean ====
section
/-! DEFINITION. LOAD LANE MAP, SET LANE, READ LANE and READ LANE CHANGES (R2 to R6). -/

namespace Sys2Proof.Machine

/-! ## LOAD LANE MAP (R2) -/

/-- The length matches the entry count, and the count is at most 192 (R2, first check). -/
def loadLaneMapFits (c : Held) : Bool := c.byte 0 ≤ Config.lanes && c.params.length == 1 + 4 * c.byte 0

/-- A lane of a new map: its record cleared, its changed mark set (R2, R7, R8). -/
def newLane (e : LaneEntry) : Lane := { entry := e, record := { clearedRecord e none with changed := true } }

/-- The lanes of a new map (R2). -/
def newMap (entries : List (Nat × LaneEntry × Nat)) : Memory Lane :=
  entries.foldl (fun m x => Memory.put m x.1 (newLane x.2.1)) []

/-- The map is replaced as a whole; every track and ring is cleared; the cut-offs are kept (R2). -/
def replaceMap (entries : List (Nat × LaneEntry × Nat)) (s : State) : State :=
  setFlagIf (!entries.isEmpty) .laneChange
    (((s.setTracker { s.tracker with lanes := newMap entries }).setTracks []).setRings [])

/-- LOAD LANE MAP's own handling; the wait test follows an accepted load (R126). -/
def loadLaneMap (c : Held) (s : State) : State :=
  let entries := mapEntries c
  if s.scan.state != .idle then answer .busy [] s
  else if entries.all mapEntryFits && mapDistinct entries then answer .ok [] (waitTest (replaceMap entries s))
  else answer .badRequest [] s

/-- LOAD_LANE_MAP, code 0x10 (R2). -/
def execLoadLaneMap (s : State) : Host.Outcome State Fault Refusal := runCommand 0x10 loadLaneMapFits false loadLaneMap s

/-! ## SET LANE (R3, R4) -/

/-- The change a SET LANE asks for, after its clamps (R3). -/
def laneChangeOf (c : Held) : LaneChange :=
  { lane := c.byte 0, weight := min 15 (c.byte 1), gainShift := min 8 (c.byte 2), included := c.yes 3
    clamped := 15 < c.byte 1 || 8 < c.byte 2 }

/-- SET LANE that keeps INCLUDED: WEIGHT and GAIN_SHIFT are written into the entry (R3). -/
def writeEntry (x : LaneChange) (s : State) : State :=
  updateLane x.lane (fun l => { l with entry := l.entry.change x.weight x.gainShift l.entry.included }) s

/-- SET LANE's own handling: at once, or at the boundary of the tick scan in flight (R3, R4). -/
def setLane (c : Held) (s : State) : State :=
  let x := laneChangeOf c
  if Config.lanes ≤ x.lane then answer .badRequest [] s
  else
    match laneOf s x.lane with
    | none => answer .notReady [] s
    | some l =>
      if l.entry.included = x.included then answer (okOr x.clamped) [] (writeEntry x s)
      else if s.scan.tick.isSome then s.setCmd { s.cmd with executing := some (.laneChange x) }
      else retest (answer (okOr x.clamped) [] (applyLaneChange x s))

/-- SET_LANE, code 0x11 (R3, R4). -/
def execSetLane (s : State) : Host.Outcome State Fault Refusal := runCommand 0x11 (fixedLength 4) false setLane s

/-! ## READ LANE (R5) -/

/-- The seven counters in the order of the table of 1.2. -/
def LaneCounters.values (c : LaneCounters) : List Nat :=
  [c.blocksAccepted, c.staleFrames, c.gaps, c.gapSamples, c.clippedSamples, c.lateCells, c.badBlocks]

/-- The result of READ LANE (R5). -/
def laneResult (s : State) (lane : Nat) (l : Lane) : Bytes :=
  let e := l.entry
  let r := l.record
  encNat 1 lane ++ encNat 1 e.station ++ encNat 1 e.channel ++ encNat 1 e.weight ++ encNat 1 e.gainShift
    ++ encBool e.included ++ encNat 1 r.weightInUse ++ encNat 1 r.gainInUse ++ encNat 1 r.state.code
    ++ encOpt 6 r.expectedTag ++ encOpt 6 r.completeThrough ++ encNat 1 r.goodRun ++ encNat 1 r.badRun
    ++ encNat 4 r.warmup ++ encBool r.timer.isSome ++ encBool r.changed ++ encCounters r.counters.values
    ++ encOpt 6 (ringOf s lane).newest ++ encOpt 6 (Memory.find s.scan.cutoffs lane)
    ++ encOptInt 4 (r.filter.map Filter.m) ++ encOptInt 4 (r.filter.map Filter.s) ++ encOptInt 4 (r.filter.map Filter.l)

/-- The seven counters of a lane set to 0 (R5, clear option). -/
def Lane.clearCounters (l : Lane) : Lane := { l with record := { l.record with counters := .zero } }

/-- READ LANE's own handling. -/
def readLane (c : Held) (s : State) : State :=
  let lane := c.byte 0
  if Config.lanes ≤ lane then answer .badRequest [] s
  else
    match laneOf s lane with
    | none => answer .notReady [] s
    | some l => answer .ok (laneResult s lane l) (if c.yes 1 then updateLane lane Lane.clearCounters s else s)

/-- READ_LANE, code 0x12: lane and clear option; served while FROZEN (R5). -/
def execReadLane (s : State) : Host.Outcome State Fault Refusal := runCommand 0x12 (fixedLength 2) true readLane s

/-! ## READ LANE CHANGES (R6) -/

/-- The lanes whose changed mark is set, in ascending lane number. -/
def markedLanes (s : State) : List (Nat × Lane) := s.tracker.lanes.filter fun e => e.2.record.changed

/-- The lanes one READ LANE CHANGES returns: up to 32 (R6). -/
def returnedLanes (s : State) : List (Nat × Lane) := (markedLanes s).take 32

/-- The result: the returned lanes with their states, then "more" (R6). -/
def laneChangesResult (s : State) : Bytes :=
  ((returnedLanes s).map fun e => encNat 1 e.1 ++ encNat 1 e.2.record.state.code).flatten
    ++ encBool (32 < (markedLanes s).length)

/-- The changed marks of the returned lanes are cleared (R6). -/
def clearMarks (lanes : List (Nat × Lane)) (s : State) : State :=
  lanes.foldl (fun t e => updateLane e.1 (fun l => { l with record := { l.record with changed := false } }) t) s

/-- READ LANE CHANGES's own handling. -/
def readLaneChanges (_ : Held) (s : State) : State := answer .ok (laneChangesResult s) (clearMarks (returnedLanes s) s)

/-- READ_LANE_CHANGES, code 0x13; served while FROZEN (R6). -/
def execReadLaneChanges (s : State) : Host.Outcome State Fault Refusal :=
  runCommand 0x13 (fixedLength 0) true readLaneChanges s

end Sys2Proof.Machine
end

