-- ==== Sys2Proof/Machine/NoticeCommands.lean ====
section
/-! DEFINITION. READ NOTICES, CLEAR NOTICES, SET NOTICE MASK (R170), READ FAULT and CLEAR FAULT (R174). -/

namespace Sys2Proof.Machine

/-- The result of READ NOTICES (R170). -/
def noticesResult (s : State) : Bytes :=
  encFlags s.notice.flags ++ encFlags s.notice.enables ++ encBool s.notice.due ++ encBool s.line.addressValid

/-- READ NOTICES's own handling. -/
def readNotices (_ : Held) (s : State) : State := answer .ok (noticesResult s) s

/-- READ_NOTICES, code 0x48; served while FROZEN (R170). -/
def execReadNotices (s : State) : Host.Outcome State Fault Refusal := runCommand 0x48 (fixedLength 0) true readNotices s

/-- CLEAR NOTICES's own handling: the reply carries the flags after the clearing. -/
def clearNotices (c : Held) (s : State) : State :=
  let t := clearFlags c.flagSet s
  answer .ok (encFlags t.notice.flags) t

/-- CLEAR_NOTICES, code 0x49; served while FROZEN (R170). -/
def execClearNotices (s : State) : Host.Outcome State Fault Refusal := runCommand 0x49 (fixedLength 2) true clearNotices s

/-- SET NOTICE MASK's own handling: the reply carries the new enables. -/
def setNoticeMask (c : Held) (s : State) : State :=
  let t := setEnables c.flagSet s
  answer .ok (encFlags t.notice.enables) t

/-- SET_NOTICE_MASK, code 0x4A; served while FROZEN (R170). -/
def execSetNoticeMask (s : State) : Host.Outcome State Fault Refusal :=
  runCommand 0x4A (fixedLength 2) true setNoticeMask s

/-! ## Faults -/

/-- The nine fields of a fault place, in the order of the table of 9.3: bank, voxel and entry; lane and tick; store, lane,
sample index and store word. A field that the kind of the fault does not have is none (R156; assumption 21). -/
def encPlaceFields (bank voxel entry lane tick store ringLane index word : Option Nat) : Bytes :=
  encOpt 1 bank ++ encOpt 2 voxel ++ encOpt 1 entry ++ encOpt 1 lane ++ encOpt 6 tick ++ encOpt 1 store
    ++ encOpt 1 ringLane ++ encOpt 6 index ++ encOpt 2 word

/-- The place of a fault; every field is none where there is no record (R156; assumption 21). -/
def encPlace : Option FaultPlace → Bytes
  | none => encPlaceFields none none none none none none none none none
  | some (.table bank voxel entry) =>
    encPlaceFields (some bank.code) (some voxel) (some entry.code) none none none none none none
  | some (.track lane tick) => encPlaceFields none none none (some lane) (some tick) none none none none
  | some (.ring lane index) => encPlaceFields none none none none none (some 0) (some lane) (some index) none
  | some (.store word) => encPlaceFields none none none none none (some 1) none none (some word)

/-- The fault record as READ FAULT shows it (R174). -/
def encFaultRecord (r : Option FaultRecord) : Bytes :=
  encOpt 1 (r.map fun x => x.place.kindCode) ++ encOpt 1 (r.map fun x => x.activity.code)
    ++ encPlace (r.map FaultRecord.place) ++ encOpt 6 (r.bind FaultRecord.cursor)
    ++ encOpt 1 (r.map fun x => x.detector.code) ++ encOpt 1 (r.map fun x => x.outcome.code)

/-- The second-fault record as READ FAULT shows it (R174). -/
def encSecondFault (r : Option SecondFault) : Bytes :=
  encOpt 1 (r.map fun x => x.place.kindCode) ++ encOpt 1 (r.map fun x => x.activity.code)
    ++ encPlace (r.map SecondFault.place)

/-- The result of READ FAULT (R174). -/
def faultResult (n : NoticeUnit) : Bytes :=
  encBool n.faultRecord.isSome ++ encFaultRecord n.faultRecord ++ encSecondFault n.secondFault ++ encBool n.frozen
    ++ encNat 4 n.frozenStoreErrors

/-- READ FAULT's own handling. -/
def readFault (_ : Held) (s : State) : State := answer .ok (faultResult s.notice) s

/-- READ_FAULT, code 0x50; served while FROZEN (R174). -/
def execReadFault (s : State) : Host.Outcome State Fault Refusal := runCommand 0x50 (fixedLength 0) true readFault s

/-- The record that CLEAR FAULT's reply carries (R174). -/
def clearedFault (r : FaultRecord) : Bytes :=
  encNat 1 r.place.kindCode ++ encNat 1 r.activity.code ++ encPlace (some r.place) ++ encOpt 6 r.cursor
    ++ encNat 1 r.detector.code ++ encNat 1 r.outcome.code

/-- CLEAR FAULT's own handling: the FAULT flag and the second-fault record stay (R174). -/
def clearFault (_ : Held) (s : State) : State :=
  match s.notice.faultRecord with
  | none => answer .notReady [] s
  | some r => answer .ok (clearedFault r) (s.setNotice { s.notice with faultRecord := none })

/-- CLEAR_FAULT, code 0x51 (R174). -/
def execClearFault (s : State) : Host.Outcome State Fault Refusal := runCommand 0x51 (fixedLength 0) false clearFault s

end Sys2Proof.Machine
end

