-- ==== Sys2Proof/Machine/Parameters.lean ====
section
/-! DEFINITION. READ STATUS, SET PARAMETERS and READ PARAMETERS (chapter 8). -/

namespace Sys2Proof.Machine

/-! ## READ STATUS (R163) -/

/-- The number of mapped lanes in a state. -/
def laneCount (s : State) (state : LaneState) : Nat :=
  (s.tracker.lanes.filter fun e => e.2.record.state == state).length

/-- The result of READ STATUS, in the order of the table of R163. -/
def statusResult (s : State) : Bytes :=
  encNat 1 s.scan.state.code ++ encNat 1 s.det.state.code ++ encOpt 1 (s.banks.active.map BankId.code)
    ++ encOpt 1 (s.banks.pendingSwitch.map BankId.code) ++ encOpt 6 s.tracker.lineTime ++ encOpt 6 s.scan.cursor
    ++ encNat 1 s.queue.length ++ encBool s.notice.faultRecord.isSome ++ encBool s.notice.frozen
    ++ encNat 1 s.line.source ++ encNat 1 s.line.mode.code ++ encBool s.line.addressValid
    ++ encNat 1 (laneCount s .excluded) ++ encNat 1 (laneCount s .absent) ++ encNat 1 (laneCount s .acquiring)
    ++ encNat 1 (laneCount s .admitted) ++ encNat 1 (laneCount s .muted) ++ encNat 1 (contributingSet s).length

/-- READ STATUS's own handling. -/
def readStatus (_ : Held) (s : State) : State := answer .ok (statusResult s) s

/-- READ_STATUS, code 0x08; served while FROZEN (R163). -/
def execReadStatus (s : State) : Host.Outcome State Fault Refusal := runCommand 0x08 (fixedLength 0) true readStatus s

/-! ## SET PARAMETERS (R165 to R167) -/

/-- The bytes of a group's values. -/
def groupLength (group : Nat) : Nat := (groupWidths group).sum

/-- The group number and the length match (R165, check 1). -/
def setParametersFits (c : Held) : Bool := c.byte 0 ≤ 5 && c.params.length == 1 + groupLength (c.byte 0)

/-- The values a SET PARAMETERS carries. -/
def carriedValues (c : Held) : List Nat := fieldsAt c.params 1 (groupWidths (c.byte 0))

/-- The rate changes (R167). -/
def changesRate (old new : Params) : Bool := new.lane.sampleRate != old.lane.sampleRate

/-- The tick changes (R167). -/
def changesTick (old new : Params) : Bool := new.lane.tickLen != old.lane.tickLen

/-- Every lane that is receiving returns to ABSENT (R22), with LANE_CHANGE (R8). -/
def loseLanes (s : State) : State :=
  setFlagIf (s.tracker.lanes.any fun e => e.2.record.receiving) .laneChange
    (s.setTracker { s.tracker with lanes := Memory.mapValues s.tracker.lanes fun l =>
      if l.record.receiving then { l with record := l.record.lose } else l })

/-- A change of rate clears every ring (R22, R167). -/
def clearRings (s : State) : State := s.setRings []

/-- A change of tick clears every track, and sets line time and every cut-off to none (R22, R67, R167). -/
def clearTicks (s : State) : State :=
  ((s.setTracks []).setTracker { s.tracker with lineTime := none }).setScan { s.scan with cutoffs := [] }

/-- The effects of a change of rate or tick (R167). -/
def changeEffects (rate tick : Bool) (s : State) : State :=
  let t := if rate || tick then loseLanes s else s
  let t := if rate then clearRings t else t
  if tick then clearTicks t else t

/-- The candidate's plan names a lane that is receiving (R126). -/
def candidatePlansReceiving (s : State) : Bool :=
  (candidate s).any fun r => r.plan.any fun e => (laneOf s e.lane).any fun l => l.record.receiving

/-- SET PARAMETERS's own handling (R165, R167); lanes that change state are followed by the wait test (R126). -/
def setParameters (c : Held) (s : State) : State :=
  let group := c.byte 0
  let p := s.params.store group (carriedValues c)
  let rate := changesRate s.params p
  let tick := changesTick s.params p
  if (rate || tick) && scanning s then answer .busy [] s
  else
    let t := changeEffects rate tick (s.setParams p)
    let t := if (rate || tick) && candidatePlansReceiving s then waitTest t else t
    answer (okOr (p.values group != carriedValues c)) (p.encGroup group) t

/-- SET_PARAMETERS, code 0x09 (R165). -/
def execSetParameters (s : State) : Host.Outcome State Fault Refusal := runCommand 0x09 setParametersFits false setParameters s

/-! ## READ PARAMETERS (R169) -/

/-- One byte, a group number of 0..5. -/
def readParametersFits (c : Held) : Bool := c.params.length == 1 && c.byte 0 ≤ 5

/-- READ PARAMETERS's own handling. -/
def readParameters (c : Held) (s : State) : State := answer .ok (s.params.encGroup (c.byte 0)) s

/-- READ_PARAMETERS, code 0x0A; served while FROZEN (R169). -/
def execReadParameters (s : State) : Host.Outcome State Fault Refusal :=
  runCommand 0x0A readParametersFits true readParameters s

end Sys2Proof.Machine
end

