-- ==== Sys2Proof/Machine/Starts.lean ====
section
/-! DEFINITION. The cold start, and the hot start of RESTART (9.5). -/

namespace Sys2Proof.Machine

/-! ## Cold start (R177) -/

/-- Every piece of state takes its cold-start value. The engine is held while the reset line is held low; the commands that
wait to be taken are the interface's (assumption 5). -/
def coldStart (cause : ColdCause) (s : State) : State :=
  (State.reset.setPending s.pending).setResetHeld (s.resetHeld || cause == .resetLine)

/-- COLD_START (R177). -/
def execColdStart (cause : ColdCause) (s : State) : Host.Outcome State Fault Refusal := .next (coldStart cause s)

/-- RESET_LINE_RELEASED: the engine begins receiving (R177). -/
def execResetLineReleased (s : State) : Host.Outcome State Fault Refusal := .next (s.setResetHeld false)

/-! ## Hot start (R178) -/

/-- The Line Interface as a hot start begins: its queues are emptied, with the frames of the Forwarding and Upward Queues
counted as drops; the frames in transmission go on (R147 to R150). -/
def Line.hotStart (l : Line) : Line :=
  { l with
    fwd := [], up := [], own := [], waiters := [], waitingAnswer := none, sinceOwn := 0, hold := false
    upPort := { l.upPort with drops := satAdd l.upPort.drops l.fwd.length }
    dnPort := { l.dnPort with drops := satAdd l.dnPort.drops l.up.length } }

/-- A LOADING bank becomes EMPTY (R49). -/
def Bank.hotStart (k : Bank) : Bank := if k.state = .loading then Bank.cold else k

/-- The banks after a hot start: the selector is kept, and a pending switch is cancelled (R49). -/
def Banks.hotStart (k : Banks) : Banks := { a := k.a.hotStart, b := k.b.hotStart, active := k.active, pendingSwitch := none }

/-- The Lane Tracker after a hot start: the map is kept, every record is cleared (R1, R7, R26, R27). -/
def Tracker.hotStart (k : Tracker) : Tracker :=
  { lanes := Memory.mapValues k.lanes Lane.clear, lineTime := none, silenceTimer := none, inbox := [], blocks := [] }

/-- Everything a hot start sets, its beginning and its clearing in one step; a NOTICE placed before its completion thus carries a
line time of none and a depth of 0 (R178, R179; assumption 18). The command in execution is the RESTART `c`. -/
def hotStart (c : Held) (s : State) : State :=
  { pending := s.pending, resetHeld := s.resetHeld, now := s.now, line := s.line.hotStart
    cmd := { held := [c], executing := some .hotStart }, params := s.params, tracker := s.tracker.hotStart, tracks := []
    rings := [], banks := s.banks.hotStart, scan := .started, det := .started s.det.serial, queue := []
    store := .empty s.store.words, capture := .idle, notice := .started s.notice.enables }

/-- RESTART, code 0x5F; served while FROZEN (R178). -/
def execRestart (s : State) : Host.Outcome State Fault Refusal := runCommand 0x5F (fixedLength 0) true hotStart s

/-- The result of RESTART (R178). -/
def restartResult (s : State) : Bytes :=
  encNat 2 s.det.serial ++ encOpt 1 (s.banks.active.map BankId.code) ++ encNat 1 s.banks.a.state.code
    ++ encNat 1 s.banks.b.state.code ++ encNat 1 s.line.source ++ encNat 1 s.line.mode.code ++ encBool s.line.addressValid

/-- HOT_START_COMPLETION: the Lane Tracker resumes, and the RESTART reply is placed (R178). Where the Own Queue is full the hot
start ends all the same, with the reply left waiting for room (assumption 41). -/
def hotStartCompletion (s : State) : State :=
  if hotStarting s then answer .ok (restartResult s) (s.setCmd { s.cmd with executing := none }) else s

def execHotStartCompletion (s : State) : Host.Outcome State Fault Refusal := liveLine hotStartCompletion s

end Sys2Proof.Machine
end

