-- ==== Sys2Proof/Machine/Dispatch.lean ====
section
/-! DEFINITION. The meaning of each command: one arm per row of spec/opcode_table.json. -/

namespace Sys2Proof.Machine

/-- The effect of a command on everything but the queue. -/
def exec (i : Instr) (s : State) : Host.Outcome State Fault Refusal :=
  match i with
  | .coldStart cause => Sys2Proof.Machine.execColdStart cause s
  | .upstreamFrameReceived bytes => Sys2Proof.Machine.execUpstreamFrameReceived bytes s
  | .sampleFrameProcessing => Sys2Proof.Machine.execSampleFrameProcessing s
  | .acceptedBlock lane => Sys2Proof.Machine.execAcceptedBlock lane s
  | .laneTimerExpiry lane => Sys2Proof.Machine.execLaneTimerExpiry lane s
  | .lineSilenceExpiry => Sys2Proof.Machine.execLineSilenceExpiry s
  | .downstreamFrameReceived bytes => Sys2Proof.Machine.execDownstreamFrameReceived bytes s
  | .holdReceived => Sys2Proof.Machine.execHoldReceived s
  | .holdReleaseReceived => Sys2Proof.Machine.execHoldReleaseReceived s
  | .downstreamTransmitEnd => Sys2Proof.Machine.execDownstreamTransmitEnd s
  | .upstreamTransmitEnd => Sys2Proof.Machine.execUpstreamTransmitEnd s
  | .noticeFrame => Sys2Proof.Machine.execNoticeFrame s
  | .unknownCommandCode => Sys2Proof.Machine.execUnknownCommandCode s
  | .setAddress => Sys2Proof.Machine.execSetAddress s
  | .readPortCounters => Sys2Proof.Machine.execReadPortCounters s
  | .readStatus => Sys2Proof.Machine.execReadStatus s
  | .setParameters => Sys2Proof.Machine.execSetParameters s
  | .readParameters => Sys2Proof.Machine.execReadParameters s
  | .loadLaneMap => Sys2Proof.Machine.execLoadLaneMap s
  | .setLane => Sys2Proof.Machine.execSetLane s
  | .readLane => Sys2Proof.Machine.execReadLane s
  | .readLaneChanges => Sys2Proof.Machine.execReadLaneChanges s
  | .beginBankLoad => Sys2Proof.Machine.execBeginBankLoad s
  | .loadRows => Sys2Proof.Machine.execLoadRows s
  | .endBankLoad => Sys2Proof.Machine.execEndBankLoad s
  | .endOfValidation => Sys2Proof.Machine.execEndOfValidation s
  | .switchBank => Sys2Proof.Machine.execSwitchBank s
  | .readBank => Sys2Proof.Machine.execReadBank s
  | .readRow => Sys2Proof.Machine.execReadRow s
  | .startScan => Sys2Proof.Machine.execStartScan s
  | .haltScan => Sys2Proof.Machine.execHaltScan s
  | .clearScan => Sys2Proof.Machine.execClearScan s
  | .readScan => Sys2Proof.Machine.execReadScan s
  | .readDetector => Sys2Proof.Machine.execReadDetector s
  | .fetchEvent => Sys2Proof.Machine.execFetchEvent s
  | .readSnippet => Sys2Proof.Machine.execReadSnippet s
  | .snippetFramePlaced => Sys2Proof.Machine.execSnippetFramePlaced s
  | .releaseEvent => Sys2Proof.Machine.execReleaseEvent s
  | .readNotices => Sys2Proof.Machine.execReadNotices s
  | .clearNotices => Sys2Proof.Machine.execClearNotices s
  | .setNoticeMask => Sys2Proof.Machine.execSetNoticeMask s
  | .readFault => Sys2Proof.Machine.execReadFault s
  | .clearFault => Sys2Proof.Machine.execClearFault s
  | .restart => Sys2Proof.Machine.execRestart s
  | .hotStartCompletion => Sys2Proof.Machine.execHotStartCompletion s
  | .tickScanBegin => Sys2Proof.Machine.execTickScanBegin s
  | .voxelEvaluation => Sys2Proof.Machine.execVoxelEvaluation s
  | .tickResultDelivery => Sys2Proof.Machine.execTickResultDelivery s
  | .closeCompletion => Sys2Proof.Machine.execCloseCompletion s
  | .waitTimerExpiry => Sys2Proof.Machine.execWaitTimerExpiry s
  | .copyStep => Sys2Proof.Machine.execCopyStep s
  | .resetLineReleased => Sys2Proof.Machine.execResetLineReleased s

end Sys2Proof.Machine
end

