-- ==== Sys2Proof/Machine/Tick.lean ====
section
/-! DEFINITION. The passing of time: what a step does that finds no command waiting. -/

namespace Sys2Proof.Machine

/-- One millisecond passes on the millisecond timer, unless the reset line holds the engine (assumption 2). -/
def passMillisecond (s : State) : State := if s.resetHeld then s else s.setNow (s.now + 1)

end Sys2Proof.Machine
end

