-- ==== Sys2Proof/Safety.lean ====
section
/-! DEFINITION. What the statements speak of: the states in which a command is served, the state after a reply, and the
invariants of the engine. -/

namespace Sys2Proof.Machine

/-! ## Serving a command -/

/-- The engine acts, the oldest held command is `c`, with code `code`, and no command is in execution (R158). -/
structure Oldest (s : State) (code : Nat) (c : Held) (rest : List Held) : Prop where
  live : s.resetHeld = false
  held : s.cmd.held = c :: rest
  idle : s.cmd.executing = none
  code : c.code.toNat = code

/-- The Own Queue has a free place, and no producer waits for one (R148). -/
structure OwnRoom (s : State) : Prop where
  noWaiter : s.line.waiters = []
  room : s.line.own.length < Config.ownDepth

/-- The oldest held command begins execution and finds room for its reply. -/
structure Begins (s : State) (code : Nat) (c : Held) (rest : List Held) : Prop
    extends Oldest s code c rest, OwnRoom s

/-- The line with a frame placed in the Own Queue, and the arbiter's choice made (R148, R149). -/
def Line.withOwn (l : Line) (f : Bytes) : Line := { l with own := l.own ++ [f] }.arbitrate

/-- `s` after the reply to `c` has been placed: the command has left the list, and nothing but the line and the Command Unit
has changed (R158, R160). -/
def replied (code : ReplyCode) (result : Bytes) (c : Held) (rest : List Held) (s : State) : State :=
  (s.setLine (s.line.withOwn (replyFrame s.line.source c code result))).setCmd { held := rest, executing := none }

/-- `s` after the oldest held command has begun an execution that takes time (R158). -/
def waiting (x : Executing) (c : Held) (rest : List Held) (s : State) : State :=
  (s.setLine s.line.arbitrate).setCmd { held := c :: rest, executing := some x }

/-- `s` with the arbiter's choice made (R149). -/
def settled (s : State) : State := s.setLine s.line.arbitrate

/-- `t` answers the oldest held command `c` of `s`: its reply is placed where there is room and no producer waits, and waits for a
place behind the producers that wait where the Own Queue is full (R148, R158, R160). -/
structure Answered (code : ReplyCode) (result : Bytes) (c : Held) (rest : List Held) (s t : State) : Prop where
  placed : OwnRoom s → t.cmd = { held := rest, executing := none }
    ∧ t.line = s.line.withOwn (replyFrame s.line.source c code result)
  waits : Config.ownDepth ≤ s.line.own.length → .commandUnit ∉ s.line.waiters → s.line.dnTx.isSome = true →
    t.cmd = { held := c :: rest, executing := some (.replyWaiting (replyFrame s.line.source c code result)) }
      ∧ t.line = { s.line with waiters := s.line.waiters ++ [.commandUnit] }

/-- The change `x` of INCLUDED has been applied to its lane, `l` in `s`: an exclusion clears the lane's record, track and ring, an
inclusion makes it ABSENT with the new weight and gain in use; either marks the lane and sets LANE_CHANGE, and no other lane is
touched (R4, R7, R8). An excluded lane keeps its taken filter values (assumption 27). -/
structure LaneChangeApplied (x : LaneChange) (l : Lane) (s t : State) : Prop where
  flag : t.notice.isSet .laneChange = true
  excluded : x.included = false → trackOf t x.lane = Track.cleared ∧ ringOf t x.lane = Ring.cleared ∧ laneOf t x.lane = some
    { entry := { l.entry with weight := x.weight, gainShift := x.gainShift, included := false }
      record :=
        { state := .excluded, expectedTag := none, completeThrough := none, goodRun := 0, badRun := 0, warmup := 0
          weightInUse := x.weight, gainInUse := x.gainShift, timer := none, changed := true, filter := none
          taken := l.record.taken, counters := LaneCounters.zero } }
  included : x.included = true → trackOf t x.lane = trackOf s x.lane ∧ ringOf t x.lane = ringOf s x.lane
    ∧ laneOf t x.lane = some
      { entry := { l.entry with weight := x.weight, gainShift := x.gainShift, included := true }
        record :=
          { l.record with state := .absent, changed := true, weightInUse := x.weight, gainInUse := x.gainShift } }
  others : ∀ lane, lane ≠ x.lane →
    laneOf t lane = laneOf s lane ∧ trackOf t lane = trackOf s lane ∧ ringOf t lane = ringOf s lane

/-! ## The wait test -/

/-- What the wait test may change: the Event Queue, the Snippet Store and the Capture Unit (R127). -/
structure Captures where
  queue : List EventRecord
  store : SnippetStore
  capture : CaptureUnit
deriving DecidableEq, Repr

/-- The captures of a state. -/
def State.captures (s : State) : Captures := { queue := s.queue, store := s.store, capture := s.capture }

/-- `r`, behind `before`, is the candidate: the oldest WAITING record, while the unit is IDLE and `t` not FROZEN (R125). -/
structure Candidate (t : State) (c : Captures) (before : List EventRecord) (r : EventRecord) (after : List EventRecord) :
    Prop where
  running : t.notice.frozen = false
  idle : c.capture.active = none
  queue : c.queue = before ++ r :: after
  waits : r.status = .waiting
  oldest : ∀ x ∈ before, x.status ≠ .waiting

/-- The wait test of `r` is passed, with the lanes, the rings, the clock and the CAPTURE_WAIT of `t`: every lane of its plan has
delivered the end of its span, is lost, or CAPTURE_WAIT has passed (R126). -/
def MayBegin (t : State) (r : EventRecord) : Prop :=
  ∀ x ∈ r.plan, (∃ n, (ringOf t x.lane).newest = some n ∧ x.start + x.count - 1 ≤ n)
    ∨ (∀ l, laneOf t x.lane = some l → l.record.state = .excluded ∨ l.record.state = .absent)
    ∨ r.closeTime + t.params.capture.captureWait ≤ t.now

/-- The words of a plan's spans (R123). -/
def spanWords (plan : List PlanEntry) : Nat := (plan.map PlanEntry.count).sum

/-- The entries of `plan` with their places in an extent that begins at word `first` (R123, R127). -/
def PlacedFrom (first : Nat) (plan placed : List PlanEntry) : Prop :=
  placed.length = plan.length ∧ ∀ (i : Nat) (x : PlanEntry), plan[i]? = some x →
    placed[i]? = some { x with extentOffset := some ((first + spanWords (plan.take i)) % 65536) }

/-- The wait test, in an engine that stands after it as `t`, takes the captures `c` to `d` (R125 to R127): with no candidate nothing
changes; a candidate that may not begin sets the wait timer; one that may begins its capture where its extent has room, and else
becomes NO_SPACE, with EVENT_READY, and the next candidate is tested. -/
inductive WaitTested (t : State) : Captures → Captures → Prop
  | noCandidate {c : Captures} : (∀ before r after, ¬Candidate t c before r after) → WaitTested t c c
  | waits {c : Captures} {before : List EventRecord} {r : EventRecord} {after : List EventRecord} :
      Candidate t c before r after → ¬MayBegin t r →
      WaitTested t c
        { c with capture := { c.capture with waitTimer := some (r.closeTime + t.params.capture.captureWait) } }
  | begins {c : Captures} {before : List EventRecord} {r : EventRecord} {after : List EventRecord}
      {placed : List PlanEntry} :
      Candidate t c before r after → MayBegin t r → spanWords r.plan ≤ c.store.freeWords →
      PlacedFrom c.store.writePos r.plan placed →
      WaitTested t c
        { queue := before ++ { r with status := .capturing, plan := placed } :: after
          store := { c.store with writePos := (c.store.writePos + spanWords r.plan) % 65536
                                  freeWords := c.store.freeWords - spanWords r.plan }
          capture := { active := some { next := 1, storeError := false }, waitTimer := none } }
  | refused {c d : Captures} {before : List EventRecord} {r : EventRecord} {after : List EventRecord} :
      Candidate t c before r after → MayBegin t r → c.store.freeWords < spanWords r.plan →
      t.notice.isSet .eventReady = true →
      WaitTested t { c with queue := before ++ { r with status := .noSpace } :: after
                            capture := { c.capture with waitTimer := none } } d →
      WaitTested t c d

/-- The wait test after an accepted block or a change of state of `lane`: it is made where the candidate's plan names the lane, and
nothing changes elsewhere (R126). -/
structure LaneTested (t : State) (lane : Nat) (c d : Captures) : Prop where
  named : ∀ before r after, Candidate t c before r after → (∃ e ∈ r.plan, e.lane = lane) → WaitTested t c d
  other : (∀ before r after, Candidate t c before r after → ∀ e ∈ r.plan, e.lane ≠ lane) → d = c

/-! ## The command rows -/

/-- The code of a row that executes an engine command (R159). -/
def commandCode : Instr → Option Nat
  | .setAddress => some 0x01 | .readPortCounters => some 0x02 | .readStatus => some 0x08 | .setParameters => some 0x09
  | .readParameters => some 0x0A | .loadLaneMap => some 0x10 | .setLane => some 0x11 | .readLane => some 0x12
  | .readLaneChanges => some 0x13 | .beginBankLoad => some 0x20 | .loadRows => some 0x21 | .endBankLoad => some 0x22
  | .switchBank => some 0x23 | .readBank => some 0x24 | .readRow => some 0x25 | .startScan => some 0x30
  | .haltScan => some 0x31 | .clearScan => some 0x32 | .readScan => some 0x33 | .readDetector => some 0x38
  | .fetchEvent => some 0x40 | .readSnippet => some 0x41 | .releaseEvent => some 0x42 | .readNotices => some 0x48
  | .clearNotices => some 0x49 | .setNoticeMask => some 0x4A | .readFault => some 0x50 | .clearFault => some 0x51
  | .restart => some 0x5F
  | .coldStart _ | .upstreamFrameReceived _ | .sampleFrameProcessing | .acceptedBlock _ | .laneTimerExpiry _
  | .lineSilenceExpiry | .downstreamFrameReceived _ | .holdReceived | .holdReleaseReceived | .downstreamTransmitEnd
  | .upstreamTransmitEnd | .noticeFrame | .unknownCommandCode | .endOfValidation | .snippetFramePlaced
  | .hotStartCompletion | .tickScanBegin | .voxelEvaluation | .tickResultDelivery | .closeCompletion | .waitTimerExpiry
  | .copyStep | .resetLineReleased => none

/-- The bytes of a command's parameters where they are fixed (R159). -/
def fixedBytes : Instr → Option Nat
  | .setAddress => some 2 | .readPortCounters => some 1 | .readStatus => some 0 | .setLane => some 4 | .readLane => some 2
  | .readLaneChanges => some 0 | .beginBankLoad => some 5 | .endBankLoad => some 1 | .switchBank => some 1
  | .readBank => some 1 | .readRow => some 3 | .startScan => some 0 | .haltScan => some 0 | .clearScan => some 0
  | .readScan => some 1 | .readDetector => some 1 | .fetchEvent => some 0 | .readSnippet => some 5 | .releaseEvent => some 2
  | .readNotices => some 0 | .clearNotices => some 2 | .setNoticeMask => some 2 | .readFault => some 0
  | .clearFault => some 0 | .restart => some 0 | .readParameters => some 1
  | .setParameters | .loadLaneMap | .loadRows | .coldStart _ | .upstreamFrameReceived _ | .sampleFrameProcessing
  | .acceptedBlock _ | .laneTimerExpiry _ | .lineSilenceExpiry | .downstreamFrameReceived _ | .holdReceived
  | .holdReleaseReceived | .downstreamTransmitEnd | .upstreamTransmitEnd | .noticeFrame | .unknownCommandCode
  | .endOfValidation | .snippetFramePlaced | .hotStartCompletion | .tickScanBegin | .voxelEvaluation
  | .tickResultDelivery | .closeCompletion | .waitTimerExpiry | .copyStep | .resetLineReleased => none

/-- The commands that are not served while FROZEN (R176: every command its table does not list). -/
def refusedFrozen : Instr → Bool
  | .setParameters | .loadLaneMap | .setLane | .beginBankLoad | .loadRows | .endBankLoad | .switchBank | .startScan
  | .haltScan | .clearScan | .clearFault => true
  | .setAddress | .readPortCounters | .readStatus | .readParameters | .readLane | .readLaneChanges | .readBank | .readRow
  | .readScan | .readDetector | .fetchEvent | .readSnippet | .releaseEvent | .readNotices | .clearNotices | .setNoticeMask
  | .readFault | .restart | .coldStart _ | .upstreamFrameReceived _ | .sampleFrameProcessing | .acceptedBlock _
  | .laneTimerExpiry _ | .lineSilenceExpiry | .downstreamFrameReceived _ | .holdReceived | .holdReleaseReceived
  | .downstreamTransmitEnd | .upstreamTransmitEnd | .noticeFrame | .unknownCommandCode | .endOfValidation
  | .snippetFramePlaced | .hotStartCompletion | .tickScanBegin | .voxelEvaluation | .tickResultDelivery
  | .closeCompletion | .waitTimerExpiry | .copyStep | .resetLineReleased => false

/-- The parameters of a held command fit its row's form (R159, check 2). -/
def paramsFit (i : Instr) (c : Held) : Bool :=
  match i with
  | .setParameters => setParametersFits c
  | .loadLaneMap => loadLaneMapFits c
  | .loadRows => loadRowsFits c
  | .readParameters => readParametersFits c
  | .readSnippet => readSnippetFits c
  | i => (fixedBytes i).any fun n => c.params.length == n

/-! ## What a row may change -/

/-- The parts of the engine's state: the fields of `State`. -/
inductive Part where
  | pending | resetHeld | now | line | cmd | params | tracker | tracks | rings | banks | scan | det | queue | store | capture
  | notice
deriving DecidableEq, Repr

/-- A part stands in `t` as it does in `s`. -/
def Part.same (s t : State) : Part → Prop
  | .pending => t.pending = s.pending
  | .resetHeld => t.resetHeld = s.resetHeld
  | .now => t.now = s.now
  | .line => t.line = s.line
  | .cmd => t.cmd = s.cmd
  | .params => t.params = s.params
  | .tracker => t.tracker = s.tracker
  | .tracks => t.tracks = s.tracks
  | .rings => t.rings = s.rings
  | .banks => t.banks = s.banks
  | .scan => t.scan = s.scan
  | .det => t.det = s.det
  | .queue => t.queue = s.queue
  | .store => t.store = s.store
  | .capture => t.capture = s.capture
  | .notice => t.notice = s.notice

/-- What a reply and the line's settling may change. -/
def replyParts : List Part := [.line, .cmd]

/-- What a fault may change, with the FROZEN condition it may bring and the close that completes with it (R173, R175), and a
reply. -/
def faultParts : List Part := [.line, .cmd, .tracker, .scan, .det, .queue, .store, .capture, .notice]

/-- The parts that a row may change; it leaves every other part as it stands. -/
def mayChange : Instr → List Part
  | .coldStart _ => [.resetHeld, .now, .params, .tracks, .rings, .banks] ++ faultParts
  | .resetLineReleased => [.resetHeld]
  | .upstreamFrameReceived _ => [.tracker] ++ replyParts
  | .downstreamFrameReceived _ | .noticeFrame => [.notice] ++ replyParts
  | .holdReceived | .upstreamTransmitEnd => [.line]
  | .holdReleaseReceived | .downstreamTransmitEnd => replyParts
  | .sampleFrameProcessing => [.line, .tracker]
  | .acceptedBlock _ => [.tracker, .tracks, .rings, .scan, .det, .queue, .store, .capture, .notice]
  | .laneTimerExpiry _ => [.now, .tracker, .scan, .det, .queue, .store, .capture, .notice]
  | .lineSilenceExpiry => [.now, .tracker, .det, .queue, .notice]
  | .waitTimerExpiry => [.now, .queue, .store, .capture, .notice]
  | .tickScanBegin => [.scan, .det]
  | .voxelEvaluation | .copyStep | .snippetFramePlaced => faultParts
  | .tickResultDelivery | .closeCompletion => [.tracks, .rings, .banks] ++ faultParts
  | .endOfValidation => [.banks] ++ faultParts
  | .setParameters => [.params, .tracks, .rings, .tracker, .scan, .queue, .store, .capture, .notice] ++ replyParts
  | .loadLaneMap => [.tracker, .tracks, .rings, .queue, .store, .capture, .notice] ++ replyParts
  | .setLane => [.tracks, .rings] ++ faultParts
  | .readLane | .readLaneChanges => [.tracker] ++ replyParts
  | .beginBankLoad | .loadRows | .switchBank => [.banks] ++ replyParts
  | .startScan => [.scan, .det, .queue, .notice] ++ replyParts
  | .haltScan | .readScan => [.scan] ++ replyParts
  | .clearScan => [.banks, .scan, .det, .notice] ++ replyParts
  | .readDetector => [.det] ++ replyParts
  | .releaseEvent => [.queue, .store] ++ replyParts
  | .setAddress | .clearNotices | .setNoticeMask | .clearFault => [.notice] ++ replyParts
  | .restart => [.tracks, .rings, .banks] ++ faultParts
  | .unknownCommandCode | .readPortCounters | .readStatus | .readParameters | .endBankLoad | .readBank | .readRow
  | .fetchEvent | .readSnippet | .readNotices | .readFault | .hotStartCompletion => replyParts

/-! ## Invariants -/

/-- Places of the Event Queue in use: its records, and the place a close in progress has reserved (R106). -/
def placesUsed (s : State) : Nat := s.queue.length + (if s.det.closing.isSome then 1 else 0)

/-- No queue holds more than its depth (R118, R146 to R149). -/
structure QueuesBounded (s : State) : Prop where
  forwarding : s.line.fwd.length ≤ Config.forwardingDepth
  upward : s.line.up.length ≤ Config.upwardDepth
  own : s.line.own.length ≤ Config.ownDepth
  run : s.line.sinceOwn ≤ Config.forwardedRun
  held : s.cmd.held.length ≤ Config.heldDepth
  events : placesUsed s ≤ Config.queueDepth

/-- Every table and addressed store is in its canonical form. -/
structure MemoriesCanonical (s : State) : Prop where
  lanes : Memory.rising s.tracker.lanes = true
  tracks : Memory.wf Track.cleared s.tracks = true
  cells : ∀ e ∈ s.tracks, Memory.wf TrackCell.absent e.2.cells = true
  rings : Memory.wf Ring.cleared s.rings = true
  samples : ∀ e ∈ s.rings, Memory.wf RingWord.absent e.2.words = true
  rows : ∀ bank, Memory.rising (s.banks.get bank).rows = true
  cutoffs : Memory.rising s.scan.cutoffs = true
  store : Memory.wf StoreWord.unwritten s.store.words = true

/-- The selector names the ACTIVE bank; a pending switch names a READY bank and needs a scan that is not IDLE; a scan that
runs has an ACTIVE bank; a bank in validation is LOADING (R47, R53, R61). -/
structure SelectorAgrees (s : State) : Prop where
  selector : ∀ bank, s.banks.active = some bank ↔ (s.banks.get bank).state = .active
  pendingReady : ∀ bank, s.banks.pendingSwitch = some bank → (s.banks.get bank).state = .ready
  pendingScan : s.banks.pendingSwitch.isSome = true → s.scan.state ≠ .idle
  scanBank : scanning s = true → s.banks.active.isSome = true
  validating : ∀ bank, s.cmd.executing = some (.validating bank) → (s.banks.get bank).state = .loading

/-- The free words and the extents of the queued records make up the Snippet Store (R122). -/
structure StoreAccounts (s : State) : Prop where
  total : s.store.freeWords + (s.queue.map EventRecord.extent).sum = Config.storeWords
  position : s.store.writePos < Config.storeWords

/-- A command that the FROZEN condition ends does not wait (R4, R57, R71). -/
def endedByFrozen : Executing → Bool
  | .laneChange _ | .clearScan | .validating _ => true
  | .replyWaiting _ | .streaming _ | .hotStart => false

/-- The command in execution is the oldest held command, so there is one (R158). The scan state is FROZEN exactly while the
engine is, and then no tick scan, no capture, no unsettled record and no waiting SET LANE, CLEAR SCAN or validation is left
(R72, R132, R175). -/
structure FrozenAgrees (s : State) : Prop where
  oldest : s.cmd.executing.isSome = true → s.cmd.held ≠ []
  scan : s.scan.state = .frozen ↔ s.notice.frozen = true
  tick : s.notice.frozen = true → s.scan.tick = none
  capture : s.notice.frozen = true → s.capture.active = none
  records : s.notice.frozen = true → ∀ r ∈ s.queue, r.status.settled = true
  command : s.notice.frozen = true → ∀ x, s.cmd.executing = some x → endedByFrozen x = false

/-- Every stored parameter is within its range (R164, the table of 8.3). -/
structure ParamsInRange (p : Params) : Prop where
  rate : p.lane.sampleRate = 250 ∨ p.lane.sampleRate = 500 ∨ p.lane.sampleRate = 1000
  tick : p.lane.tickLen = 1 ∨ p.lane.tickLen = 2 ∨ p.lane.tickLen = 4 ∨ p.lane.tickLen = 8 ∨ p.lane.tickLen = 16
  dcShift : 6 ≤ p.lane.dcShift ∧ p.lane.dcShift ≤ 14
  staShift : 1 ≤ p.lane.staShift ∧ p.lane.staShift ≤ 8
  ltaShift : p.lane.staShift + 2 ≤ p.lane.ltaShift ∧ p.lane.ltaShift ≤ 16
  ltaFloor : 1 ≤ p.lane.ltaFloor ∧ p.lane.ltaFloor ≤ 65535
  freeze : 256 ≤ p.lane.freeze ∧ p.lane.freeze ≤ 65535
  admitCount : 1 ≤ p.lane.admitCount ∧ p.lane.admitCount ≤ 63
  muteCount : 1 ≤ p.lane.muteCount ∧ p.lane.muteCount ≤ 15
  clipLimit : p.lane.clipLimit ≤ 16
  holdoverLimit : p.lane.holdoverLimit ≤ 65535
  maxGap : p.lane.maxGap ≤ 4096
  laneTimeout : 50 ≤ p.timers.laneTimeout ∧ p.timers.laneTimeout ≤ 10000
  lineSilence : 100 ≤ p.timers.lineSilence ∧ p.timers.lineSilence ≤ 60000
  grace : p.scan.grace ≤ 255
  lagAllowance : 64 ≤ p.scan.lagAllowance ∧ p.scan.lagAllowance ≤ 1024
  minWeight : 1 ≤ p.scan.minWeight ∧ p.scan.minWeight ≤ 2880
  tOn : 256 ≤ p.detect.tOn ∧ p.detect.tOn ≤ 65535
  tOff : 256 ≤ p.detect.tOff ∧ p.detect.tOff ≤ p.detect.tOn
  coherence : 16 ≤ p.detect.coherence ∧ p.detect.coherence ≤ 255
  kOn : 1 ≤ p.detect.kOn ∧ p.detect.kOn ≤ 15
  qOff : 1 ≤ p.detect.qOff ∧ p.detect.qOff ≤ 63
  maxDuration : 16 ≤ p.detect.maxDuration ∧ p.detect.maxDuration ≤ 1024
  holdoff : p.detect.holdoff ≤ 1023
  vetoLimit : p.detect.vetoLimit ≤ 1024
  snipLanes : 1 ≤ p.capture.snipLanes ∧ p.capture.snipLanes ≤ 8
  preSamples : p.capture.preSamples ≤ 1023
  postSamples : 1 ≤ p.capture.postSamples ∧ p.capture.postSamples ≤ 2047
  captureWait : 100 ≤ p.capture.captureWait ∧ p.capture.captureWait ≤ 10000

/-- The Lane Map binds numbers 0..191, one entry each, to distinct station channels (R1). -/
structure MapDistinct (s : State) : Prop where
  rising : Memory.rising s.tracker.lanes = true
  numbers : ∀ e ∈ s.tracker.lanes, e.1 < Config.lanes
  channels : ∀ e ∈ s.tracker.lanes, ∀ f ∈ s.tracker.lanes,
    e.2.entry.station = f.2.entry.station → e.2.entry.channel = f.2.entry.channel → e.1 = f.1

/-- The serials of the queued records are consecutive, and the serial counter holds the next one, after 65535 the 0 (R110). -/
def SerialsFollow (s : State) : Prop :=
  (s.queue.map EventRecord.serial ++ [s.det.serial]).IsChain fun a b => b = (a + 1) % 65536

/-- A tick scan in flight is that of the cursor tick, in a scan that runs; none is in flight while a close that holds its
tick's boundary back is in progress (R73, R77, R115); and a close in progress is that of a DECLARED event with its running record, in
an engine that is not FROZEN (R106, R175). -/
structure ScanAgrees (s : State) : Prop where
  cursor : ∀ k, s.scan.tick = some k → s.scan.cursor = some k.origin
  runs : s.scan.tick.isSome = true → scanning s = true
  boundary : ∀ c, s.det.closing = some c → c.boundary = true → s.scan.tick = none
  closes : ∀ c, s.det.closing = some c → s.det.state = .declared ∧ s.det.running.isSome = true ∧ s.notice.frozen = false

/-- The row taken next is a start: COLD_START, or the RESTART command (R177, R178). -/
def startInFront (s : State) : Bool :=
  match s.pending with
  | .coldStart _ :: _ => true
  | .restart :: _ => true
  | _ => false

end Sys2Proof.Machine
end

