-- ==== Sys2Proof/Certificates/Slice0/Obligations.lean ====
section
/-! DEFINITION. The statements for the provers: what the rules of spec/ say the commands and the engine do. `Begins s code c
rest` says that the oldest held command `c` begins execution with room for its reply; `replied` and `waiting` (Safety.lean)
give the whole state after a reply placed, or after the beginning of an execution that takes time, so a statement that a
command answers such a state is a statement of its result and of its frame at once. -/

open Sys2Proof Sys2Proof.Machine

/-! ## The queue of commands, the starts and the reset line -/

/-- A step executes the command at the front of the queue on the state with the queue's rest. -/
def Obligations.StepRunsFrontCommand : Prop :=
  ∀ (c : Instr) (rest : List Instr) (s : State), step (s.setPending (c :: rest)) = exec c (s.setPending rest)

/-- A step that finds the queue empty lets one millisecond pass, and changes nothing else (the model's choice, assumption 2); a
held reset line stops the timer too. While the line is held low no command acts but a cold start and the release, and the release
changes nothing else (R177; assumption 5). -/
def Obligations.IdleAndHeldSteps : Prop :=
  (∀ s : State, s.pending = [] →
    step s = .next (if s.resetHeld then s else { s with now := s.now + 1 }))
  ∧ ((∀ (i : Instr) (s : State), s.resetHeld = true → (∀ cause, i ≠ .coldStart cause) → i ≠ .resetLineReleased →
    exec i s = .next s)
  ∧ ∀ s : State, exec .resetLineReleased s = .next { s with resetHeld := false })

/-- A cold start gives every piece of state its cold-start value, whatever was in progress (R48, R66, R92, R122, R162,
R164, R170, R177). The millisecond timer's 0 and the address's 0 are the model's choice (assumptions 3, 6), as are what the
reset line does (assumption 5) and what a store word reads as before a capture writes it (assumption 7). -/
def Obligations.ColdStartSetsEverything : Prop :=
  ∀ (cause : ColdCause) (s : State),
    exec (.coldStart cause) s = .next
      { pending := s.pending
        resetHeld := s.resetHeld || cause == .resetLine
        now := 0
        line :=
          { fwd := [], up := [], own := [], waiters := [], waitingAnswer := none, dnTx := none, upTx := none, sinceOwn := 0
            hold := false, address := 0, addressValid := false, mode := .auto
            upPort := { framesIn := 0, badFrames := 0, formatDrops := 0, forwarded := 0, drops := 0 }
            dnPort := { framesIn := 0, badFrames := 0, formatDrops := 0, forwarded := 0, drops := 0 }
            ownSent := 0, commandDiscards := 0 }
        cmd := { held := [], executing := none }
        params :=
          { lane := { sampleRate := 500, tickLen := 4, dcShift := 10, staShift := 3, ltaShift := 9, ltaFloor := 64
                      freeze := 1024, admitCount := 16, muteCount := 4, clipLimit := 2, holdoverLimit := 600, maxGap := 64 }
            timers := { laneTimeout := 500, lineSilence := 2000 }
            scan := { grace := 32, lagAllowance := 512, minWeight := 8 }
            detect := { tOn := 768, tOff := 640, coherence := 40, kOn := 3, qOff := 8, maxDuration := 512, holdoff := 16
                        vetoLimit := 4 }
            capture := { enable := true, snipLanes := 4, preSamples := 200, postSamples := 600, captureWait := 3000 }
            faultCapture := true }
        tracker := { lanes := [], lineTime := none, silenceTimer := none, inbox := [], blocks := [] }
        tracks := []
        rings := []
        banks :=
          { a := { state := .empty, voxelCount := 0, tag := 0, dmax := none, check := none, rows := [] }
            b := { state := .empty, voxelCount := 0, tag := 0, dmax := none, check := none, rows := [] }
            active := none, pendingSwitch := none }
        scan :=
          { state := .idle, cursor := none, cutoffs := [], tick := none, inUse := none, lastResult := none, ticksScanned := 0
            deadlineTicks := 0, skippedTicks := 0 }
        det :=
          { state := .quiet, running := none, holdoff := 0, inUse := none, serial := 0, closing := none, abortedOnsets := 0
            nuisanceHits := 0, eventsClosed := 0, queueDiscards := 0, clearedEvents := 0 }
        queue := []
        store := { writePos := 0, freeWords := 65536, words := [] }
        capture := { active := none, waitTimer := none }
        notice :=
          { flags := 0, enables := 0, due := false, faultRecord := none, secondFault := none, frozen := false
            frozenStoreErrors := 0 } }

/-- After a cold start and after a hot start, from any state, a FROZEN one included, the Scan Unit stands as R66 lists and the
Detector as R92 lists: only the hot start keeps the serial counter. Either start abandons a tick scan, a running record and a
close in progress, and empties the Event Queue. That the hot start has done so in the step of RESTART itself is the model's
reading (assumption 18). -/
def Obligations.StartsSetScanUnitAndDetector : Prop :=
  ((∀ (cause : ColdCause) (s : State), ∃ t, exec (.coldStart cause) s = .next t ∧
    t.scan = { state := .idle, cursor := none, cutoffs := [], tick := none, inUse := none, lastResult := none
               ticksScanned := 0, deadlineTicks := 0, skippedTicks := 0 })
  ∧ ∀ (s : State) (c : Held) (rest : List Held), Oldest s 0x5F c rest → c.params = [] → ∃ t, exec .restart s = .next t ∧
    t.scan = { state := .idle, cursor := none, cutoffs := [], tick := none, inUse := none, lastResult := none
               ticksScanned := 0, deadlineTicks := 0, skippedTicks := 0 })
  ∧ ((∀ (cause : ColdCause) (s : State), ∃ t, exec (.coldStart cause) s = .next t ∧ t.queue = [] ∧
    t.det = { state := .quiet, running := none, holdoff := 0, inUse := none, serial := 0, closing := none, abortedOnsets := 0
              nuisanceHits := 0, eventsClosed := 0, queueDiscards := 0, clearedEvents := 0 })
  ∧ ∀ (s : State) (c : Held) (rest : List Held), Oldest s 0x5F c rest → c.params = [] → ∃ t, exec .restart s = .next t ∧
    t.queue = [] ∧
    t.det = { state := .quiet, running := none, holdoff := 0, inUse := none, serial := s.det.serial, closing := none
              abortedOnsets := 0, nuisanceHits := 0, eventsClosed := 0, queueDiscards := 0, clearedEvents := 0 })

/-- RESTART begins a hot start, from every state (R178): what it empties, clears and keeps, in one step (assumption 18). The
model's own: it keeps the words of the Snippet Store (assumption 7), drops the frames and blocks not yet handled (assumption
10), and keeps the taken filter values (assumption 27). Its
completion answers the RESTART with the serial counter, the active bank, the state of both banks, and the address, mode and
validity, and ends it; with the Own Queue full it ends the hot start too, and the reply waits for room (assumption 41). With no
hot start in progress it does nothing (assumption 1). -/
def Obligations.HotStartRuns : Prop :=
  (∀ (s : State) (c : Held) (rest : List Held), Oldest s 0x5F c rest → c.params = [] →
    exec .restart s = .next
      { s with
        line :=
          { s.line with
            fwd := [], up := [], own := [], waiters := [], waitingAnswer := none, sinceOwn := 0, hold := false
            upPort := { s.line.upPort with drops := satAdd s.line.upPort.drops s.line.fwd.length }
            dnPort := { s.line.dnPort with drops := satAdd s.line.dnPort.drops s.line.up.length } }
        cmd := { held := [c], executing := some .hotStart }
        tracker :=
          { lanes := Memory.mapValues s.tracker.lanes fun l => { l with record := clearedRecord l.entry l.record.taken }
            lineTime := none, silenceTimer := none, inbox := [], blocks := [] }
        tracks := []
        rings := []
        banks :=
          { a := if s.banks.a.state = .loading then Bank.cold else s.banks.a
            b := if s.banks.b.state = .loading then Bank.cold else s.banks.b
            active := s.banks.active, pendingSwitch := none }
        scan := Scan.started
        det := Detector.started s.det.serial
        queue := []
        store := { writePos := 0, freeWords := 65536, words := s.store.words }
        capture := { active := none, waitTimer := none }
        notice :=
          { flags := 0, enables := s.notice.enables, due := false, faultRecord := none, secondFault := none, frozen := false
            frozenStoreErrors := 0 } })
  ∧ ((∀ (s : State) (c : Held) (rest : List Held), s.resetHeld = false → s.cmd.held = c :: rest →
    s.cmd.executing = some .hotStart →
    let result := encNat 2 s.det.serial ++ encOpt 1 (s.banks.active.map BankId.code) ++ encNat 1 s.banks.a.state.code
      ++ encNat 1 s.banks.b.state.code ++ encNat 1 s.line.source ++ encNat 1 s.line.mode.code ++ encBool s.line.addressValid
    (OwnRoom s → exec .hotStartCompletion s = .next (replied .ok result c rest s))
    ∧ (16 ≤ s.line.own.length → .commandUnit ∉ s.line.waiters → s.line.dnTx.isSome = true →
        exec .hotStartCompletion s = .next
          ((s.setLine { s.line with waiters := s.line.waiters ++ [.commandUnit] }).setCmd
            { held := c :: rest, executing := some (.replyWaiting (replyFrame s.line.source c .ok result)) })))
  ∧ ∀ s : State, s.cmd.executing ≠ some .hotStart → s.line.waiters = [] → s.resetHeld = false →
    exec .hotStartCompletion s = .next (settled s))

/-! ## Frames and queues of the line -/

/-- The tests of a received frame (R142), and that every frame the engine builds passes them: a kind, flags 0, a body of 2 to
1018 bytes, and the CRC (R143). -/
def Obligations.FramesChecked : Prop :=
  (∀ f : Bytes, frameGood f = true ↔
    8 ≤ f.length ∧ f.length ≤ 1024 ∧ fieldAt f 2 2 = f.length ∧
      decNat (f.drop (f.length - 2)) = (crc16 (f.take (f.length - 2))).toNat)
  ∧ ∀ (kind : Byte) (body : Bytes), 2 ≤ body.length → body.length ≤ 1018 →
    frameGood (ownFrame kind body) = true ∧ (ownFrame kind body).take 2 = [kind, 0]
      ∧ (ownFrame kind body).length = body.length + 6

/-- A frame at the upstream port: counted; a bad one is dropped; a good one joins the Forwarding Queue or is counted in
FWD_DROPS when that holds 64 frames, and a SAMPLE frame is handed to the Lane Tracker as well, unless the engine is FROZEN or
in a hot start (R9, R142, R144, R179). -/
def Obligations.UpstreamFrameHandled : Prop :=
  ∀ (f : Bytes) (s : State), s.resetHeld = false →
    (frameGood f = false → exec (.upstreamFrameReceived f) s = .next (settleLine (s.setLine
      { s.line with upPort := { s.line.upPort with framesIn := satAdd s.line.upPort.framesIn 1
                                                   badFrames := satAdd s.line.upPort.badFrames 1 } })))
    ∧ (frameGood f = true → exec (.upstreamFrameReceived f) s = .next (settleLine
      ((s.setLine
        { s.line with
          fwd := if s.line.fwd.length < 64 then s.line.fwd ++ [f] else s.line.fwd
          upPort :=
            { s.line.upPort with
              framesIn := satAdd s.line.upPort.framesIn 1
              drops := if s.line.fwd.length < 64 then s.line.upPort.drops else satAdd s.line.upPort.drops 1 } }).setTracker
        { s.tracker with
          inbox := if byteAt f 0 = 0x10 ∧ s.notice.frozen = false ∧ s.cmd.executing ≠ some .hotStart
            then s.tracker.inbox ++ [f] else s.tracker.inbox })))

/-- A frame at the downstream port that is no ROLLCALL: counted, and routed by its kind and, for an ENGINE_COMMAND, by its target;
a command for this engine is held, or discarded and counted when 4 are held or a hot start is in progress (R142, R145, R146,
R179). A frame routed to the Upward Queue joins its tail, or is counted in UP_DROPS when that holds 16; the upstream transmitter
then sends the oldest frame if it is free (R147, R151). -/
def Obligations.DownstreamFramesRouted : Prop :=
  (∀ (f : Bytes) (s : State), s.resetHeld = false →
    let counted := fun good : Bool => s.setLine
      { s.line with dnPort := { s.line.dnPort with framesIn := satAdd s.line.dnPort.framesIn 1
                                                   badFrames := if good then s.line.dnPort.badFrames
                                                                else satAdd s.line.dnPort.badFrames 1 } }
    let s1 := counted true
    let taken : State :=
      if s.cmd.executing = some .hotStart ∨ 4 ≤ s.cmd.held.length then
        s1.setLine { s1.line with commandDiscards := satAdd s.line.commandDiscards 1 }
      else s1.setCmd
        { s.cmd with held := s.cmd.held ++
            [{ tag := f.getD 5 0, code := f.getD 6 0, params := (f.drop 7).take (f.length - 9) }] }
    (frameGood f = false → exec (.downstreamFrameReceived f) s = .next (settleLine (counted false)))
    ∧ (frameGood f = true → byteAt f 0 ≠ 0x30 → byteAt f 0 ≠ 0x40 →
        exec (.downstreamFrameReceived f) s = .next (settleLine (routeUp f s1)))
    ∧ (frameGood f = true → byteAt f 0 = 0x30 → f.length < 9 →
        exec (.downstreamFrameReceived f) s = .next (settleLine (routeUp f (s1.setLine
          { s1.line with dnPort := { s1.line.dnPort with formatDrops := satAdd s.line.dnPort.formatDrops 1 } }))))
    ∧ (frameGood f = true → byteAt f 0 = 0x30 → 9 ≤ f.length → byteAt f 4 = 15 →
        exec (.downstreamFrameReceived f) s = .next (settleLine (routeUp f taken)))
    ∧ (frameGood f = true → byteAt f 0 = 0x30 → 9 ≤ f.length → byteAt f 4 ≠ 15 → s.line.addressValid = true →
        byteAt f 4 = s.line.address → exec (.downstreamFrameReceived f) s = .next (settleLine taken))
    ∧ (frameGood f = true → byteAt f 0 = 0x30 → 9 ≤ f.length → byteAt f 4 ≠ 15 →
        (s.line.addressValid = false ∨ byteAt f 4 ≠ s.line.address) →
        exec (.downstreamFrameReceived f) s = .next (settleLine (routeUp f s1))))
  ∧ (∀ (f : Bytes) (s : State),
    (∀ g, s.line.upTx = some g → s.line.up.length < 16 →
      routeUp f s = s.setLine { s.line with up := s.line.up ++ [f] })
    ∧ (∀ g, s.line.upTx = some g → 16 ≤ s.line.up.length →
      routeUp f s = s.setLine { s.line with dnPort := { s.line.dnPort with drops := satAdd s.line.dnPort.drops 1 } })
    ∧ (s.line.upTx = none → s.line.up = [] → routeUp f s = s.setLine { s.line with upTx := some f })
    ∧ (∀ g rest, s.line.upTx = none → s.line.up = g :: rest → rest.length < 15 →
      routeUp f s = s.setLine { s.line with up := rest ++ [f], upTx := some g }))

/-- A ROLLCALL at the downstream port (R152): the address and its validity by mode and hop count, the ADDRESS flag when
either changes, the answer, and the frame forwarded upstream with its hop count one higher, 255 staying 255. With the Own
Queue full the answer waits behind the producers that wait; an answer that waits already is replaced in its position (R148). -/
def Obligations.RollcallHandled : Prop :=
  ∀ (f : Bytes) (s : State), s.resetHeld = false → frameGood f = true → byteAt f 0 = 0x40 →
    let answerOf := fun u : State => ownFrame 0x41 (encNat 1 u.line.source ++ encNat 1 u.line.mode.code
      ++ encBool u.line.addressValid ++ (f.drop 4).take 2 ++ encNat 1 (byteAt f 1))
    ∃ t, exec (.downstreamFrameReceived f) s = .next t
      ∧ t.line.mode = s.line.mode
      ∧ t.line.dnPort.framesIn = satAdd s.line.dnPort.framesIn 1
      ∧ (s.line.mode = .manual →
          t.line.address = s.line.address ∧ t.line.addressValid = s.line.addressValid ∧ t.notice.flags = s.notice.flags)
      ∧ (s.line.mode = .auto → byteAt f 1 ≤ 3 → t.line.address = byteAt f 1 ∧ t.line.addressValid = true)
      ∧ (s.line.mode = .auto → 3 < byteAt f 1 → t.line.addressValid = false)
      ∧ (s.line.mode = .auto → t.notice.flags =
          if t.line.address ≠ s.line.address ∨ t.line.addressValid ≠ s.line.addressValid
          then s.notice.flags ||| 0x100 else s.notice.flags)
      ∧ (OwnRoom s → s.line.waitingAnswer = none → s.line.dnTx.isSome = true →
          t.line.own = s.line.own ++ [answerOf t])
      ∧ (16 ≤ s.line.own.length → s.line.dnTx.isSome = true → t.line.own = s.line.own
          ∧ t.line.waitingAnswer = some (answerOf t)
          ∧ (t.line.waiters.filter fun p => p != .noticeUnit) = (s.line.waiters.filter fun p => p != .noticeUnit)
              ++ if s.line.waitingAnswer = none then [.lineInterface] else [])
      ∧ (s.line.upTx.isSome = true → s.line.up.length < 16 → t.line.up = s.line.up ++
          [withTail ([f.getD 0 0, BitVec.ofNat 8 (min 255 (byteAt f 1 + 1))] ++ (f.drop 2).take (f.length - 4))])

/-- The Output Arbiter's choice: nothing while the transmitter sends or HOLD is in force; else an own frame when the Forwarding
Queue is empty or the count is 8, which puts the count at 0; else a forwarded frame, which adds 1 up to 8; else the
transmitter stays free (R149, R150). The line settles after a step by that choice, and by placing a waiting reply or a waiting
roll-call answer when there is room, a reply that waits on a full Own Queue as soon as the arbiter takes a frame from it; its
command then leaves the list (R148, R158). Of several producers that wait, the one that has waited longest takes the place
that is free; a place stays kept for a NOTICE, which its own row builds (assumption 17). -/
def Obligations.OutputArbiterServes : Prop :=
  ((∀ l : Line, l.hold = true ∨ l.dnTx.isSome = true → l.arbitrate = l)
  ∧ (∀ (l : Line) (f : Bytes) (own : List Bytes), l.hold = false → l.dnTx = none → l.own = f :: own →
      l.fwd = [] ∨ l.sinceOwn = 8 →
      l.arbitrate = { l with own := own, dnTx := some { bytes := f, isOwn := true }, sinceOwn := 0 })
  ∧ (∀ (l : Line) (f : Bytes) (fwd : List Bytes), l.hold = false → l.dnTx = none → l.fwd = f :: fwd →
      l.own = [] ∨ l.sinceOwn ≠ 8 →
      l.arbitrate =
        { l with fwd := fwd, dnTx := some { bytes := f, isOwn := false }, sinceOwn := min 8 (l.sinceOwn + 1) })
  ∧ ∀ l : Line, l.own = [] → l.fwd = [] → l.arbitrate = l)
  ∧ ((∀ s : State, s.line.waiters = [] → settleLine s = s.setLine s.line.arbitrate)
  ∧ (∀ (s : State) (f : Bytes), s.line.waiters = [.commandUnit] → s.cmd.executing = some (.replyWaiting f) →
      s.line.own.length < 16 →
      settleLine s = (s.setLine { s.line with own := s.line.own ++ [f], waiters := [] }.arbitrate).setCmd
        { held := s.cmd.held.tail, executing := none })
  ∧ (∀ (s : State) (f : Bytes), s.line.waiters = [.lineInterface] → s.line.waitingAnswer = some f →
      s.line.own.length < 16 →
      settleLine s =
        s.setLine { s.line with own := s.line.own ++ [f], waiters := [], waitingAnswer := none }.arbitrate)
  ∧ ∀ (s : State) (f g : Bytes) (own : List Bytes), s.line.waiters = [.commandUnit] →
      s.cmd.executing = some (.replyWaiting f) → s.line.own = g :: own → own.length = 15 → s.line.fwd = [] →
      s.line.hold = false → s.line.dnTx = none →
      settleLine s =
        (s.setLine { s.line with own := own ++ [f], waiters := [], dnTx := some { bytes := g, isOwn := true }
                                 sinceOwn := 0 }).setCmd { held := s.cmd.held.tail, executing := none })
  ∧ ((∀ (s : State) (others : List Producer), s.line.waiters = .noticeUnit :: others →
      settleLine s = s.setLine s.line.arbitrate)
  ∧ ∀ (s : State) (f g : Bytes), s.cmd.executing = some (.replyWaiting f) → s.line.waitingAnswer = some g →
      s.line.dnTx.isSome = true →
      (∀ others, s.line.waiters = .commandUnit :: others → s.line.own.length = 15 → settleLine s =
        (s.setLine { s.line with own := s.line.own ++ [f]
                                 waiters := others.filter fun p => p != .commandUnit }).setCmd
          { held := s.cmd.held.tail, executing := none })
      ∧ (∀ others, s.line.waiters = .lineInterface :: others → s.line.own.length = 15 → settleLine s =
        s.setLine { s.line with own := s.line.own ++ [g], waiters := others, waitingAnswer := none })
      ∧ (s.line.waiters = [.commandUnit, .lineInterface] → s.line.own.length < 15 → settleLine s =
        (s.setLine { s.line with own := s.line.own ++ [f, g], waiters := [], waitingAnswer := none }).setCmd
          { held := s.cmd.held.tail, executing := none })
      ∧ (s.line.waiters = [.lineInterface, .commandUnit] → s.line.own.length < 15 → settleLine s =
        (s.setLine { s.line with own := s.line.own ++ [g, f], waiters := [], waitingAnswer := none }).setCmd
          { held := s.cmd.held.tail, executing := none }))

/-- HOLD and its release set and clear the hold condition, and the arbiter chooses again after the release (R150). The end of a
transmission: the downstream transmitter's own frame counts in OWN_SENT, a forwarded one in FORWARDED of the upstream port, and
the line settles; the upstream transmitter's frame counts in FORWARDED of the downstream port, and the oldest frame of the
Upward Queue follows (R147, R148, R151). A transmitter that is free has nothing to end (assumption 1). -/
def Obligations.TransmittersAndHold : Prop :=
  (∀ s : State, s.resetHeld = false →
    exec .holdReceived s = .next (s.setLine { s.line with hold := true })
    ∧ exec .holdReleaseReceived s = .next (settleLine (s.setLine { s.line with hold := false })))
  ∧ (∀ s : State, s.resetHeld = false →
    (s.line.dnTx = none → exec .downstreamTransmitEnd s = .next (settleLine s))
    ∧ (∀ f, s.line.dnTx = some { bytes := f, isOwn := true } → exec .downstreamTransmitEnd s = .next (settleLine
        (s.setLine { s.line with dnTx := none, ownSent := satAdd s.line.ownSent 1 })))
    ∧ (∀ f, s.line.dnTx = some { bytes := f, isOwn := false } → exec .downstreamTransmitEnd s = .next (settleLine
        (s.setLine { s.line with
          dnTx := none
          upPort := { s.line.upPort with forwarded := satAdd s.line.upPort.forwarded 1 } })))
    ∧ (∀ f, s.line.upTx = some f → s.line.up = [] → exec .upstreamTransmitEnd s = .next
        (s.setLine { s.line with
          upTx := none
          dnPort := { s.line.dnPort with forwarded := satAdd s.line.dnPort.forwarded 1 } }))
    ∧ (∀ f g rest, s.line.upTx = some f → s.line.up = g :: rest → exec .upstreamTransmitEnd s = .next
        (s.setLine { s.line with
          upTx := some g, up := rest
          dnPort := { s.line.dnPort with forwarded := satAdd s.line.dnPort.forwarded 1 } }))
    ∧ (s.line.upTx = none → s.line.up = [] → exec .upstreamTransmitEnd s = .next s))

/-- A due notice is offered while the address is valid and a flag is both set and enabled: the NOTICE frame is built as things
stand and placed, and the mark is cleared, where there is room and no producer waits, or the Notice and Fault Unit waits at the
front and a place is free; the producers behind it then have their turn. Where the Own Queue is full, or another producer waits at
the front, the unit waits, once; otherwise the line only settles (R148, R157, R171). That the unit joins the waiters, and takes
its place, by this row is the model's choice (assumption 17), as is what the row does when no notice is offered (assumption 1). -/
def Obligations.NoticeFramePlaced : Prop :=
  ∀ s : State, s.resetHeld = false →
    let frame := ownFrame 0x32 (encNat 1 s.line.address ++ encNat 2 (s.notice.flags &&& s.notice.enables).toNat
      ++ encOpt 6 s.tracker.lineTime ++ encNat 1 s.queue.length)
    let blocked := 16 ≤ s.line.own.length ∨ ∃ p others, s.line.waiters = p :: others ∧ p ≠ .noticeUnit
    (s.notice.due = true → s.line.addressValid = true → s.notice.flags &&& s.notice.enables ≠ 0 →
      (OwnRoom s → exec .noticeFrame s = .next
        ((s.setLine (s.line.withOwn frame)).setNotice { s.notice with due := false }))
      ∧ (∀ others, s.line.waiters = .noticeUnit :: others → s.line.own.length < 16 → exec .noticeFrame s = .next
          (settleLine ((s.setLine
            { s.line with own := s.line.own ++ [frame], waiters := others.filter fun p => p != .noticeUnit }).setNotice
              { s.notice with due := false })))
      ∧ (blocked → .noticeUnit ∉ s.line.waiters → exec .noticeFrame s = .next
          (settleLine (s.setLine { s.line with waiters := s.line.waiters ++ [.noticeUnit] }))))
    ∧ (blocked → .noticeUnit ∈ s.line.waiters → exec .noticeFrame s = .next (settleLine s))
    ∧ (s.notice.due = false ∨ s.line.addressValid = false ∨ s.notice.flags &&& s.notice.enables = 0 →
        exec .noticeFrame s = .next (settleLine s))

/-! ## The Command Unit -/

/-- The first three checks of R159: a code the manual does not give, and parameters that do not fit the command's form, are
answered BAD_REQUEST; while the engine is FROZEN every command that R176 does not list is answered FROZEN. Nothing else changes.
Which structure checks stand beside the length, before the FROZEN check, is the model's reading (assumption 19). -/
def Obligations.CommandsCheckedInOrder : Prop :=
  ((∀ (s : State) (code : Nat) (c : Held) (rest : List Held), Begins s code c rest → code ∉ knownCodes →
    exec .unknownCommandCode s = .next (replied .badRequest [] c rest s))
  ∧ ∀ (i : Instr) (code : Nat) (s : State) (c : Held) (rest : List Held), commandCode i = some code →
    Begins s code c rest → paramsFit i c = false → exec i s = .next (replied .badRequest [] c rest s))
  ∧ (∀ (i : Instr) (code : Nat) (s : State) (c : Held) (rest : List Held), commandCode i = some code →
    refusedFrozen i = true → Begins s code c rest → paramsFit i c = true → s.notice.frozen = true →
    exec i s = .next (replied .frozen [] c rest s))

/-- A command's row acts only when the oldest held command carries its code and none is in execution; else the line only settles
(R158; assumption 1). A reply is placed where there is room and no producer waits, and ends its command; one that finds no place
waits, behind the producers that wait already, built as it stands (assumption 16), and its command stays the oldest held one
(R148): so `answer`, by which every command is answered. Shown for the refusals of R159 of every command, whatever the room, and
for READ STATUS, READ NOTICES and READ FAULT while the transmitter is busy. -/
def Obligations.CommandsServedInOrder : Prop :=
  (∀ (i : Instr) (code : Nat) (s : State), commandCode i = some code → s.resetHeld = false →
    (s.cmd.held = [] ∨ s.cmd.executing.isSome = true ∨ (∀ c rest, s.cmd.held = c :: rest → c.code.toNat ≠ code)) →
    exec i s = .next (settleLine s))
  ∧ (∀ (i : Instr) (code : Nat) (result : State → Bytes) (s : State) (c : Held) (rest : List Held),
    (i = .readStatus ∧ code = 0x08 ∧ result = statusResult) ∨ (i = .readNotices ∧ code = 0x48 ∧ result = noticesResult)
      ∨ (i = .readFault ∧ code = 0x50 ∧ result = fun u => faultResult u.notice) →
    Oldest s code c rest → c.params = [] → 16 ≤ s.line.own.length → .commandUnit ∉ s.line.waiters →
    s.line.dnTx.isSome = true →
    exec i s = .next
      ((s.setLine { s.line with waiters := s.line.waiters ++ [.commandUnit] }).setCmd
        { s.cmd with executing := some (.replyWaiting (ownFrame 0x31
            (encNat 1 s.line.source ++ [c.tag, c.code] ++ encNat 1 0 ++ result s))) }))
  ∧ (∀ (code : ReplyCode) (result : Bytes) (s : State) (c : Held) (rest : List Held), s.cmd.held = c :: rest →
    let f := ownFrame 0x31 (encNat 1 s.line.source ++ [c.tag, c.code] ++ encNat 1 code.code ++ result)
    (OwnRoom s → answer code result s =
      (s.setLine { s.line with own := s.line.own ++ [f] }).setCmd { held := rest, executing := none })
    ∧ (16 ≤ s.line.own.length ∨ (∃ p others, s.line.waiters = p :: others ∧ p ≠ .commandUnit) → answer code result s =
      (s.setLine { s.line with waiters := (s.line.waiters.filter fun q => q != .commandUnit) ++ [.commandUnit] }).setCmd
        { s.cmd with executing := some (.replyWaiting f) }))
  ∧ ∀ (i : Instr) (code : Nat) (s : State) (c : Held) (rest : List Held), commandCode i = some code →
    Oldest s code c rest →
    (paramsFit i c = false → exec i s = .next (settleLine (answer .badRequest [] s)))
    ∧ (paramsFit i c = true → refusedFrozen i = true → s.notice.frozen = true →
        exec i s = .next (settleLine (answer .frozen [] s)))

/-! ## The commands of the line, the parameters, the notices and the faults -/

/-- SET ADDRESS (R153), in every state: AUTO keeps the address and its validity, MANUAL with an address of 0..3 fixes a valid one,
and anything else, a wrong length included, is answered BAD_REQUEST. The ADDRESS flag is not touched; an address that becomes
valid is told to the Notice and Fault Unit, which drops a due notice that no flag supports (R172). The reply carries the new
source. -/
def Obligations.SetAddressSetsAddress : Prop :=
  ∀ (s : State) (c : Held) (rest : List Held), Begins s 0x01 c rest →
    (c.params.length ≠ 2 → exec .setAddress s = .next (replied .badRequest [] c rest s))
    ∧ (c.params.length = 2 → c.byte 0 = 0 → exec .setAddress s = .next (replied .ok [] c rest (s.setLine { s.line with mode := .auto })))
    ∧ (c.params.length = 2 → c.byte 0 = 1 → c.byte 1 ≤ 3 → exec .setAddress s = .next (replied .ok [] c rest
        ((s.setLine { s.line with mode := .manual, address := c.byte 1, addressValid := true }).setNotice
          { s.notice with due :=
              s.notice.due && (s.line.addressValid || s.notice.flags &&& s.notice.enables != 0) })))
    ∧ (c.params.length = 2 → c.byte 0 = 1 → 3 < c.byte 1 → exec .setAddress s = .next (replied .badRequest [] c rest s))
    ∧ (c.params.length = 2 → 1 < c.byte 0 → exec .setAddress s = .next (replied .badRequest [] c rest s))

/-- READ PORT COUNTERS (R155), READ SCAN (R90) and READ DETECTOR (R116): the values as they stand are placed in the reply, and
with the clear option the counters are then 0; nothing else changes. READ SCAN's wait reason is NONE 0, LINE 1 or LANES 2, with
the blocking lane for LANES (R90). The model's choices: a record that may be none has a presence byte before each field
(assumption 20), the contribution list stands after its length (assumption 22), the widths and codes R156 does not name
(assumptions 23, 24), and the reason NONE where the cursor tick is ready (assumption 40). -/
def Obligations.ReadsThatMayClear : Prop :=
  (∀ (s : State) (c : Held) (rest : List Held), Begins s 0x02 c rest → c.params.length = 1 →
    let u := s.line.upPort
    let d := s.line.dnPort
    let result := encNat 4 u.framesIn ++ encNat 4 u.badFrames ++ encNat 4 u.formatDrops ++ encNat 4 u.forwarded
      ++ encNat 4 u.drops ++ encNat 4 d.framesIn ++ encNat 4 d.badFrames ++ encNat 4 d.formatDrops ++ encNat 4 d.forwarded
      ++ encNat 4 d.drops ++ encNat 4 s.line.ownSent ++ encNat 4 s.line.commandDiscards ++ encNat 1 s.line.fwd.length
      ++ encNat 1 s.line.up.length ++ encNat 1 s.line.own.length ++ encBool s.line.hold ++ encNat 1 s.line.sinceOwn
    (c.byte 0 = 0 → exec .readPortCounters s = .next (replied .ok result c rest s))
    ∧ (c.byte 0 ≠ 0 → exec .readPortCounters s = .next (replied .ok result c rest (s.setLine
        { s.line with upPort := .zero, dnPort := .zero, ownSent := 0, commandDiscards := 0 }))))
  ∧ (∀ (s : State) (c : Held) (rest : List Held), Begins s 0x33 c rest → c.params.length = 1 →
    let k := s.scan
    let active := s.banks.active.map s.banks.get
    let dmax := (active.bind Bank.dmax).getD 0
    let grace := (k.inUse.getD s.params.scan).grace
    let lacking := fun t => s.tracker.lanes.filter fun e => e.2.record.state == .admitted && 0 < e.2.record.weightInUse
      && !e.2.record.completeThrough.any fun x => t + dmax ≤ x
    let fields := encNat 1 k.state.code ++ encOpt 6 k.cursor ++ encOpt 6 (k.tick.map TickScan.origin)
      ++ encOpt 1 (s.banks.active.map BankId.code) ++ encOpt 2 (active.map Bank.tag) ++ encOpt 2 (active.bind Bank.dmax)
      ++ encOpt 1 (s.banks.pendingSwitch.map BankId.code) ++ encOpt 2 (k.inUse.map ScanParams.grace)
      ++ encOpt 2 (k.inUse.map ScanParams.lagAllowance) ++ encOpt 2 (k.inUse.map ScanParams.minWeight)
      ++ ([k.ticksScanned, k.deadlineTicks, k.skippedTicks].map (encNat 4)).flatten
      ++ (encOpt 6 (k.lastResult.map LastResult.origin) ++ encOpt 2 (k.lastResult.map LastResult.eligible)
        ++ encOpt 2 (k.lastResult.map LastResult.peak) ++ encOpt 2 (k.lastResult.bind LastResult.peakVoxel)
        ++ encOpt 1 (k.lastResult.map fun x => if x.nuisance then 1 else 0) ++ encOpt 2 (k.lastResult.map LastResult.mean)
        ++ encOpt 1 (k.lastResult.map LastResult.listLength))
    ∃ (reason : Nat) (lane : Option Nat),
      exec .readScan s = .next (replied .ok (fields ++ encNat 1 reason ++ encOpt 1 lane) c rest
        (if c.byte 0 = 0 then s
         else s.setScan { s.scan with ticksScanned := 0, deadlineTicks := 0, skippedTicks := 0 }))
      ∧ (reason ≠ 2 → lane = none)
      ∧ (k.state = .idle ∨ k.state = .frozen ∨ k.tick.isSome = true → reason = 0)
      ∧ ∀ t, k.cursor = some t → k.state = .running ∨ k.state = .halting → k.tick = none →
        ((∀ l, s.tracker.lineTime = some l → l < t + dmax) → reason = 1)
        ∧ ∀ l, s.tracker.lineTime = some l → t + dmax ≤ l →
          (lacking t = [] ∨ t + dmax + grace ≤ l → reason = 0)
          ∧ ∀ e others, lacking t = e :: others → l < t + dmax + grace → reason = 2 ∧ lane = some e.1)
  ∧ (∀ (s : State) (c : Held) (rest : List Held), Begins s 0x38 c rest → c.params.length = 1 →
    let d := s.det
    let m := d.running.map Running.maximum
    let v := d.inUse
    exec .readDetector s = .next (replied .ok
      (encNat 1 d.state.code ++ encNat 2 d.holdoff
        ++ (encOpt 6 (d.running.map Running.onsetTick) ++ encOpt 1 (d.running.map Running.onsetCount)
          ++ encOpt 1 (d.running.map Running.quietRun) ++ encOpt 2 (d.running.map Running.vetoCount)
          ++ encOpt 2 (d.running.map Running.durationLimit) ++ encOpt 6 (d.running.map Running.lastTick)
          ++ encOpt 6 (m.map Maximum.origin) ++ encOpt 2 (m.map Maximum.peak) ++ encOpt 2 (m.map Maximum.peakVoxel)
          ++ encOpt 2 (m.map Maximum.mean) ++ encOpt 1 (m.map fun x => x.bank.code) ++ encOpt 2 (m.map Maximum.bankTag)
          ++ encOpt 1 (m.map fun x => x.pairs.length)
          ++ (((m.map Maximum.pairs).getD []).map fun p => encNat 1 p.1 ++ encNat 3 p.2).flatten)
        ++ (encOpt 2 (v.map DetectParams.tOn) ++ encOpt 2 (v.map DetectParams.tOff) ++ encOpt 2 (v.map DetectParams.coherence)
          ++ encOpt 2 (v.map DetectParams.kOn) ++ encOpt 2 (v.map DetectParams.qOff)
          ++ encOpt 2 (v.map DetectParams.maxDuration) ++ encOpt 2 (v.map DetectParams.holdoff)
          ++ encOpt 2 (v.map DetectParams.vetoLimit))
        ++ encNat 2 d.serial
        ++ ([d.abortedOnsets, d.nuisanceHits, d.eventsClosed, d.queueDiscards, d.clearedEvents].map (encNat 4)).flatten)
      c rest
      (if c.byte 0 = 0 then s
       else s.setDet { s.det with abortedOnsets := 0, nuisanceHits := 0, eventsClosed := 0, queueDiscards := 0
                                  clearedEvents := 0 })))

/-- READ STATUS returns the items of R163 in the order of its table; READ PARAMETERS a group 0..5 (R169), READ NOTICES the flags,
enables, due mark and validity (R170), READ FAULT both records (R174). Each is served in every state and changes nothing. A field
with no value is sent as none (R156): of a fault place, the fields that the kind of its fault does not have, and all of them
where the record is empty (the layout is the model's choice, assumption 21, as is assumption 20's presence byte a field). -/
def Obligations.ReadsThatChangeNothing : Prop :=
  (∀ (s : State) (c : Held) (rest : List Held), Begins s 0x08 c rest → c.params = [] →
    let count := fun k : LaneState => encNat 1 (s.tracker.lanes.filter fun e => e.2.record.state == k).length
    exec .readStatus s = .next (replied .ok
      (encNat 1 s.scan.state.code ++ encNat 1 s.det.state.code ++ encOpt 1 (s.banks.active.map BankId.code)
        ++ encOpt 1 (s.banks.pendingSwitch.map BankId.code) ++ encOpt 6 s.tracker.lineTime ++ encOpt 6 s.scan.cursor
        ++ encNat 1 s.queue.length ++ encBool s.notice.faultRecord.isSome ++ encBool s.notice.frozen
        ++ encNat 1 (if s.line.addressValid then s.line.address else 255) ++ encNat 1 s.line.mode.code
        ++ encBool s.line.addressValid ++ count .excluded ++ count .absent ++ count .acquiring ++ count .admitted
        ++ count .muted
        ++ encNat 1 (s.tracker.lanes.filter fun e => e.2.record.state == .admitted && 0 < e.2.record.weightInUse).length)
      c rest s))
  ∧ (∀ (s : State) (c : Held) (rest : List Held),
    (Begins s 0x0A c rest → c.params.length = 1 → c.byte 0 ≤ 5 → exec .readParameters s = .next (replied .ok
      (encNat 1 (c.byte 0) ++ encFields (groupWidths (c.byte 0)) (s.params.values (c.byte 0))) c rest s))
    ∧ (Begins s 0x48 c rest → c.params = [] → exec .readNotices s = .next (replied .ok
        (encNat 2 s.notice.flags.toNat ++ encNat 2 s.notice.enables.toNat ++ encBool s.notice.due
          ++ encBool s.line.addressValid) c rest s))
    ∧ (Begins s 0x50 c rest → c.params = [] → exec .readFault s = .next (replied .ok
        (encBool s.notice.faultRecord.isSome
          ++ (encOpt 1 (s.notice.faultRecord.map fun x => x.place.kindCode)
            ++ encOpt 1 (s.notice.faultRecord.map fun x => x.activity.code)
            ++ encPlace (s.notice.faultRecord.map FaultRecord.place) ++ encOpt 6 (s.notice.faultRecord.bind FaultRecord.cursor)
            ++ encOpt 1 (s.notice.faultRecord.map fun x => x.detector.code)
            ++ encOpt 1 (s.notice.faultRecord.map fun x => x.outcome.code))
          ++ (encOpt 1 (s.notice.secondFault.map fun x => x.place.kindCode)
            ++ encOpt 1 (s.notice.secondFault.map fun x => x.activity.code)
            ++ encPlace (s.notice.secondFault.map SecondFault.place))
          ++ encBool s.notice.frozen ++ encNat 4 s.notice.frozenStoreErrors)
        c rest s)))
  ∧ (let table := encOpt 1 none ++ encOpt 2 none ++ encOpt 1 none
     let track := encOpt 1 none ++ encOpt 6 none
     let store := encOpt 1 none ++ encOpt 1 none ++ encOpt 6 none ++ encOpt 2 none
     encPlace none = table ++ track ++ store
     ∧ (∀ bank voxel entry, encPlace (some (.table bank voxel entry)) =
         encOpt 1 (some bank.code) ++ encOpt 2 (some voxel) ++ encOpt 1 (some entry.code) ++ track ++ store)
     ∧ (∀ lane tick, encPlace (some (.track lane tick)) =
         table ++ encOpt 1 (some lane) ++ encOpt 6 (some tick) ++ store)
     ∧ (∀ lane index, encPlace (some (.ring lane index)) =
         table ++ track ++ encOpt 1 (some 0) ++ encOpt 1 (some lane) ++ encOpt 6 (some index) ++ encOpt 2 none)
     ∧ ∀ word, encPlace (some (.store word)) =
         table ++ track ++ encOpt 1 (some 1) ++ encOpt 1 none ++ encOpt 6 none ++ encOpt 2 (some word))

/-- SET PARAMETERS that changes neither the rate nor the tick stores the group, whatever the scan does, and answers the
values stored, CLAMPED when one of them differs from the value carried; one that changes the rate or the tick while the scan is
RUNNING or HALTING is answered BUSY and stores nothing (R165, R167). -/
def Obligations.SetParametersStores : Prop :=
  ∀ (s : State) (c : Held) (rest : List Held), Begins s 0x09 c rest → setParametersFits c = true →
    s.notice.frozen = false →
    let p := s.params.store (c.byte 0) (carriedValues c)
    let same := p.lane.sampleRate = s.params.lane.sampleRate ∧ p.lane.tickLen = s.params.lane.tickLen
    (same → exec .setParameters s = .next (replied
      (if p.values (c.byte 0) = carriedValues c then .ok else .clamped)
      (encNat 1 (c.byte 0) ++ encFields (groupWidths (c.byte 0)) (p.values (c.byte 0))) c rest (s.setParams p)))
    ∧ (¬same → s.scan.state = .running ∨ s.scan.state = .halting →
        exec .setParameters s = .next (replied .busy [] c rest s))

/-- SET PARAMETERS that changes the rate or the tick while the scan is neither RUNNING nor HALTING (R22, R167): the set is
stored; every lane that is receiving returns to ABSENT, keeping its counters, weight and gain, with LANE_CHANGE where there is one
(R8), and the others stay; a change of rate clears every ring; a change of tick clears every track and sets line time and every
cut-off to none. The reply, OK, or CLAMPED when a stored value differs from the one carried, gives the values stored (R165). The
wait test follows where the candidate's plan names a lane that returned (R126). That the taken filter values stay is the model's
choice (assumption 27). -/
def Obligations.RateOrTickChanges : Prop :=
  ∀ (s : State) (c : Held) (rest : List Held), Begins s 0x09 c rest → setParametersFits c = true →
    s.notice.frozen = false → s.scan.state ≠ .running → s.scan.state ≠ .halting →
    let p := s.params.store (c.byte 0) (carriedValues c)
    let rate := p.lane.sampleRate ≠ s.params.lane.sampleRate
    let tick := p.lane.tickLen ≠ s.params.lane.tickLen
    rate ∨ tick → ∃ t, exec .setParameters s = .next t
      ∧ t.params = p ∧ t.cmd = { held := rest, executing := none }
      ∧ t.line = s.line.withOwn (ownFrame 0x31 (encNat 1 s.line.source ++ [c.tag, c.code]
          ++ [if p.values (c.byte 0) = carriedValues c then 0 else 1]
          ++ (encNat 1 (c.byte 0) ++ encFields (groupWidths (c.byte 0)) (p.values (c.byte 0)))))
      ∧ ((∃ e ∈ s.tracker.lanes, e.2.record.state = .acquiring ∨ e.2.record.state = .admitted ∨ e.2.record.state = .muted) →
          t.notice.isSet .laneChange = true)
      ∧ (∀ before r after, Candidate s s.captures before r after →
          ((∃ e ∈ r.plan, ∃ l, laneOf s e.lane = some l
              ∧ (l.record.state = .acquiring ∨ l.record.state = .admitted ∨ l.record.state = .muted)) →
            WaitTested t s.captures t.captures)
          ∧ ((∀ e ∈ r.plan, ∀ l, laneOf s e.lane = some l → l.record.state = .absent ∨ l.record.state = .excluded) →
            t.captures = s.captures))
      ∧ ((∀ before r after, ¬Candidate s s.captures before r after) → t.captures = s.captures)
      ∧ t.banks = s.banks ∧ t.det = s.det
      ∧ t.scan = (if tick then { s.scan with cutoffs := [] } else s.scan)
      ∧ t.rings = (if rate then [] else s.rings) ∧ t.tracks = (if tick then [] else s.tracks)
      ∧ t.tracker.lineTime = (if tick then none else s.tracker.lineTime)
      ∧ t.tracker.silenceTimer = s.tracker.silenceTimer
      ∧ t.tracker.lanes = Memory.mapValues s.tracker.lanes fun l =>
          if l.record.state = .acquiring ∨ l.record.state = .admitted ∨ l.record.state = .muted then
            { l with record :=
                { l.record with
                  state := .absent, changed := true, expectedTag := none, completeThrough := none, goodRun := 0, badRun := 0
                  warmup := 0, timer := none, filter := none } }
          else l

/-- A value carried by SET PARAMETERS is brought within its range (R166): a number to the nearer bound; SAMPLE_RATE and
TICK_LEN to the nearest of their values, the lower of two equally near; LTA_SHIFT to at least STA_SHIFT + 2, and T_OFF to at
most T_ON, of the same command after their own clamp; on and off. -/
def Obligations.ValuesBroughtWithinRange : Prop :=
  (∀ lo hi v : Nat, lo ≤ hi →
    clampTo lo hi v = if v < lo then lo else if hi < v then hi else v)
  ∧ (∀ v, clampRate v ∈ [250, 500, 1000] ∧ ∀ r ∈ [250, 500, 1000],
      ((clampRate v : Int) - v).natAbs < ((r : Int) - v).natAbs
        ∨ (((clampRate v : Int) - v).natAbs = ((r : Int) - v).natAbs ∧ clampRate v ≤ r))
  ∧ (∀ v, clampTickLen v ∈ [1, 2, 4, 8, 16] ∧ ∀ r ∈ [1, 2, 4, 8, 16],
      ((clampTickLen v : Int) - v).natAbs < ((r : Int) - v).natAbs
        ∨ (((clampTickLen v : Int) - v).natAbs = ((r : Int) - v).natAbs ∧ clampTickLen v ≤ r))
  ∧ ∀ (p : Params) (v : List Nat), ParamsInRange p →
      (∀ group, ParamsInRange (p.store group v))
      ∧ p.store 0 v = { p with lane :=
          let sta := clampTo 1 8 (v.getD 3 0)
          let lta := min 16 (v.getD 4 0)
          { sampleRate := clampRate (v.getD 0 0), tickLen := clampTickLen (v.getD 1 0), dcShift := clampTo 6 14 (v.getD 2 0)
            staShift := sta, ltaShift := if lta < sta + 2 then sta + 2 else lta, ltaFloor := clampTo 1 65535 (v.getD 5 0)
            freeze := clampTo 256 65535 (v.getD 6 0), admitCount := clampTo 1 63 (v.getD 7 0)
            muteCount := clampTo 1 15 (v.getD 8 0), clipLimit := clampTo 0 16 (v.getD 9 0)
            holdoverLimit := clampTo 0 65535 (v.getD 10 0), maxGap := clampTo 0 4096 (v.getD 11 0) } }
      ∧ p.store 1 v = { p with timers :=
          { laneTimeout := clampTo 50 10000 (v.getD 0 0), lineSilence := clampTo 100 60000 (v.getD 1 0) } }
      ∧ p.store 2 v = { p with scan :=
          { grace := clampTo 0 255 (v.getD 0 0), lagAllowance := clampTo 64 1024 (v.getD 1 0)
            minWeight := clampTo 1 2880 (v.getD 2 0) } }
      ∧ p.store 3 v = { p with detect :=
          let tOn := clampTo 256 65535 (v.getD 0 0)
          let tOff := clampTo 256 65535 (v.getD 1 0)
          { tOn := tOn, tOff := if tOn < tOff then tOn else tOff, coherence := clampTo 16 255 (v.getD 2 0)
            kOn := clampTo 1 15 (v.getD 3 0), qOff := clampTo 1 63 (v.getD 4 0), maxDuration := clampTo 16 1024 (v.getD 5 0)
            holdoff := clampTo 0 1023 (v.getD 6 0), vetoLimit := clampTo 0 1024 (v.getD 7 0) } }
      ∧ p.store 4 v = { p with capture :=
          { enable := v.getD 0 0 != 0, snipLanes := clampTo 1 8 (v.getD 1 0), preSamples := clampTo 0 1023 (v.getD 2 0)
            postSamples := clampTo 1 2047 (v.getD 3 0), captureWait := clampTo 100 10000 (v.getD 4 0) } }
      ∧ p.store 5 v = { p with faultCapture := v.getD 0 0 != 0 }

/-- CLEAR NOTICES and SET NOTICE MASK (R170 to R172): bits 9 to 15 are ignored; a notice that is due is cancelled when no flag is
left both set and enabled; an enable turned on whose flag is set makes a notice due. A cause sets its flag and no other; a flag
that was clear and is enabled makes a notice due, and one that was set changes nothing. -/
def Obligations.NoticeFlagsKept : Prop :=
  (∀ (s : State) (c : Held) (rest : List Held), c.params.length = 2 →
    let set := BitVec.ofNat 9 (c.field 0 2)
    let flags := s.notice.flags &&& ~~~set
    (Begins s 0x49 c rest → exec .clearNotices s = .next (replied .ok (encNat 2 flags.toNat) c rest
      (s.setNotice { s.notice with flags := flags
                                   due := s.notice.due && flags &&& s.notice.enables != 0 })))
    ∧ (Begins s 0x4A c rest → exec .setNoticeMask s = .next (replied .ok (encNat 2 set.toNat) c rest
        (s.setNotice
          { s.notice with
            enables := set
            due := (s.notice.due || set &&& ~~~s.notice.enables &&& s.notice.flags != 0)
              && s.notice.flags &&& set != 0 }))))
  ∧ (∀ (f : Flag) (s : State),
    setFlag f s = s.setNotice
      { s.notice with
        flags := s.notice.flags ||| f.mask
        due := s.notice.due || (s.notice.flags &&& f.mask == 0 && s.notice.enables &&& f.mask != 0) })

/-- CLEAR FAULT while not FROZEN: NOT_READY when no fault is held; else the fault record is emptied, the reply carries it as
it stood, and the FAULT flag and the second-fault record stay (R174; the layout of its place, assumption 21). -/
def Obligations.ClearFaultClears : Prop :=
  ∀ (s : State) (c : Held) (rest : List Held), Begins s 0x51 c rest → c.params = [] → s.notice.frozen = false →
    (s.notice.faultRecord = none → exec .clearFault s = .next (replied .notReady [] c rest s))
    ∧ ∀ r, s.notice.faultRecord = some r → exec .clearFault s = .next (replied .ok
        (encNat 1 r.place.kindCode ++ encNat 1 r.activity.code ++ encPlace (some r.place) ++ encOpt 6 r.cursor
          ++ encNat 1 r.detector.code ++ encNat 1 r.outcome.code) c rest
        (s.setNotice { s.notice with faultRecord := none }))

/-- Taking a fault (R173, R175): a first fault fills the fault record with the cursor, the detector state and its outcome, and
freezes the engine only with FAULT_CAPTURE off; a fault met while one is held fills the second-fault record and freezes the
engine; each sets FAULT. A frozen engine takes none. As the engine becomes FROZEN the scan stops with its tick scan abandoned, the
Lane Tracker drops its work (assumption 10), every unsettled record is ABORTED, which sets EVENT_READY, and the extent of the
record in capture is freed, the write position moved back over it (R124, R132). A close in progress completes in that same step:
its record is appended ABORTED, with no entry of a plan (assumption 13), and the Detector stands as after a close (R108 to R110,
R114, R115); with no close in progress, and where the close's own planning met the fault, the Detector stays, and the close ends
as O47 states. A SET LANE, a validation, or a CLEAR SCAN whose close has completed is answered FROZEN (R4, R57, R71); any other
command goes on. -/
def Obligations.FaultsTaken : Prop :=
  ∀ (activity : Activity) (place : FaultPlace) (s : State),
    let t := takeFault activity place s
    let first : FaultOutcome → FaultRecord := fun o =>
      { activity := activity, place := place, cursor := s.scan.cursor, detector := s.det.state, outcome := o }
    let freezes := s.notice.frozen = false ∧ (s.notice.faultRecord.isSome = true ∨ s.params.faultCapture = false)
    let noClose := activity = .planning ∨ s.det.closing = none
    let aborted := s.queue.map fun r =>
      if r.status = .waiting ∨ r.status = .capturing then
        { r with status := .aborted, plan := r.plan.map fun e => { e with extentOffset := none } }
      else r
    let freed := ((s.queue.filter fun r => r.status == .capturing).map fun r => (r.plan.map PlanEntry.count).sum).sum
    let ended := (∃ x, s.cmd.executing = some (.laneChange x)) ∨ (∃ bank, s.cmd.executing = some (.validating bank))
      ∨ (s.cmd.executing = some .clearScan ∧ (activity ≠ .planning ∨ s.det.closing = none))
    (s.notice.frozen = true → t = s)
    ∧ (s.notice.frozen = false → t.notice.isSet .fault = true ∧ t.banks = s.banks ∧ t.params = s.params
        ∧ t.tracks = s.tracks ∧ t.rings = s.rings)
    ∧ (s.notice.frozen = false → s.notice.faultRecord = none → s.params.faultCapture = true →
        t.notice.faultRecord = some (first .continued) ∧ t.notice.frozen = false ∧ t.scan = s.scan ∧ t.det = s.det
          ∧ t.queue = s.queue ∧ t.store = s.store ∧ t.capture = s.capture ∧ t.tracker = s.tracker ∧ t.cmd = s.cmd
          ∧ t.line = s.line)
    ∧ (s.notice.frozen = false → s.notice.faultRecord = none → s.params.faultCapture = false →
        t.notice.faultRecord = some (first .frozen) ∧ t.notice.secondFault = s.notice.secondFault)
    ∧ (∀ r, s.notice.frozen = false → s.notice.faultRecord = some r → t.notice.faultRecord = some r
        ∧ t.notice.secondFault = some { activity := activity, place := place })
    ∧ (freezes → t.notice.frozen = true ∧ t.scan = { s.scan with state := .frozen, tick := none }
        ∧ t.tracker = { s.tracker with inbox := [], blocks := [] } ∧ t.capture = { active := none, waitTimer := none }
        ∧ t.store = { s.store with writePos := (s.store.writePos + 65536 - freed % 65536) % 65536
                                   freeWords := s.store.freeWords + freed }
        ∧ ((∃ r ∈ s.queue, r.status = .waiting ∨ r.status = .capturing) → t.notice.isSet .eventReady = true))
    ∧ (freezes → noClose → t.det = s.det ∧ t.queue = aborted)
    ∧ (∀ c run, freezes → activity ≠ .planning → s.det.closing = some c → s.det.running = some run →
        t.notice.isSet .eventReady = true
        ∧ t.det =
          { s.det with
            state := if 0 < c.detect.holdoff then .holdoff else .quiet, holdoff := c.detect.holdoff, running := none
            closing := none, eventsClosed := satAdd s.det.eventsClosed 1, serial := (s.det.serial + 1) % 65536 }
        ∧ t.queue = aborted ++
          [{ serial := s.det.serial, bank := run.maximum.bank, bankTag := run.maximum.bankTag, onsetTick := run.onsetTick
             originTick := run.maximum.origin, closeTick := c.closeTick, duration := c.closeTick - run.onsetTick + 1
             peakVoxel := run.maximum.peakVoxel, peak := run.maximum.peak, mean := run.maximum.mean
             contributors := run.maximum.pairs.length, vetoCount := run.vetoCount, closeReason := c.reason
             contaminated := decide (c.detect.vetoLimit < run.vetoCount), overflowFollows := false, status := .aborted
             plan := [], closeTime := s.now }])
    ∧ (freezes → (¬ended → t.cmd = s.cmd ∧ t.line = s.line)
        ∧ (ended → t.cmd = (answer .frozen [] s).cmd ∧ t.line = (answer .frozen [] s).line)
        ∧ (∀ c rest, ended → s.cmd.held = c :: rest → OwnRoom s → t.cmd = { held := rest, executing := none }
            ∧ t.line = { s.line with own := s.line.own ++
                [ownFrame 0x31 (encNat 1 s.line.source ++ [c.tag, c.code] ++ encNat 1 5)] }))

/-! ## The Lane Map and the lanes -/

/-- LOAD LANE MAP whose count and length agree (R2): BUSY while the scan is not IDLE; BAD_REQUEST for a field out of range or two
entries of one lane or one station channel; else the map is replaced as a whole, every track and ring is cleared, and line time,
the line-silence timer and the cut-offs stay, and the reply is OK. LANE_CHANGE is set when the new map has an entry (R8), and the
wait test follows, with the lanes of the new map (R126). That a new lane record has no taken filter values is the model's choice
(assumption 27). -/
def Obligations.LoadLaneMapReplaces : Prop :=
  ∀ (s : State) (c : Held) (rest : List Held), Begins s 0x10 c rest → loadLaneMapFits c = true → s.notice.frozen = false →
    let entries := mapEntries c
    let accepted := entries.all mapEntryFits = true ∧ mapDistinct entries = true
    (s.scan.state ≠ .idle → exec .loadLaneMap s = .next (replied .busy [] c rest s))
    ∧ (s.scan.state = .idle → ¬accepted → exec .loadLaneMap s = .next (replied .badRequest [] c rest s))
    ∧ (s.scan.state = .idle → accepted → ∃ t, exec .loadLaneMap s = .next t
        ∧ t.cmd = { held := rest, executing := none }
        ∧ t.line = s.line.withOwn (ownFrame 0x31 (encNat 1 s.line.source ++ [c.tag, c.code, 0]))
        ∧ t.scan = s.scan ∧ t.det = s.det ∧ t.banks = s.banks
        ∧ t.params = s.params ∧ t.tracks = [] ∧ t.rings = [] ∧ t.tracker.lineTime = s.tracker.lineTime
        ∧ t.tracker.silenceTimer = s.tracker.silenceTimer
        ∧ (entries ≠ [] → t.notice.isSet .laneChange = true) ∧ WaitTested t s.captures t.captures
        ∧ (∀ lane, (∀ x ∈ entries, x.1 ≠ lane) → laneOf t lane = none)
        ∧ ∀ x ∈ entries, laneOf t x.1 = some
            { entry := x.2.1
              record :=
                { state := if x.2.1.included then .absent else .excluded, expectedTag := none, completeThrough := none
                  goodRun := 0, badRun := 0, warmup := 0, weightInUse := x.2.1.weight, gainInUse := x.2.1.gainShift
                  timer := none, changed := true, filter := none, taken := none
                  counters :=
                    { blocksAccepted := 0, staleFrames := 0, gaps := 0, gapSamples := 0, clippedSamples := 0, lateCells := 0
                      badBlocks := 0 } } })

/-- SET LANE (R3, R4): BAD_REQUEST above lane 191, NOT_READY for an unmapped lane; a WEIGHT above 15 and a GAIN_SHIFT above 8
are clamped; an INCLUDED that stays writes the two values into the entry at once; one that changes waits while a tick scan is in
flight. -/
def Obligations.SetLaneForms : Prop :=
  ∀ (s : State) (c : Held) (rest : List Held), Begins s 0x11 c rest → c.params.length = 4 → s.notice.frozen = false →
    let lane := c.byte 0
    let weight := min 15 (c.byte 1)
    let gain := min 8 (c.byte 2)
    let included := c.byte 3 != 0
    let clamped := decide (15 < c.byte 1) || decide (8 < c.byte 2)
    (192 ≤ lane → exec .setLane s = .next (replied .badRequest [] c rest s))
    ∧ (lane < 192 → laneOf s lane = none → exec .setLane s = .next (replied .notReady [] c rest s))
    ∧ (∀ l, lane < 192 → laneOf s lane = some l → l.entry.included = included →
        exec .setLane s = .next (replied (if clamped then .clamped else .ok) [] c rest (s.setTracker
          { s.tracker with lanes := Memory.modify s.tracker.lanes lane fun x =>
              { x with entry := { x.entry with weight := weight, gainShift := gain } } })))
    ∧ (∀ l, lane < 192 → laneOf s lane = some l → l.entry.included ≠ included → s.scan.tick.isSome = true →
        exec .setLane s = .next (waiting
          (.laneChange { lane := lane, weight := weight, gainShift := gain, included := included, clamped := clamped })
          c rest s))

/-- A SET LANE that changes INCLUDED and does not wait (R4, R7, R8): an exclusion clears the lane's record, track and ring and
keeps the cut-offs; an inclusion makes it ABSENT with the new weight and gain in use. Either marks the lane and sets LANE_CHANGE;
no other lane is touched, and the reply is placed, OK, or CLAMPED where a value was clamped (R3). The wait test follows where the
candidate's plan names the lane (R126), and the fall-behind test while no boundary waits (R74, R86; assumption 12); on its jump
the Detector is told OVERRUN. That an excluded lane keeps its taken filter values is the model's choice (assumption 27). -/
def Obligations.InclusionChanges : Prop :=
  ∀ (s : State) (c : Held) (rest : List Held) (l : Lane), Begins s 0x11 c rest → c.params.length = 4 →
    s.notice.frozen = false → c.byte 0 < 192 → laneOf s (c.byte 0) = some l → s.scan.tick = none →
    let weight := min 15 (c.byte 1)
    let gain := min 8 (c.byte 2)
    let included := c.byte 3 != 0
    let clamped := decide (15 < c.byte 1) || decide (8 < c.byte 2)
    let v := s.scan.inUse.getD s.params.scan
    let tests := (s.scan.state = .running ∨ s.scan.state = .halting)
      ∧ ∀ c, s.det.closing = some c → c.boundary = false
    l.entry.included ≠ included → ∃ t q, exec .setLane s = .next t
      ∧ LaneTested t (c.byte 0) s.captures { t.captures with queue := q }
      ∧ (∀ x k, tests → s.scan.cursor = some x → s.tracker.lineTime = some k →
          x + activeDmax s + v.grace + v.lagAllowance < k →
          t.scan = { s.scan with cursor := some (k - activeDmax s - v.grace)
                                 skippedTicks := satAdd s.scan.skippedTicks (k - activeDmax s - v.grace - x) }
            ∧ t.notice.isSet .scanOverrun = true ∧ t.det = (takeOverrun s).det
            ∧ t.queue = (takeOverrun (s.setQueue q)).queue)
      ∧ (¬tests ∨ s.scan.cursor = none ∨ s.tracker.lineTime = none
            ∨ (∃ x k, s.scan.cursor = some x ∧ s.tracker.lineTime = some k
                ∧ k ≤ x + activeDmax s + v.grace + v.lagAllowance) →
          t.scan = s.scan ∧ t.det = s.det ∧ t.queue = q)
      ∧ t.cmd = { held := rest, executing := none }
      ∧ t.line = s.line.withOwn
          (ownFrame 0x31 (encNat 1 s.line.source ++ [c.tag, c.code] ++ [if clamped then 1 else 0]))
      ∧ LaneChangeApplied
          { lane := c.byte 0, weight := weight, gainShift := gain, included := included, clamped := clamped } l s t
      ∧ t.scan.cutoffs = s.scan.cutoffs ∧ t.banks = s.banks ∧ t.params = s.params
      ∧ t.tracker.lineTime = s.tracker.lineTime

/-- READ LANE (R5): BAD_REQUEST above lane 191, NOT_READY for an unmapped lane; else the lane's fields, the clear option setting
its seven counters to 0 after their values have been taken. READ LANE CHANGES (R6) returns the first 32 marked lanes in ascending
order with their states and whether more remain, and clears the marks of the lanes it returns and no others; that the list goes
without a count is the model's reading (assumption 22). -/
def Obligations.LaneReads : Prop :=
  (∀ (s : State) (c : Held) (rest : List Held), Begins s 0x12 c rest → c.params.length = 2 →
    (192 ≤ c.byte 0 → exec .readLane s = .next (replied .badRequest [] c rest s))
    ∧ (c.byte 0 < 192 → laneOf s (c.byte 0) = none → exec .readLane s = .next (replied .notReady [] c rest s))
    ∧ ∀ l, c.byte 0 < 192 → laneOf s (c.byte 0) = some l →
        let r := l.record
        let count := r.counters
        let fields := encNat 1 (c.byte 0) ++ encNat 1 l.entry.station ++ encNat 1 l.entry.channel ++ encNat 1 l.entry.weight
          ++ encNat 1 l.entry.gainShift ++ encBool l.entry.included ++ encNat 1 r.weightInUse ++ encNat 1 r.gainInUse
          ++ encNat 1 r.state.code ++ encOpt 6 r.expectedTag ++ encOpt 6 r.completeThrough ++ encNat 1 r.goodRun
          ++ encNat 1 r.badRun ++ encNat 4 r.warmup ++ encBool r.timer.isSome ++ encBool r.changed
          ++ ([count.blocksAccepted, count.staleFrames, count.gaps, count.gapSamples, count.clippedSamples, count.lateCells,
              count.badBlocks].map (encNat 4)).flatten
          ++ encOpt 6 (ringOf s (c.byte 0)).newest ++ encOpt 6 (Memory.find s.scan.cutoffs (c.byte 0))
          ++ encOptInt 4 (r.filter.map Filter.m) ++ encOptInt 4 (r.filter.map Filter.s) ++ encOptInt 4 (r.filter.map Filter.l)
        (c.byte 1 = 0 → exec .readLane s = .next (replied .ok fields c rest s))
        ∧ (c.byte 1 ≠ 0 → exec .readLane s = .next (replied .ok fields c rest (s.setTracker
            { s.tracker with lanes := Memory.modify s.tracker.lanes (c.byte 0) fun x =>
                { x with record := { x.record with counters := LaneCounters.zero } } }))))
  ∧ (∀ (s : State) (c : Held) (rest : List Held), Begins s 0x13 c rest → c.params = [] →
    Memory.rising s.tracker.lanes = true →
    let marked := s.tracker.lanes.filter fun e => e.2.record.changed
    exec .readLaneChanges s = .next (replied .ok
      (((marked.take 32).map fun e => encNat 1 e.1 ++ encNat 1 e.2.record.state.code).flatten
        ++ encBool (32 < marked.length)) c rest
      (s.setTracker
        { s.tracker with lanes := s.tracker.lanes.map fun e =>
            if e.1 ∈ (marked.take 32).map Prod.fst then (e.1, { e.2 with record := { e.2.record with changed := false } })
            else e })))

/-- The oldest SAMPLE frame handed to the Lane Tracker (R9, R10, R12): one that fails a check of R10 counts once in FORMAT_DROPS
and serves nothing; else each lane it serves counts a stale block or receives its block. A selected block that has become stale is
counted and discarded, and one whose lane no longer serves it is discarded (assumption 9). With no frame, no block, or the tracker
standing still, nothing happens (assumption 1). -/
def Obligations.FramesServeLanes : Prop :=
  (∀ s : State, s.resetHeld = false →
    (s.tracker.inbox = [] ∨ s.notice.frozen = true ∨ s.cmd.executing = some .hotStart →
      exec .sampleFrameProcessing s = .next s)
    ∧ ∀ f rest, s.tracker.inbox = f :: rest → s.notice.frozen = false → s.cmd.executing ≠ some .hotStart →
      let fits := frameRate f = some s.params.lane.sampleRate ∧ frameTag f % 16 = 0 ∧ 1 ≤ frameChannels f
        ∧ frameChannels f ≤ 3 ∧ f.length = 20 + 48 * frameChannels f
      let served := fun l : Lane => l.entry.station = byteAt f 4 ∧ l.record.state ≠ .excluded
        ∧ l.entry.channel ≤ frameChannels f
      let stale := fun l : Lane => ∃ e, l.record.expectedTag = some e ∧ frameTag f < e
      (¬fits → exec .sampleFrameProcessing s = .next ((s.setTracker { s.tracker with inbox := rest }).setLine
        { s.line with upPort := { s.line.upPort with formatDrops := satAdd s.line.upPort.formatDrops 1 } }))
      ∧ (fits → ∃ t, exec .sampleFrameProcessing s = .next t
          ∧ t = s.setTracker { t.tracker with lineTime := s.tracker.lineTime, silenceTimer := s.tracker.silenceTimer }
          ∧ t.tracker.inbox = rest
          ∧ (∀ lane, laneOf s lane = none → laneOf t lane = none)
          ∧ (∀ lane l, laneOf s lane = some l → served l ∧ stale l → laneOf t lane = some
              { l with record := { l.record with counters :=
                  { l.record.counters with staleFrames := satAdd l.record.counters.staleFrames 1 } } })
          ∧ (∀ lane l, laneOf s lane = some l → ¬(served l ∧ stale l) → laneOf t lane = some l)
          ∧ ∃ new, t.tracker.blocks = s.tracker.blocks ++ new
              ∧ ∀ b, b ∈ new ↔ ∃ e ∈ s.tracker.lanes, served e.2 ∧ ¬stale e.2 ∧ b = frameBlock f e.1 e.2.entry))
  ∧ (∀ (s : State) (lane : Nat), s.resetHeld = false →
    (s.notice.frozen = true ∨ s.cmd.executing = some .hotStart
        ∨ takeFirst (fun x => x.lane == lane) s.tracker.blocks = none → exec (.acceptedBlock lane) s = .next s)
    ∧ ∀ b others, s.notice.frozen = false → s.cmd.executing ≠ some .hotStart →
      takeFirst (fun x => x.lane == lane) s.tracker.blocks = some (b, others) →
      (laneOf s lane = none → exec (.acceptedBlock lane) s = .next (s.setTracker { s.tracker with blocks := others }))
      ∧ ∀ l, laneOf s lane = some l →
        (l.entry.station ≠ b.station ∨ l.entry.channel ≠ b.channel ∨ l.record.state = .excluded →
          exec (.acceptedBlock lane) s = .next (s.setTracker { s.tracker with blocks := others }))
        ∧ ∀ e, l.entry.station = b.station → l.entry.channel = b.channel → l.record.state ≠ .excluded →
          l.record.expectedTag = some e → b.tag < e →
          exec (.acceptedBlock lane) s = .next (s.setTracker
            { s.tracker with
              blocks := others
              lanes := Memory.modify s.tracker.lanes lane fun x =>
                { x with record := { x.record with counters :=
                    { x.record.counters with staleFrames := satAdd x.record.counters.staleFrames 1 } } } }))

/-- An accepted block of a lane (R12 to R14, R21, R23, R26, R27): the lane's position, its weight and gain in use, its timer,
its counts of blocks and gaps and its newest ring index; line time and the line-silence timer. The lane's record, ring and track
are those of `handleBlock`, whose every part O30 states. The fall-behind test follows while no tick scan is in flight (R74, R86),
but for a close that holds its tick's boundary back (assumption 12); on its jump the Detector is told OVERRUN. The wait test then
follows where the candidate's plan names the lane (R126). The other lanes, the banks, the parameters and the line stay. -/
def Obligations.AcceptedBlockHandled : Prop :=
  ∀ (s : State) (lane : Nat) (b : Block) (others : List Block) (l : Lane), s.resetHeld = false → s.notice.frozen = false →
    s.cmd.executing ≠ some .hotStart → takeFirst (fun x => x.lane == lane) s.tracker.blocks = some (b, others) →
    laneOf s lane = some l → l.entry.station = b.station → l.entry.channel = b.channel → l.record.state ≠ .excluded →
    (∀ e, l.record.expectedTag = some e → e ≤ b.tag) → b.samples.length = 16 → b.tag + 16 < 2 ^ 48 →
    let gap := match l.record.expectedTag with | none => 0 | some e => b.tag - e
    let last := (b.tag + 15) / s.params.lane.tickLen
    let o := handleBlock s.params.lane (s.now + s.params.timers.laneTimeout) (Memory.find s.scan.cutoffs lane) l.entry l.record
      (ringOf s lane) (trackOf s lane) b
    let now := match s.tracker.lineTime with | none => last | some k => max k last
    let v := s.scan.inUse.getD s.params.scan
    let tests := (s.scan.state = .running ∨ s.scan.state = .halting) ∧ s.scan.tick = none
      ∧ ∀ c, s.det.closing = some c → c.boundary = false
    ∃ t l' q, exec (.acceptedBlock lane) s = .next t ∧ laneOf t lane = some l'
      ∧ LaneTested t lane { s.captures with queue := q } t.captures
      ∧ l'.entry = l.entry ∧ l'.record = o.record ∧ ringOf t lane = o.ring ∧ trackOf t lane = o.track
      ∧ (o.stateChanged = true → t.notice.isSet .laneChange = true)
      ∧ (∀ x, tests → s.scan.cursor = some x → x + activeDmax s + v.grace + v.lagAllowance < now →
          t.scan.cursor = some (now - activeDmax s - v.grace) ∧ t.notice.isSet .scanOverrun = true
            ∧ t.scan.skippedTicks = satAdd s.scan.skippedTicks (now - activeDmax s - v.grace - x)
            ∧ t.det = (takeOverrun s).det ∧ q = (takeOverrun s).queue)
      ∧ (¬tests ∨ s.scan.cursor = none
            ∨ (∃ x, s.scan.cursor = some x ∧ now ≤ x + activeDmax s + v.grace + v.lagAllowance) →
          t.scan = s.scan ∧ t.det = s.det ∧ q = s.queue)
      ∧ l'.record.expectedTag = some (b.tag + 16) ∧ l'.record.completeThrough = some last
      ∧ l'.record.weightInUse = l.entry.weight ∧ l'.record.gainInUse = l.entry.gainShift
      ∧ l'.record.timer = some (s.now + s.params.timers.laneTimeout)
      ∧ l'.record.counters.blocksAccepted = satAdd l.record.counters.blocksAccepted 1
      ∧ l'.record.counters.staleFrames = l.record.counters.staleFrames
      ∧ l'.record.counters.gaps = (if gap = 0 then l.record.counters.gaps else satAdd l.record.counters.gaps 1)
      ∧ l'.record.counters.gapSamples =
          (if gap = 0 then l.record.counters.gapSamples else satAdd l.record.counters.gapSamples gap)
      ∧ (ringOf t lane).newest = some (b.tag + 15)
      ∧ (∀ k, k < 16 → (ringOf t lane).readSample (b.tag + k) = .sample (clampSample (b.samples.getD k 0)))
      ∧ t.tracker.lineTime = some now
      ∧ t.tracker.silenceTimer = some (s.now + s.params.timers.lineSilence)
      ∧ t.tracker.blocks = others ∧ t.tracker.inbox = s.tracker.inbox
      ∧ (∀ other, other ≠ lane → laneOf t other = laneOf s other ∧ ringOf t other = ringOf s other
          ∧ trackOf t other = trackOf s other)
      ∧ t.params = s.params ∧ t.banks = s.banks ∧ t.line = s.line ∧ t.cmd = s.cmd ∧ t.now = s.now
      ∧ t.scan.cutoffs = s.scan.cutoffs

/-- Steps 1 to 7 of an accepted block. The classification, the run counts and the transitions (R15 to R20), by the state in which
it is filtered: `st` is ACQUIRING when the block begins or restarts acquisition, else the lane's state. The filter begins from the
block's first sample then, and is held over a gap else (R31, R37). The ring answers the block's samples, the indices of the gap
or before a first block missing, a history kept only forward in time (R24, R25). The track answers the cells above the cut-off,
the late ones and the ticks between absent, and counts the late ones; it is cleared before a first block that is not above its
newest tick (R38, R40, R41, R43). -/
def Obligations.BlocksMoveLanes : Prop :=
  ∀ (p : LaneParams) (timerAt : Nat) (cutoff : Option Nat) (e : LaneEntry) (r : LaneRecord) (ring : Ring) (track : Track)
    (b : Block), r.state ≠ .excluded → (r.state = .absent → r.expectedTag = none) →
    let gap := match r.expectedTag with | none => 0 | some x => b.tag - x
    let restart := decide (r.expectedTag = none ∨ p.maxGap < gap)
    let st := if restart then LaneState.acquiring else r.state
    let xs := (b.samples.map clampSample).map BitVec.toInt
    let cf := cfBlock (takenValues p) st e.gainShift (blockFilter r restart xs) xs
    let bad := decide ((b.quality ≠ 0 ∧ ¬(b.quality = 1 ∧ b.holdoverAge ≤ p.holdoverLimit))
      ∨ p.clipLimit < b.clips + cf.saturations ∨ 0 < gap)
    let good1 := if bad then 0 else min 63 ((if restart then 0 else r.goodRun) + 1)
    let bad1 := if st = .admitted then (if bad then min 15 (r.badRun + 1) else 0) else if restart then 0 else r.badRun
    let warm1 := min 65536 ((if restart then 0 else r.warmup) + 16)
    let admits := (st = .acquiring ∧ p.admitCount ≤ good1 ∧ 2 ^ p.ltaShift ≤ warm1)
      ∨ (st = .muted ∧ p.admitCount ≤ good1)
    let mutes := st = .admitted ∧ p.muteCount ≤ bad1
    let o := handleBlock p timerAt cutoff e r ring track b
    (o.record.goodRun = good1 ∧ o.record.warmup = warm1 ∧ o.record.filter = some cf.filter
    ∧ o.record.counters.badBlocks = (if bad then satAdd r.counters.badBlocks 1 else r.counters.badBlocks)
    ∧ o.record.counters.clippedSamples = satAdd r.counters.clippedSamples cf.saturations
    ∧ (admits → o.record.state = .admitted ∧ o.record.badRun = 0)
    ∧ (¬admits → o.record.badRun = bad1)
    ∧ (mutes → o.record.state = .muted)
    ∧ (¬admits → ¬mutes → o.record.state = st)
    ∧ (o.record.changed = true ↔ r.changed = true ∨ st ≠ r.state ∨ o.record.state ≠ st)
    ∧ (o.stateChanged = true ↔ st ≠ r.state ∨ o.record.state ≠ st)
    ∧ (restart = true → blockFilter r restart xs = { m := xs.headD 0, s := 0, l := 0 })
    ∧ (∀ f, restart = false → r.filter = some f → blockFilter r restart xs = f))
    ∧ (b.samples.length = 16 → (∀ x, r.expectedTag = some x → x ≤ b.tag) →
        o.ring.newest = some (b.tag + 15)
        ∧ (∀ i < 16, o.ring.readSample (b.tag + i) = .sample (clampSample (b.samples.getD i 0)))
        ∧ (∀ i, b.tag + 15 < i → o.ring.readSample i = .notReceived)
        ∧ (∀ i, i + 8192 ≤ b.tag + 15 → o.ring.readSample i = .older)
        ∧ ∀ i, i < b.tag → b.tag + 15 < i + 8192 →
          (∀ x, r.expectedTag = some x → x ≤ i → o.ring.readSample i = .missing)
          ∧ (∀ n, r.expectedTag = none → ring.newest = some n → n < i ∨ b.tag ≤ n → o.ring.readSample i = .missing)
          ∧ (r.expectedTag = none → ring = Ring.cleared → o.ring.readSample i = .missing)
          ∧ ∀ n, ring.newest = some n → n < b.tag → i ≤ n → (∀ x, r.expectedTag = some x → i < x) →
              o.ring.readSample i = ring.readSample i)
    ∧ (b.samples.length = 16 → p.tickLen ∈ [1, 2, 4, 8, 16] →
        let cells := blockCells p.tickLen cf.values
        let k0 := b.tag / p.tickLen
        let late := fun i => cutoff.any fun u => k0 + i ≤ u
        let before := if r.expectedTag = none ∧ (∃ n, track.newest = some n ∧ k0 ≤ n) then Track.cleared else track
        cells.length = 16 / p.tickLen
        ∧ o.record.counters.lateCells = satAdd r.counters.lateCells ((List.range cells.length).filter late).length
        ∧ o.track.newest = some (k0 + cells.length - 1)
        ∧ ((∀ n, before.newest = some n → n < k0) →
          (∀ i < cells.length, o.track.readCell (k0 + i) = if late i then .absent else .value (cells.getD i 0))
          ∧ (∀ u, k0 + cells.length ≤ u → o.track.readCell u = .absent)
          ∧ (∀ u, before = Track.cleared → u < k0 → o.track.readCell u = .absent)
          ∧ ∀ n, before.newest = some n →
            (∀ u, n < u → u < k0 → o.track.readCell u = .absent)
            ∧ ∀ u, u ≤ n → o.track.readCell u =
                if k0 + cells.length ≤ u + 4096 then before.readCell u else .absent))

/-- One sample through the CF unit: DC removal (R32), scale and saturation (R33), energy and STA (R34), the CF value (R35) and
the LTA with its freeze (R36), with the bounds the rules give; `/` of integers by a positive divisor is floor division. The
samples of a block pass one after another, each from the filter the one before it left (R30); the cell of each tick of a block is
the largest of its CF values (R38). -/
def Obligations.CharacteristicFunction : Prop :=
  (∀ (v : FilterValues) (st : LaneState) (g : Nat) (f : Filter) (x : Int), 1 ≤ v.ltaFloor → 0 ≤ f.s → 0 ≤ f.l →
    let y := x - f.m
    let q := y / 2 ^ g
    let a := if 32767 < q then 32767 else if q < -32768 then -32768 else q
    let e := a * a
    let s' := f.s + (e - f.s) / 2 ^ v.staShift
    let divisor := if f.l < v.ltaFloor then (v.ltaFloor : Int) else f.l
    let c := if 65535 < 256 * s' / divisor then 65535 else 256 * s' / divisor
    let held := (st = .admitted ∨ st = .muted) ∧ (v.freeze : Int) ≤ c
    let o := cfSample v st g f x
    o.1.m = f.m + y / 2 ^ v.dcShift ∧ o.1.s = s' ∧ (o.2.1 : Int) = c
    ∧ (x.natAbs ≤ 8388607 → f.m.natAbs ≤ 8388607 → y.natAbs ≤ 16777214)
    ∧ (0 ≤ e ∧ e ≤ 1073741824 ∧ min e f.s ≤ s' ∧ s' ≤ max e f.s ∧ 0 ≤ c ∧ c ≤ 65535)
    ∧ (held → o.1.l = f.l) ∧ (¬held → o.1.l = f.l + (e - f.l) / 2 ^ v.ltaShift)
    ∧ (o.2.2 = true ↔ q < -32768 ∨ 32767 < q))
  ∧ (∀ (v : FilterValues) (st : LaneState) (g : Nat) (f : Filter) (xs : List Int), ∃ fs : Nat → Filter,
    let o := fun i => cfSample v st g (fs i) (xs.getD i 0)
    fs 0 = f ∧ fs xs.length = (cfBlock v st g f xs).filter ∧ (cfBlock v st g f xs).values.length = xs.length
    ∧ (∀ i < xs.length, fs (i + 1) = (o i).1 ∧ (cfBlock v st g f xs).values.getD i 0 = (o i).2.1)
    ∧ (cfBlock v st g f xs).saturations = ((List.range xs.length).filter fun i => (o i).2.2).length)
  ∧ ∀ (d : Nat) (cs : List Nat), d ∈ [1, 2, 4, 8, 16] → cs.length = 16 →
    (blockCells d cs).length = 16 / d ∧ ∀ i < 16 / d,
      (∀ j < d, cs.getD (d * i + j) 0 ≤ (blockCells d cs).getD i 0)
      ∧ ∃ j < d, (blockCells d cs).getD i 0 = cs.getD (d * i + j) 0

/-- The expiry of a lane timer (R21; the clock, assumption 3): the lane becomes ABSENT with no position, no run counts and no
filter, keeping its counters, weight and gain, and its taken filter values (assumption 27); LANE_CHANGE is set unless it was
ABSENT. The scan's tests follow (R74): the fall-behind test while no tick scan is in flight and no boundary waits (R86; assumption
12), on its jump the Detector is told OVERRUN; and a tick that this lane alone kept from being complete is complete now (R75), so
that TICK_SCAN_BEGIN may begin it (assumption 11). The wait test follows where the candidate's plan names the lane (R126). The
expiry of the line-silence timer (R27, R102): LINE_SILENT is set, and the Detector, when no close is in progress, aborts a
candidate or closes a DECLARED event with reason SILENCE at its last tick: a place is reserved, or with 32 records held the record
is discarded (R106, R107). With no timer running, or the tracker standing still, nothing happens (assumption 1). -/
def Obligations.TimersExpire : Prop :=
  (∀ (s : State) (lane : Nat), s.resetHeld = false →
    (s.notice.frozen = true ∨ s.cmd.executing = some .hotStart ∨ laneOf s lane = none
        ∨ (∃ l, laneOf s lane = some l ∧ l.record.timer = none) → exec (.laneTimerExpiry lane) s = .next s)
    ∧ ∀ l e, s.notice.frozen = false → s.cmd.executing ≠ some .hotStart → laneOf s lane = some l →
      l.record.timer = some e →
      let v := s.scan.inUse.getD s.params.scan
      let tests := (s.scan.state = .running ∨ s.scan.state = .halting) ∧ s.scan.tick = none
        ∧ ∀ c, s.det.closing = some c → c.boundary = false
      ∃ t q, exec (.laneTimerExpiry lane) s = .next t
        ∧ LaneTested t lane { s.captures with queue := q } t.captures
        ∧ laneOf t lane = some
            { l with record :=
                { l.record with
                  state := .absent, changed := l.record.changed || l.record.state != .absent, expectedTag := none
                  completeThrough := none, goodRun := 0, badRun := 0, warmup := 0, timer := none, filter := none } }
        ∧ (l.record.state ≠ .absent → t.notice.isSet .laneChange = true)
        ∧ (∀ other, other ≠ lane → laneOf t other = laneOf s other) ∧ t.tracks = s.tracks ∧ t.rings = s.rings
        ∧ t.tracker.lineTime = s.tracker.lineTime ∧ t.tracker.silenceTimer = s.tracker.silenceTimer
        ∧ t.now = max s.now e ∧ t.line = s.line ∧ t.cmd = s.cmd ∧ t.banks = s.banks ∧ t.params = s.params
        ∧ (∀ x k, tests → s.scan.cursor = some x → s.tracker.lineTime = some k →
            x + activeDmax s + v.grace + v.lagAllowance < k →
            t.scan = { s.scan with cursor := some (k - activeDmax s - v.grace)
                                   skippedTicks := satAdd s.scan.skippedTicks (k - activeDmax s - v.grace - x) }
              ∧ t.notice.isSet .scanOverrun = true ∧ t.det = (takeOverrun s).det ∧ q = (takeOverrun s).queue)
        ∧ (¬tests ∨ s.scan.cursor = none ∨ s.tracker.lineTime = none
              ∨ (∃ x k, s.scan.cursor = some x ∧ s.tracker.lineTime = some k
                  ∧ k ≤ x + activeDmax s + v.grace + v.lagAllowance) →
            t.scan = s.scan ∧ t.det = s.det ∧ q = s.queue)
        ∧ ∀ x, (∀ e' ∈ s.tracker.lanes, e'.1 ≠ lane → e'.2.record.state = .admitted → 0 < e'.2.record.weightInUse →
              ∃ k, e'.2.record.completeThrough = some k ∧ x + activeDmax s ≤ k) → complete t x = true)
  ∧ (∀ s : State, s.resetHeld = false →
    (s.notice.frozen = true ∨ s.cmd.executing = some .hotStart ∨ s.tracker.silenceTimer = none →
      exec .lineSilenceExpiry s = .next s)
    ∧ ∀ e, s.notice.frozen = false → s.cmd.executing ≠ some .hotStart → s.tracker.silenceTimer = some e →
      let d := s.det.inUse.getD s.params.detect
      ∃ t, exec .lineSilenceExpiry s = .next t ∧ t.notice.isSet .lineSilent = true ∧ t.tracker.silenceTimer = none
        ∧ t.tracker.lanes = s.tracker.lanes ∧ t.tracker.lineTime = s.tracker.lineTime ∧ t.now = max s.now e
        ∧ t.scan = s.scan ∧ t.banks = s.banks ∧ t.line = s.line ∧ t.cmd = s.cmd
        ∧ (s.det.state = .quiet ∨ s.det.state = .holdoff ∨ s.det.closing.isSome = true → t.det = s.det ∧ t.queue = s.queue)
        ∧ (s.det.state = .onset → s.det.closing = none → t.queue = s.queue ∧ t.det =
            { s.det with state := .quiet, running := none, abortedOnsets := satAdd s.det.abortedOnsets 1 })
        ∧ ∀ run, s.det.state = .declared → s.det.running = some run → s.det.closing = none →
          (s.queue.length < 32 → t.queue = s.queue ∧ t.det =
            { s.det with closing := some { reason := .silence, closeTick := run.lastTick, capture := s.params.capture
                                           detect := d, boundary := false, overrun := false } })
          ∧ ∀ others last, s.queue = others ++ [last] → others.length = 31 →
            t.queue = others ++ [{ last with overflowFollows := true }] ∧ t.notice.isSet .queueOverflow = true
            ∧ t.det = { s.det with
                state := if 0 < d.holdoff then .holdoff else .quiet, holdoff := d.holdoff, running := none, closing := none
                eventsClosed := satAdd s.det.eventsClosed 1, queueDiscards := satAdd s.det.queueDiscards 1 })

/-! ## The travel-time banks -/

/-- BEGIN BANK LOAD (R50), in every scan state: BAD_REQUEST for a bank code or a voxel count out of range, BUSY for the ACTIVE
bank or a pending target; else the bank is emptied and LOADING. END BANK LOAD (R53): BAD_REQUEST for a bank code out of range,
NOT_READY with reason NOT_LOADING for a bank that is not LOADING; else its validation begins and the command waits for its end. -/
def Obligations.BankLoadsBeginAndEnd : Prop :=
  (∀ (s : State) (c : Held) (rest : List Held), Begins s 0x20 c rest → s.notice.frozen = false →
    (c.params.length ≠ 5 ∨ 1 < c.byte 0 → exec .beginBankLoad s = .next (replied .badRequest [] c rest s))
    ∧ ∀ bank, c.params.length = 5 → bankOfCode (c.byte 0) = some bank →
      (c.field 1 2 = 0 ∨ 4096 < c.field 1 2 → exec .beginBankLoad s = .next (replied .badRequest [] c rest s))
      ∧ (1 ≤ c.field 1 2 → c.field 1 2 ≤ 4096 →
          ((s.banks.get bank).state = .active ∨ s.banks.pendingSwitch = some bank →
            exec .beginBankLoad s = .next (replied .busy [] c rest s))
          ∧ ((s.banks.get bank).state ≠ .active → s.banks.pendingSwitch ≠ some bank →
            exec .beginBankLoad s = .next (replied .ok [] c rest (s.setBanks (s.banks.set bank
              { state := .loading, voxelCount := c.field 1 2, tag := c.field 3 2, dmax := none, check := none
                rows := [] }))))))
  ∧ (∀ (s : State) (c : Held) (rest : List Held), Begins s 0x22 c rest → c.params.length = 1 → s.notice.frozen = false →
    (1 < c.byte 0 → exec .endBankLoad s = .next (replied .badRequest [] c rest s))
    ∧ ∀ bank, bankOfCode (c.byte 0) = some bank →
      ((s.banks.get bank).state ≠ .loading → exec .endBankLoad s = .next (replied .notReady [0] c rest s))
      ∧ ((s.banks.get bank).state = .loading → exec .endBankLoad s = .next (waiting (.validating bank) c rest s)))

/-- LOAD ROWS of one or two rows (R51, R52): its checks in order, nothing written on a refusal; else each row is listed at its
voxel with fresh parity, a delay of 0..1022 as it stands and any other as NONE, CLAMPED when one is above 1023; no other row,
nor the other bank, is touched. -/
def Obligations.LoadRowsForms : Prop :=
  ∀ (s : State) (c : Held) (rest : List Held), Begins s 0x21 c rest → loadRowsFits c = true → s.notice.frozen = false →
    let n := c.byte 3
    let first := c.field 1 2
    let delays := fun i => (List.range 192).map fun l => c.field (4 + 385 * i + 1 + 2 * l) 2
    let flagValue := fun i => c.byte (4 + 385 * i)
    (1 < c.byte 0 → exec .loadRows s = .next (replied .badRequest [] c rest s))
    ∧ ∀ bank, bankOfCode (c.byte 0) = some bank →
      let k := s.banks.get bank
      (k.state ≠ .loading → exec .loadRows s = .next (replied .notReady [] c rest s))
      ∧ (k.state = .loading → k.voxelCount < first + n ∨ (∃ i < n, 3 < flagValue i) →
          exec .loadRows s = .next (replied .badRequest [] c rest s))
      ∧ (k.state = .loading → first + n ≤ k.voxelCount → (∀ i < n, flagValue i ≤ 3) → ∃ rows,
          exec .loadRows s = .next (replied (if ∃ i < n, ∃ d ∈ delays i, 1023 < d then .clamped else .ok) [] c rest
            (s.setBanks (s.banks.set bank { k with rows := rows })))
          ∧ (∀ i < n, Memory.find rows (first + i) = some
              { flags := { enabled := flagValue i % 2 == 1, nuisance := flagValue i / 2 == 1, parityOk := true }
                delays := (delays i).map fun d => { delay := if d ≤ 1022 then some d else none, parityOk := true } })
          ∧ ∀ v, v < first ∨ first + n ≤ v → Memory.find rows v = Memory.find k.rows v)

/-- What the walk of validation finds (R53 to R56): the lowest voxel whose row is not written, or the first entry that fails its
parity check, whichever voxel comes first; else whether a row is ENABLED and not NUISANCE, the largest delay over the ENABLED
rows (0 where there is none), and the CRC-32 register over the rows in order. -/
def Obligations.ValidationWalk : Prop :=
  ∀ k : Bank,
    let clean := fun v => ∃ r, Memory.find k.rows v = some r ∧ r.firstBad = none
    (∀ v, k.validate = .unwritten v ↔
      v < k.voxelCount ∧ Memory.find k.rows v = none ∧ ∀ u < v, clean u)
    ∧ (∀ v e, k.validate = .parity v e ↔
      v < k.voxelCount ∧ (∃ r, Memory.find k.rows v = some r ∧ r.firstBad = some e) ∧ ∀ u < v, clean u)
    ∧ ∀ live dmax reg, k.validate = .finished live dmax reg →
      (∀ u < k.voxelCount, clean u)
      ∧ (live = true ↔ ∃ v < k.voxelCount, ∃ r, Memory.find k.rows v = some r ∧ r.flags.enabled = true
          ∧ r.flags.nuisance = false)
      ∧ (∀ v < k.voxelCount, ∀ r, Memory.find k.rows v = some r → r.flags.enabled = true → ∀ x ∈ r.delays, ∀ d,
          x.delay = some d → d ≤ dmax)
      ∧ (dmax = 0 ∨ ∃ v < k.voxelCount, ∃ r, Memory.find k.rows v = some r ∧ r.flags.enabled = true
          ∧ ∃ x ∈ r.delays, x.delay = some dmax)
      ∧ reg = crc32Update 0xFFFFFFFF (((List.range k.voxelCount).map fun v =>
          ((Memory.find k.rows v).map Row.checkBytes).getD []).flatten)

/-- The end of a validation (R53, R54, R56): each failure is answered NOT_READY with its reason and place and leaves the bank
LOADING, a parity failure being a fault of the validation; the voxel and the entry stand in the reply only where the reason names
them, without a presence byte (assumption 42). Success makes the bank READY with its DMAX and its check, the register inverted.
With no validation in progress the line only settles (assumption 1). -/
def Obligations.ValidationEnds : Prop :=
  (∀ (s : State) (c : Held) (rest : List Held) (bank : BankId), s.resetHeld = false → s.cmd.held = c :: rest →
    s.cmd.executing = some (.validating bank) → OwnRoom s →
    let k := s.banks.get bank
    (∀ v, k.validate = .unwritten v → exec .endOfValidation s = .next (replied .notReady ([1] ++ encNat 2 v) c rest s))
    ∧ (∀ v e, k.validate = .parity v e → exec .endOfValidation s = .next
        (replied .notReady ([2] ++ encNat 2 v ++ encNat 1 e.code) c rest
          (takeFault .validation (.table bank v e) (s.setCmd { s.cmd with executing := none }))))
    ∧ (∀ dmax reg, k.validate = .finished false dmax reg →
        exec .endOfValidation s = .next (replied .notReady [3] c rest s))
    ∧ ∀ dmax reg, k.validate = .finished true dmax reg → exec .endOfValidation s = .next (replied .ok
        (encNat 2 dmax ++ encNat 4 (~~~reg).toNat ++ encNat 2 k.voxelCount ++ encNat 2 k.tag) c rest
        (s.setBanks (s.banks.set bank { k with state := .ready, dmax := some dmax, check := some (~~~reg) }))))
  ∧ ∀ s : State, (∀ bank, s.cmd.executing ≠ some (.validating bank)) → s.resetHeld = false →
      exec .endOfValidation s = .next (settleLine s)

/-- SWITCH BANK (R62, R63) by the scan's and the named bank's state: at once while the scan is IDLE, the bank that was ACTIVE
becoming READY; as a pending switch while it is RUNNING or HALTING, which naming the ACTIVE bank cancels. No flag is set. -/
def Obligations.SwitchBankForms : Prop :=
  ∀ (s : State) (c : Held) (rest : List Held), Begins s 0x23 c rest →
    (c.params.length ≠ 1 → exec .switchBank s = .next (replied .badRequest [] c rest s))
    ∧ (c.params.length = 1 → s.notice.frozen = true → exec .switchBank s = .next (replied .frozen [] c rest s))
    ∧ (c.params.length = 1 → s.notice.frozen = false → 1 < c.byte 0 →
        exec .switchBank s = .next (replied .badRequest [] c rest s))
    ∧ ∀ bank, c.params.length = 1 → s.notice.frozen = false → bankOfCode (c.byte 0) = some bank →
      let k := s.banks.get bank
      (k.state = .empty ∨ k.state = .loading → exec .switchBank s = .next (replied .notReady [] c rest s))
      ∧ (s.scan.state = .idle → k.state = .active → exec .switchBank s = .next (replied .ok [] c rest s))
      ∧ (s.scan.state = .idle → k.state = .ready → s.banks.active = none → exec .switchBank s = .next (replied .ok [] c rest
          (s.setBanks { s.banks.set bank { k with state := .active } with active := some bank, pendingSwitch := none })))
      ∧ (s.scan.state = .idle → k.state = .ready → s.banks.active = some bank.other →
          exec .switchBank s = .next (replied .ok [] c rest (s.setBanks
            { (s.banks.set bank { k with state := .active }).set bank.other
                { s.banks.get bank.other with state := .ready } with active := some bank, pendingSwitch := none })))
      ∧ (s.scan.state = .running ∨ s.scan.state = .halting → k.state = .ready → exec .switchBank s = .next
          (replied .ok [] c rest (s.setBanks { s.banks with pendingSwitch := some bank })))
      ∧ (s.scan.state = .running ∨ s.scan.state = .halting → k.state = .active → exec .switchBank s = .next
          (replied .ok [] c rest (s.setBanks { s.banks with pendingSwitch := none })))

/-- READ BANK (R58) and READ ROW (R59), which change nothing: the bank's header, the count of its written rows and the lowest
voxel not written; a row's flag value and delays, with the number of its entries that fail their parity check and the first of
them, the flag entry before the lanes; NOT_READY for an EMPTY bank or a row not written, BAD_REQUEST for a voxel that does not
exist. What the counts and the two first ones are is said for every bank and row, as are the bytes a row gives to the check of
R55. The model's reading: the 2 bytes of the count of written voxels (assumption 23), and the presence byte of the first failing
entry (assumption 42). -/
def Obligations.BankReads : Prop :=
  (∀ k : Bank, (Memory.rising k.rows = true → k.writtenCount =
      ((List.range k.voxelCount).filter fun v => (Memory.find k.rows v).isSome).length)
    ∧ (∀ v, k.lowestUnwritten k.voxelCount 0 = some v ↔
        v < k.voxelCount ∧ Memory.find k.rows v = none ∧ ∀ u < v, (Memory.find k.rows u).isSome = true)
    ∧ (k.lowestUnwritten k.voxelCount 0 = none ↔ ∀ v < k.voxelCount, (Memory.find k.rows v).isSome = true))
  ∧ (∀ r : Row,
    let fails := fun l => (r.delays.map DelayEntry.parityOk)[l]? = some false
    r.checkBytes = encNat 1 ((if r.flags.enabled then 1 else 0) + (if r.flags.nuisance then 2 else 0))
        ++ (r.delays.map fun d => encNat 2 (d.delay.getD 1023)).flatten
    ∧ r.badCount = (if r.flags.parityOk then 0 else 1) + (r.delays.filter fun d => !d.parityOk).length
    ∧ (r.firstBad = some .flag ↔ r.flags.parityOk = false)
    ∧ (∀ l, r.firstBad = some (.delay l) ↔ r.flags.parityOk = true ∧ fails l ∧ ∀ j < l, ¬fails j)
    ∧ (r.firstBad = none ↔ r.badCount = 0))
  ∧ ∀ (s : State) (c : Held) (rest : List Held),
    (Begins s 0x24 c rest → c.params.length = 1 →
      (1 < c.byte 0 → exec .readBank s = .next (replied .badRequest [] c rest s))
      ∧ ∀ bank, bankOfCode (c.byte 0) = some bank →
        let k := s.banks.get bank
        exec .readBank s = .next (replied .ok
          (encNat 1 k.state.code ++ encNat 2 k.voxelCount ++ encNat 2 k.tag ++ encOpt 2 k.dmax
            ++ encOpt 4 (k.check.map BitVec.toNat) ++ encNat 2 k.writtenCount
            ++ encOpt 2 (k.lowestUnwritten k.voxelCount 0) ++ encBool (s.banks.pendingSwitch == some bank)) c rest s))
    ∧ (Begins s 0x25 c rest → c.params.length = 3 →
        (1 < c.byte 0 → exec .readRow s = .next (replied .badRequest [] c rest s))
        ∧ ∀ bank, bankOfCode (c.byte 0) = some bank →
          let k := s.banks.get bank
          let v := c.field 1 2
          (k.state = .empty → exec .readRow s = .next (replied .notReady [] c rest s))
          ∧ (k.state ≠ .empty → k.voxelCount ≤ v → exec .readRow s = .next (replied .badRequest [] c rest s))
          ∧ (k.state ≠ .empty → v < k.voxelCount → Memory.find k.rows v = none →
              exec .readRow s = .next (replied .notReady [] c rest s))
          ∧ ∀ r, k.state ≠ .empty → v < k.voxelCount → Memory.find k.rows v = some r →
              exec .readRow s = .next (replied .ok
                (encNat 1 r.flags.value ++ (r.delays.map fun d => encNat 2 (d.delay.getD 1023)).flatten
                  ++ encNat 1 r.badCount ++ encOpt 1 (r.firstBad.map RowEntry.code)) c rest s))

/-! ## The stacking scan -/

/-- START SCAN while not FROZEN (R68): BUSY unless the scan is IDLE, FAULT_HELD while a fault record is held, NOT_READY with no
ACTIVE bank or no ADMITTED lane; else the cursor is line time + 1, or stays where it stands above that, the SCAN group is taken,
and the scan is RUNNING. A line time of none is NOT_READY (assumption 31), and line time + 1 past 48 bits is a free value
(assumption 8). -/
def Obligations.StartScanForms : Prop :=
  ∀ (s : State) (c : Held) (rest : List Held), Begins s 0x30 c rest → c.params = [] → s.notice.frozen = false →
    let admitted := ∃ e ∈ s.tracker.lanes, e.2.record.state = .admitted
    (s.scan.state ≠ .idle → exec .startScan s = .next (replied .busy [] c rest s))
    ∧ (∀ r, s.scan.state = .idle → s.notice.faultRecord = some r →
        exec .startScan s = .next (replied .faultHeld [] c rest s))
    ∧ (s.scan.state = .idle → s.notice.faultRecord = none →
        s.banks.active = none ∨ ¬admitted ∨ s.tracker.lineTime = none →
        exec .startScan s = .next (replied .notReady [] c rest s))
    ∧ ∀ bank l, s.scan.state = .idle → s.notice.faultRecord = none → s.banks.active = some bank →
        s.tracker.lineTime = some l → admitted →
        (∃ t, exec .startScan s = .next t ∧ t.scan.state = .running ∧ t.scan.inUse = some s.params.scan)
        ∧ (l + 1 < 2 ^ 48 →
            let cursor := max (l + 1) (s.scan.cursor.getD 0)
            exec .startScan s = .next (replied .ok
              (encNat 6 cursor ++ encNat 1 bank.code ++ encNat 2 ((s.banks.get bank).dmax.getD 0)) c rest
              (s.setScan { s.scan with state := .running, cursor := some cursor, inUse := some s.params.scan })))

/-- HALT SCAN by the scan state (R69). -/
def Obligations.HaltScanForms : Prop :=
  ∀ (s : State) (c : Held) (rest : List Held), Begins s 0x31 c rest →
    (c.params ≠ [] → exec .haltScan s = .next (replied .badRequest [] c rest s))
    ∧ (c.params = [] → s.scan.state = .frozen → exec .haltScan s = .next (replied .frozen [] c rest s))
    ∧ (c.params = [] → s.notice.frozen = false → s.scan.state = .running →
        exec .haltScan s = .next (replied .ok [] c rest (s.setScan { s.scan with state := .halting })))
    ∧ (c.params = [] → s.notice.frozen = false → s.scan.state = .halting →
        exec .haltScan s = .next (replied .ok [] c rest s))
    ∧ (c.params = [] → s.notice.frozen = false → s.scan.state = .idle →
        exec .haltScan s = .next (replied .notReady [] c rest s))

/-- CLEAR SCAN while not FROZEN (R71, R104): it waits for a close in progress; it changes nothing while the scan is IDLE; else the
tick scan in flight is abandoned, the scan is IDLE, the Detector QUIET with an open event discarded and counted, and a pending
switch is taken (R64), which sets BANK. -/
def Obligations.ClearScanForms : Prop :=
  (∀ (s : State) (c : Held) (rest : List Held), Begins s 0x32 c rest → c.params = [] → s.notice.frozen = false →
    (s.det.closing.isSome = true → exec .clearScan s = .next (waiting .clearScan c rest s))
    ∧ (s.det.closing = none → s.scan.state = .idle → exec .clearScan s = .next (replied .ok [] c rest s))
    ∧ (s.det.closing = none → s.scan.state = .running ∨ s.scan.state = .halting →
        exec .clearScan s = .next (replied .ok [] c rest (takeSwitch
          ((s.setScan { s.scan with state := .idle, tick := none }).setDet
            { s.det with
              state := .quiet, running := none, holdoff := 0
              clearedEvents :=
                if s.det.state = .declared then satAdd s.det.clearedEvents 1 else s.det.clearedEvents
              abortedOnsets :=
                if s.det.state = .onset then satAdd s.det.abortedOnsets 1 else s.det.abortedOnsets })))))
  ∧ ∀ s : State,
    (s.banks.pendingSwitch = none → takeSwitch s = s)
    ∧ ∀ bank, s.banks.pendingSwitch = some bank → s.banks.active = some bank.other →
        takeSwitch s = setFlag .bank (s.setBanks
          { (s.banks.set bank { s.banks.get bank with state := .active }).set bank.other
              { s.banks.get bank.other with state := .ready } with active := some bank, pendingSwitch := none })

/-- TICK_SCAN_BEGIN (R74, R75, R77, R93): with a scan RUNNING or HALTING, no tick scan in flight, no boundary held back by a close
and no SET LANE waiting, the cursor tick t begins exactly when line time has reached t + DMAX and every contributing lane has
delivered through t + DMAX or GRACE has passed. The cut-offs of the mapped lanes rise to t + DMAX, the contributing set and the
bank are noted, the SCAN and DETECT groups are taken, and a deadline tick is counted. Otherwise nothing happens (assumptions 1,
11, 12). -/
def Obligations.TickScansBegin : Prop :=
  ∀ s : State, s.resetHeld = false →
    (s.scan.cursor = none ∨ s.banks.active = none ∨ (s.scan.state ≠ .running ∧ s.scan.state ≠ .halting)
        ∨ s.scan.tick.isSome = true ∨ (∃ c, s.det.closing = some c ∧ c.boundary = true) ∨ (∃ x, s.cmd.executing = some (.laneChange x))
        ∨ s.tracker.lineTime = none →
      exec .tickScanBegin s = .next s)
    ∧ ∀ t bank l, s.scan.cursor = some t → s.banks.active = some bank → s.tracker.lineTime = some l →
      s.scan.state = .running ∨ s.scan.state = .halting → s.scan.tick = none →
      (∀ c, s.det.closing = some c → c.boundary = false) →
      (∀ x, s.cmd.executing ≠ some (.laneChange x)) →
      let dmax := (s.banks.get bank).dmax.getD 0
      let grace := (s.scan.inUse.getD s.params.scan).grace
      let contributes := fun e : Nat × Lane => e.2.record.state == .admitted && 0 < e.2.record.weightInUse
      let done := s.tracker.lanes.all fun e =>
        !contributes e || e.2.record.completeThrough.any fun k => t + dmax ≤ k
      let isReady := t + dmax ≤ l ∧ (done = true ∨ t + dmax + grace ≤ l)
      (¬isReady → exec .tickScanBegin s = .next s)
      ∧ (isReady → ∃ cutoffs, exec .tickScanBegin s = .next ((s.setScan
          { s.scan with
            cutoffs := cutoffs
            tick := some
              { origin := t, bank := bank, bankTag := (s.banks.get bank).tag, dmax := dmax, voxel := 0, count := 0
                total := 0, peak := none, parityMet := []
                contributing := (s.tracker.lanes.filter contributes).map fun e => (e.1, e.2.record.weightInUse) }
            inUse := some s.params.scan
            deadlineTicks := if done then s.scan.deadlineTicks else satAdd s.scan.deadlineTicks 1 }).setDet
          { s.det with inUse := some s.params.detect })
        ∧ (∀ lane, laneOf s lane = none → Memory.find cutoffs lane = Memory.find s.scan.cutoffs lane)
        ∧ ∀ lane e, laneOf s lane = some e → Memory.find cutoffs lane =
            some (max (t + dmax) ((Memory.find s.scan.cutoffs lane).getD 0)))

/-- VOXEL_EVALUATION (R79 to R82, R85). A voxel not ENABLED is passed by. A flag entry, or the first delay entry of a contributing
lane, that fails its parity check makes the voxel ineligible with a TABLE_PARITY fault. A cell that fails its own is absent: the
first failure of its lane and tick in the tick scan takes a TRACK_PARITY fault, which ends the evaluation where it freezes the
engine; the evaluation then goes on as for a failure already met. With every entry read good, and every failing cell met before,
SUM and WSUM go over the lanes whose cells are present, in ascending order; with WSUM below MIN_WEIGHT nothing is counted;
else the rounded weighted mean is counted and added, and is the peak where it is the first or strictly greater. With no tick
scan in flight, or past the last voxel, the line only settles (assumption 1). -/
def Obligations.VoxelsEvaluated : Prop :=
  ∀ s : State, s.resetHeld = false →
    (s.scan.tick = none → exec .voxelEvaluation s = .next (settleLine s))
    ∧ ∀ k, s.scan.tick = some k →
      let b := s.banks.get k.bank
      let flags := readFlags b k.voxel
      let tick := fun x : TickScan => s.setScan { s.scan with tick := some { x with voxel := k.voxel + 1 } }
      let delay := fun p : Nat × Nat => readDelay b k.voxel p.1
      let cell := fun p : Nat × Nat => (delay p).delay.map fun d => (trackOf s p.1).readCell (k.origin + d)
      let good := fun p : Nat × Nat => (delay p).parityOk = true
        ∧ ∀ d, (delay p).delay = some d → (trackOf s p.1).readCell (k.origin + d) = .parityFailure →
          (p.1, k.origin + d) ∈ k.parityMet ∧ s.notice.frozen = false
      let part := k.contributing.filterMap fun p =>
        match cell p with
        | some (.value c) => some (p.1, p.2, c)
        | _ => none
      let sum := (part.map fun x => x.2.1 * x.2.2).sum
      let wsum := (part.map fun x => x.2.1).sum
      let value := (sum + wsum / 2) / wsum
      let new : Peak :=
        { stack := value, voxel := k.voxel, nuisance := flags.nuisance, pairs := part.map fun x => (x.1, x.2.1 * x.2.2) }
      (b.voxelCount ≤ k.voxel → exec .voxelEvaluation s = .next (settleLine s))
      ∧ (k.voxel < b.voxelCount →
        (flags.parityOk = true → flags.enabled = false → exec .voxelEvaluation s = .next (settleLine (tick k)))
        ∧ (flags.parityOk = false → exec .voxelEvaluation s = .next (settleLine
            (nextVoxel (takeFault .scan (.table k.bank k.voxel .flag) s))))
        ∧ (∀ before p after, flags.parityOk = true → flags.enabled = true → k.contributing = before ++ p :: after →
            (∀ q ∈ before, good q) →
            ((delay p).parityOk = false → exec .voxelEvaluation s = .next (settleLine
              (nextVoxel (takeFault .scan (.table k.bank k.voxel (.delay p.1)) s))))
            ∧ ∀ d, (delay p).parityOk = true → (delay p).delay = some d →
              (trackOf s p.1).readCell (k.origin + d) = .parityFailure → (p.1, k.origin + d) ∉ k.parityMet →
              let met := takeFault .scan (.track p.1 (k.origin + d)) (s.setScan
                { s.scan with tick := some { k with parityMet := k.parityMet ++ [(p.1, k.origin + d)] } })
              (met.notice.frozen = true → exec .voxelEvaluation s = .next (settleLine (nextVoxel met)))
              ∧ (met.notice.frozen = false → exec .voxelEvaluation s = exec .voxelEvaluation met))
        ∧ (flags.parityOk = true → flags.enabled = true → (∀ q ∈ k.contributing, good q) →
            exec .voxelEvaluation s = .next (settleLine (
              if wsum < (s.scan.inUse.getD s.params.scan).minWeight then tick k
              else tick
                { k with
                  count := k.count + 1
                  total := k.total + value
                  peak := match k.peak with
                    | none => some new
                    | some old => if old.stack < value then some new else some old }))))

/-- TICK_RESULT_DELIVERY (R73, R83, R84): the tick scan ends with its summary as the last tick result, a count and the cursor on
the next tick, and the Detector handles the result. A close that begins holds the boundary back (assumption 12); else a HALTING
scan whose detector rests becomes IDLE and sets SCAN_STATE (R70), and a pending switch is taken where it rests. `d` is the
Detector after the result. A SET LANE that waits is applied there, with LANE_CHANGE, and its reply is placed or waits for room
(R3, R4, R7, R8; assumption 27 for the taken filter values), and the wait test follows where the candidate's plan names the lane
(R126); `q` is the queue then. A scan that goes on then makes the fall-behind test with
the DMAX in use after the switch: with line time above the margin the cursor jumps, SKIPPED_TICKS grows by the ticks passed over,
SCAN_OVERRUN is set and the Detector is told OVERRUN; else the cursor and the Detector stay (R86, R87). With no tick scan in
flight, or its walk not at its end, the line only settles (assumption 1). -/
def Obligations.TickResultsDelivered : Prop :=
  (∀ s : State, s.resetHeld = false →
    (s.scan.tick = none → exec .tickResultDelivery s = .next (settleLine s))
    ∧ ∀ k, s.scan.tick = some k →
      let r : TickResult :=
        { origin := k.origin, bank := k.bank, bankTag := k.bankTag, eligible := k.count
          peak := (k.peak.map Peak.stack).getD 0, peakVoxel := k.peak.map Peak.voxel
          nuisance := (k.peak.map Peak.nuisance).getD false, mean := k.total / k.count
          pairs := (k.peak.map Peak.pairs).getD [] }
      let summary : LastResult :=
        { origin := r.origin, eligible := r.eligible, peak := r.peak, peakVoxel := r.peakVoxel, nuisance := r.nuisance
          mean := r.mean, listLength := r.pairs.length }
      let d := (takeTickResult r s).det
      let rests := d.state = .quiet ∨ d.state = .holdoff
      let scans := s.scan.state = .running ∨ s.scan.state = .halting
      let v := s.scan.inUse.getD s.params.scan
      (k.voxel < (s.banks.get k.bank).voxelCount ∨ s.det.closing.isSome = true →
        exec .tickResultDelivery s = .next (settleLine s))
      ∧ ((s.banks.get k.bank).voxelCount ≤ k.voxel → s.det.closing = none → ∃ t q, exec .tickResultDelivery s = .next t
        ∧ (∀ x, d.closing = none → s.cmd.executing = some (.laneChange x) →
            LaneTested t x.lane { s.captures with queue := (takeTickResult r s).queue } { t.captures with queue := q })
        ∧ ((∀ x, s.cmd.executing ≠ some (.laneChange x)) ∨ d.closing.isSome = true →
            { t.captures with queue := q } = { s.captures with queue := (takeTickResult r s).queue })
        ∧ t.scan.tick = none ∧ t.scan.lastResult = some summary
        ∧ t.scan.ticksScanned = satAdd s.scan.ticksScanned 1 ∧ t.scan.cutoffs = s.scan.cutoffs
        ∧ t.det.serial = s.det.serial ∧ t.params = s.params
        ∧ (d.closing.isSome = true → t.det = d ∧ t.queue = q ∧ t.scan.state = s.scan.state ∧ t.banks = s.banks
            ∧ t.scan.skippedTicks = s.scan.skippedTicks ∧ (k.origin + 1 < 2 ^ 48 → t.scan.cursor = some (k.origin + 1)))
        ∧ (d.closing = none → s.scan.state = .halting → rests → t.scan.state = .idle ∧ t.notice.isSet .scanState = true
            ∧ t.det = { d with state := .quiet, holdoff := if d.state = .holdoff then 0 else d.holdoff } ∧ t.queue = q
            ∧ t.scan.skippedTicks = s.scan.skippedTicks ∧ (k.origin + 1 < 2 ^ 48 → t.scan.cursor = some (k.origin + 1)))
        ∧ (d.closing = none → ¬(s.scan.state = .halting ∧ rests) → t.scan.state = s.scan.state
            ∧ (k.origin + 1 < 2 ^ 48 →
              (¬scans ∨ (∀ l, s.tracker.lineTime = some l → l ≤ k.origin + 1 + activeDmax t + v.grace + v.lagAllowance) →
                t.scan.cursor = some (k.origin + 1) ∧ t.det = d ∧ t.queue = q ∧ t.scan.skippedTicks = s.scan.skippedTicks)
              ∧ ∀ l, scans → s.tracker.lineTime = some l → k.origin + 1 + activeDmax t + v.grace + v.lagAllowance < l →
                t.scan.cursor = some (l - activeDmax t - v.grace) ∧ t.notice.isSet .scanOverrun = true
                  ∧ t.scan.skippedTicks = satAdd s.scan.skippedTicks (l - activeDmax t - v.grace - (k.origin + 1))
                  ∧ t.det = (takeOverrun (s.setDet d)).det ∧ t.queue = (takeOverrun ((s.setDet d).setQueue q)).queue))
        ∧ (∀ bank, d.closing = none → rests → s.banks.pendingSwitch = some bank → t.banks.active = some bank
            ∧ t.banks.pendingSwitch = none ∧ t.notice.isSet .bank = true)
        ∧ (¬rests ∨ s.banks.pendingSwitch = none → t.banks = s.banks)
        ∧ (∀ x, d.closing = none → s.cmd.executing = some (.laneChange x) →
            (∀ l, laneOf s x.lane = some l → LaneChangeApplied x l s t)
            ∧ ∀ c rest, s.cmd.held = c :: rest → Answered (if x.clamped then .clamped else .ok) [] c rest s t)
        ∧ ((∀ x, s.cmd.executing ≠ some (.laneChange x)) ∨ d.closing.isSome = true →
            t.cmd = (settleLine s).cmd ∧ t.line = (settleLine s).line)))
  ∧ ∀ s : State,
    (s.scan.cursor = none ∨ s.tracker.lineTime = none → fallBehind s = s)
    ∧ ∀ t l, s.scan.cursor = some t → s.tracker.lineTime = some l →
      let v := s.scan.inUse.getD s.params.scan
      let margin := activeDmax s + v.grace + v.lagAllowance
      (l ≤ t + margin → fallBehind s = s)
      ∧ (t + margin < l → fallBehind s = setFlag .scanOverrun (takeOverrun (s.setScan
          { s.scan with cursor := some (l - activeDmax s - v.grace)
                        skippedTicks := satAdd s.scan.skippedTicks (l - activeDmax s - v.grace - t) })))

/-! ## Event detection -/

/-- How the Detector handles a tick result (R94 to R100), with the DETECT values in use: in QUIET, ONSET, DECLARED and HOLDOFF. In
DECLARED the quiet run is kept first, and the closing tests follow in their order. -/
def Obligations.DetectorTakesTicks : Prop :=
  ∀ (r : TickResult) (s : State),
    let v := s.det.inUse.getD s.params.detect
    let on := 1 ≤ r.eligible ∧ r.nuisance = false ∧ v.tOn ≤ r.peak ∧ r.mean * v.coherence ≤ r.peak * 16
    let off := 1 ≤ r.eligible ∧ r.nuisance = false ∧ v.tOff ≤ r.peak ∧ r.mean * v.coherence ≤ r.peak * 16
    let veto := 1 ≤ r.eligible ∧ r.nuisance = true
    let here : Maximum :=
      { origin := r.origin, peak := r.peak, peakVoxel := r.peakVoxel.getD 0, mean := r.mean, bank := r.bank
        bankTag := r.bankTag, pairs := r.pairs }
    let t := takeTickResult r s
    (s.det.state = .quiet →
      (on → t = s.setDet
        { s.det with
          state := if v.kOn ≤ 1 then .declared else .onset
          running := some
            { onsetTick := r.origin, onsetCount := 1, quietRun := 0, vetoCount := 0, durationLimit := v.maxDuration
              lastTick := r.origin, maximum := here } })
      ∧ (¬on → veto → t = s.setDet { s.det with nuisanceHits := satAdd s.det.nuisanceHits 1 })
      ∧ (¬on → ¬veto → t = s))
    ∧ (∀ run, s.det.state = .onset → s.det.running = some run →
        let max' := if run.maximum.peak < r.peak then here else run.maximum
        (on → v.kOn ≤ run.onsetCount + 1 → t = s.setDet
          { s.det with
            state := .declared
            running := some { run with onsetCount := run.onsetCount + 1, lastTick := r.origin, maximum := max'
                                       quietRun := 0, vetoCount := 0 } })
        ∧ (on → run.onsetCount + 1 < v.kOn → t = s.setDet
          { s.det with
            running := some { run with onsetCount := run.onsetCount + 1, lastTick := r.origin, maximum := max' } })
        ∧ (¬on → (veto → t = s.setDet
              { s.det with state := .quiet, running := none, abortedOnsets := satAdd s.det.abortedOnsets 1
                           nuisanceHits := satAdd s.det.nuisanceHits 1 })
            ∧ (¬veto → t = s.setDet
              { s.det with state := .quiet, running := none, abortedOnsets := satAdd s.det.abortedOnsets 1 })))
    ∧ (∀ run, s.det.state = .declared → s.det.running = some run → ∃ run',
        (off → run' = { run with quietRun := 0, lastTick := r.origin
                                 maximum := if run.maximum.peak < r.peak then here else run.maximum })
        ∧ (¬off → run' = { run with
            quietRun := min 63 (run.quietRun + 1), lastTick := r.origin
            vetoCount := if 1 ≤ r.eligible ∧ r.nuisance = true then min 1024 (run.vetoCount + 1) else run.vetoCount })
        ∧ (v.qOff ≤ run'.quietRun →
            t = beginClose .quietRun r.origin true (s.setDet { s.det with running := some run' }))
        ∧ (run'.quietRun < v.qOff → run'.durationLimit ≤ r.origin - run.onsetTick + 1 →
            t = beginClose .durationLimit r.origin true (s.setDet { s.det with running := some run' }))
        ∧ (run'.quietRun < v.qOff → r.origin - run.onsetTick + 1 < run'.durationLimit →
            t = s.setDet { s.det with running := some run' }))
    ∧ (s.det.state = .holdoff → t = s.setDet
        { s.det with holdoff := s.det.holdoff - 1, state := if s.det.holdoff ≤ 1 then .quiet else .holdoff })

/-- OVERRUN (R101) in each state, and the beginning of a close (R106, R107, R111, R115): with a place in the Event Queue it is
reserved and the CAPTURE group is taken, with the DETECT values in use (R93); with 32 records held the record is discarded: it is
counted, the tail gets OVERFLOW_FOLLOWS, QUEUE_OVERFLOW is set, no serial is taken, and the Detector goes to HOLDOFF or QUIET.
That an OVERRUN close leaves HOLDOFF, as R115 has it for every close, is the model's reading of R101 (assumption 44). That a close
with a place is counted as it completes, a discarded one here, is the model's reading (assumption 15), as is that an OVERRUN that
meets a close in progress is kept until it ends (assumption 12). -/
def Obligations.ClosesBegin : Prop :=
  ∀ s : State,
    (s.det.closing = none →
      (s.det.state = .quiet → takeOverrun s = s)
      ∧ (s.det.state = .onset → takeOverrun s = s.setDet
          { s.det with state := .quiet, running := none, abortedOnsets := satAdd s.det.abortedOnsets 1 })
      ∧ (∀ run, s.det.state = .declared → s.det.running = some run →
          takeOverrun s = beginClose .overrun run.lastTick false s)
      ∧ (s.det.state = .holdoff → takeOverrun s = s.setDet { s.det with state := .quiet, holdoff := 0 }))
    ∧ (∀ c, s.det.closing = some c → takeOverrun s = s.setDet { s.det with closing := some { c with overrun := true } })
    ∧ ∀ (reason : CloseReason) (tick : Nat) (boundary : Bool),
      (s.queue.length < 32 → beginClose reason tick boundary s = s.setDet
        { s.det with
          closing := some
            { reason := reason, closeTick := tick, capture := s.params.capture, detect := s.det.inUse.getD s.params.detect
              boundary := boundary, overrun := false } })
      ∧ ∀ others last, s.queue = others ++ [last] → others.length = 31 →
        let h := (s.det.inUse.getD s.params.detect).holdoff
        beginClose reason tick boundary s = setFlag .queueOverflow ((s.setDet
          { s.det with
            state := if 0 < h then .holdoff else .quiet, holdoff := h, running := none, closing := none
            eventsClosed := satAdd s.det.eventsClosed 1, queueDiscards := satAdd s.det.queueDiscards 1 }).setQueue
          (others ++ [{ last with overflowFollows := true }]))

/-- CLOSE_COMPLETION (R108 to R111, R114, R115, R120, R121): the record is appended at the tail with the fields of R108, the plan,
the serial counter's value and the close time; it is ABORTED where the engine is FROZEN as the walk ends, NONE with an empty plan,
and these settle at once and set EVENT_READY; else it is WAITING, and is tested as the candidate where no record is in capture or
waiting before it. The counter goes on by 1, after 65535 at 0; the close is counted (assumption 15) and is no longer in
progress; the Detector goes to HOLDOFF or QUIET by the DETECT values taken as the close began, for OVERRUN too (assumption
44), and an OVERRUN kept meanwhile then
drops HOLDOFF (R101; assumption 12). A CLEAR SCAN that waits for it is then handled by the state it finds, FROZEN where the plan's
fault froze the engine (R71; before the boundary, assumption 14). Else a close that held its tick's boundary back (QUIET_RUN,
DURATION_LIMIT) is followed by the boundary (R73, R115): a HALTING scan becomes IDLE with SCAN_STATE (R70), a pending switch is
taken with BANK (R64), a SET LANE that waits is applied and answered (R4; assumption 27 for the taken filter values), with the
wait test where the candidate's plan names the lane (R126), and the
fall-behind test is made in a scan that goes on, with the DMAX in use after the switch (R86). The other closes (SILENCE, OVERRUN)
held no boundary and no test back, so none follows (assumption 12). With no close in progress the line only settles (assumption
1). -/
def Obligations.ClosesComplete : Prop :=
  ∀ s : State, s.resetHeld = false →
    (s.det.closing = none → exec .closeCompletion s = .next (settleLine s))
    ∧ ∀ c run, s.det.closing = some c → s.det.running = some run →
      let w := makePlan c run.maximum s
      let d := { s.det with
        state := if 0 < c.detect.holdoff then .holdoff else .quiet, holdoff := c.detect.holdoff, running := none
        closing := none, eventsClosed := satAdd s.det.eventsClosed 1, serial := (s.det.serial + 1) % 65536 }
      let resting := { d with state := .quiet, holdoff := 0 }
      let r0 : EventRecord :=
        { serial := s.det.serial, bank := run.maximum.bank, bankTag := run.maximum.bankTag, onsetTick := run.onsetTick
          originTick := run.maximum.origin, closeTick := c.closeTick, duration := c.closeTick - run.onsetTick + 1
          peakVoxel := run.maximum.peakVoxel, peak := run.maximum.peak, mean := run.maximum.mean
          contributors := run.maximum.pairs.length, vetoCount := run.vetoCount, closeReason := c.reason
          contaminated := decide (c.detect.vetoLimit < run.vetoCount), overflowFollows := false
          status := if w.2.notice.frozen then .aborted else if w.1 = [] then .none else .waiting
          plan := w.1, closeTime := s.now }
      let u := (w.2.setDet d).setQueue (w.2.queue ++ [r0])
      let clears := s.cmd.executing = some .clearScan
      let scans := s.scan.state = .running ∨ s.scan.state = .halting
      let v := s.scan.inUse.getD s.params.scan
      (r0.status ≠ .waiting → completeClose c run s = setFlag .eventReady u)
      ∧ (r0.status = .waiting → w.2.capture.active = none → (∀ x ∈ w.2.queue, x.status ≠ .waiting) →
          completeClose c run s = waitTest u)
      ∧ (r0.status = .waiting → w.2.capture.active.isSome = true ∨ (∃ x ∈ w.2.queue, x.status = .waiting) →
          completeClose c run s = u)
      ∧ ∃ t r, exec .closeCompletion s = .next t
        ∧ (t.queue.length = s.queue.length + 1 ∧ t.queue[s.queue.length]? = some r
          ∧ r = { r0 with status := r.status, plan := r.plan }
          ∧ (r0.status ≠ .waiting → r = r0 ∧ t.notice.isSet .eventReady = true)
          ∧ (r0.status = .waiting → (r.status = .waiting ∨ r.status = .capturing ∨ r.status = .noSpace)
              ∧ (r.plan.map fun e => { e with extentOffset := none }) = w.1))
        ∧ (w.2.notice.frozen = true ∨ c.boundary = false ∨ (∀ x, s.cmd.executing ≠ some (.laneChange x)) →
            t.captures = (completeClose c run s).captures)
        ∧ (w.2.notice.frozen = true → t.det = d ∧ t.scan = w.2.scan ∧ t.banks = s.banks
          ∧ (clears → ∀ h rest, s.cmd.held = h :: rest → Answered .frozen [] h rest s t)
          ∧ (¬clears → t.cmd = (settleLine w.2).cmd ∧ t.line = (settleLine w.2).line))
        ∧ (w.2.notice.frozen = false → clears →
          (∀ h rest, s.cmd.held = h :: rest → Answered .ok [] h rest s t)
          ∧ (¬scans → t.det = (if c.overrun then resting else d) ∧ t.scan = s.scan ∧ t.banks = s.banks)
          ∧ (scans → t.det = resting ∧ t.scan = { s.scan with state := .idle, tick := none }
            ∧ (s.banks.pendingSwitch = none → t.banks = s.banks)
            ∧ ∀ bank, s.banks.pendingSwitch = some bank →
                t.banks = s.banks.activate bank ∧ t.notice.isSet .bank = true))
        ∧ (w.2.notice.frozen = false → ¬clears → c.boundary = false → t.det = (if c.overrun then resting else d)
          ∧ t.scan = s.scan ∧ t.banks = s.banks ∧ t.cmd = (settleLine s).cmd ∧ t.line = (settleLine s).line)
        ∧ (w.2.notice.frozen = false → ¬clears → c.boundary = true →
          (s.banks.pendingSwitch = none → t.banks = s.banks)
          ∧ (∀ bank, s.banks.pendingSwitch = some bank → t.banks = s.banks.activate bank ∧ t.notice.isSet .bank = true)
          ∧ (s.scan.state = .halting →
              t.det = resting ∧ t.scan = { s.scan with state := .idle } ∧ t.notice.isSet .scanState = true)
          ∧ (∀ x l, s.scan.state = .running → s.scan.tick = none → s.scan.cursor = some x → s.tracker.lineTime = some l →
              x + activeDmax t + v.grace + v.lagAllowance < l →
              t.det = resting ∧ t.notice.isSet .scanOverrun = true
              ∧ t.scan = { s.scan with cursor := some (l - activeDmax t - v.grace)
                                       skippedTicks := satAdd s.scan.skippedTicks (l - activeDmax t - v.grace - x) })
          ∧ (¬scans ∨ (s.scan.state = .running ∧ (s.scan.tick.isSome = true ∨ s.scan.cursor = none
                ∨ s.tracker.lineTime = none ∨ ∃ x l, s.scan.cursor = some x ∧ s.tracker.lineTime = some l
                  ∧ l ≤ x + activeDmax t + v.grace + v.lagAllowance)) →
              t.det = (if c.overrun then resting else d) ∧ t.scan = s.scan)
          ∧ (∀ x, s.cmd.executing = some (.laneChange x) →
              (∀ l, laneOf s x.lane = some l → LaneChangeApplied x l s t)
              ∧ LaneTested t x.lane (completeClose c run s).captures t.captures
              ∧ ∀ h rest, s.cmd.held = h :: rest → Answered (if x.clamped then .clamped else .ok) [] h rest s t)
          ∧ ((∀ x, s.cmd.executing ≠ some (.laneChange x)) →
              t.cmd = (settleLine s).cmd ∧ t.line = (settleLine s).line))

/-- The snippet plan (R111 to R114): with CAPTURE_ENABLE off it is empty; else the candidates are the pairs of the maximum ranked
by PRODUCT, the larger first, equal ones by lane number, and the walk makes up to SNIP_LANES entries: a candidate whose delay is
no NONE and whose cell is present passes, with its span; NONE and an absent cell pass it over; a delay or a cell that fails its
parity check takes a fault of the planning and passes it over, and ends the walk where the fault freezes the engine. Where no read
fails, the plan is the first SNIP_LANES candidates that pass, and nothing changes. A close that the FROZEN condition met before
makes no entry (assumption 13). -/
def Obligations.PlansMade : Prop :=
  (∀ (c : Closing) (m : Maximum) (s : State),
    let b := s.banks.get m.bank
    let delay := fun p : Nat × Nat => readDelay b m.peakVoxel p.1
    let cell := fun p : Nat × Nat => (delay p).delay.map fun d => (trackOf s p.1).readCell (m.origin + d)
    let ranked := rankPairs m.pairs
    (c.capture.enable = false ∨ s.notice.frozen = true → makePlan c m s = ([], s))
    ∧ ranked.Perm m.pairs
    ∧ ranked.Pairwise (fun p q => q.2 < p.2 ∨ (p.2 = q.2 ∧ p.1 ≤ q.1))
    ∧ (c.capture.enable = true → s.notice.frozen = false →
        makePlan c m s = walkPlan m c.capture ranked c.capture.snipLanes s)
    ∧ (c.capture.enable = true → s.notice.frozen = false →
        (∀ p ∈ m.pairs, (delay p).parityOk = true ∧ cell p ≠ some .parityFailure) →
        makePlan c m s = ((ranked.filterMap fun p =>
          match (delay p).delay, cell p with
          | some d, some (.value _) => some
              { lane := p.1, product := p.2, start := (m.origin + d) * s.params.lane.tickLen - c.capture.preSamples
                count := c.capture.preSamples + c.capture.postSamples, omitStart := 0, omitEnd := 0
                extentOffset := none }
          | _, _ => none).take c.capture.snipLanes, s)))
  ∧ ∀ (m : Maximum) (cap : CaptureParams) (n : Nat) (s : State), s.notice.frozen = false →
    walkPlan m cap [] n s = ([], s)
    ∧ ∀ (p : Nat × Nat) (ps : List (Nat × Nat)),
      let delay := readDelay (s.banks.get m.bank) m.peakVoxel p.1
      let goesOn := fun t : State => if t.notice.frozen then ([], t) else walkPlan m cap ps n t
      walkPlan m cap (p :: ps) 0 s = ([], s)
      ∧ (1 ≤ n →
        (delay.parityOk = false → walkPlan m cap (p :: ps) n s =
          goesOn (takeFault .planning (.table m.bank m.peakVoxel (.delay p.1)) s))
        ∧ (delay.parityOk = true → delay.delay = none → walkPlan m cap (p :: ps) n s = walkPlan m cap ps n s)
        ∧ ∀ d, delay.parityOk = true → delay.delay = some d →
          let cell := (trackOf s p.1).readCell (m.origin + d)
          (cell = .absent → walkPlan m cap (p :: ps) n s = walkPlan m cap ps n s)
          ∧ (cell = .parityFailure → walkPlan m cap (p :: ps) n s =
              goesOn (takeFault .planning (.track p.1 (m.origin + d)) s))
          ∧ ∀ x, cell = .value x → walkPlan m cap (p :: ps) n s =
              ({ lane := p.1, product := p.2, start := (m.origin + d) * s.params.lane.tickLen - cap.preSamples
                 count := cap.preSamples + cap.postSamples, omitStart := 0, omitEnd := 0, extentOffset := none }
                :: (walkPlan m cap ps (n - 1) s).1, (walkPlan m cap ps (n - 1) s).2))

/-! ## Events and snippets -/

/-- FETCH EVENT (R134) and RELEASE EVENT (R139), by the head: an empty queue, an unsettled head, a serial that differs, or the
head answered whole, each field of R108 in its order and then each entry of the plan, and removed by the release with its extent
freed. The model's reading: the widths that R156 does not name (assumption 23), a plan without a count (assumption 22), and the
number of copied entries left out of the reply for a WAITING head (assumption 42). -/
def Obligations.HeadFetchedAndReleased : Prop :=
  ∀ (s : State) (c : Held) (rest : List Held),
    (Begins s 0x40 c rest → c.params ≠ [] → exec .fetchEvent s = .next (replied .badRequest [] c rest s))
    ∧ (Begins s 0x40 c rest → c.params = [] →
      (s.queue = [] → exec .fetchEvent s = .next (replied .notReady [0] c rest s))
      ∧ ∀ r q, s.queue = r :: q →
        (r.status = .waiting → exec .fetchEvent s = .next (replied .busy
          (encNat 2 r.serial ++ [1] ++ encNat 1 s.queue.length) c rest s))
        ∧ (∀ a, r.status = .capturing → s.capture.active = some a → exec .fetchEvent s = .next (replied .busy
            (encNat 2 r.serial ++ [2] ++ encNat 1 s.queue.length ++ encNat 1 (a.next - 1)) c rest s))
        ∧ (r.status.settled = true → exec .fetchEvent s = .next (replied .ok
            (encNat 1 s.queue.length ++ (encNat 2 r.serial ++ encNat 1 r.bank.code ++ encNat 2 r.bankTag ++ encNat 6 r.onsetTick
              ++ encNat 6 r.originTick ++ encNat 6 r.closeTick ++ encNat 2 r.duration ++ encNat 2 r.peakVoxel
              ++ encNat 2 r.peak ++ encNat 2 r.mean ++ encNat 1 r.contributors ++ encNat 2 r.vetoCount
              ++ encNat 1 r.closeReason.code ++ encBool r.contaminated ++ encBool r.overflowFollows
              ++ encNat 1 r.status.code ++ (r.plan.map fun e => encNat 1 e.lane ++ encNat 3 e.product ++ encNat 6 e.start
                ++ encNat 2 e.count ++ encNat 2 e.omitStart ++ encNat 2 e.omitEnd ++ encOpt 2 e.extentOffset).flatten))
            c rest s)))
    ∧ (Begins s 0x42 c rest → c.params.length ≠ 2 → exec .releaseEvent s = .next (replied .badRequest [] c rest s))
    ∧ (Begins s 0x42 c rest → c.params.length = 2 →
        (s.queue = [] → exec .releaseEvent s = .next (replied .notReady [] c rest s))
        ∧ ∀ r q, s.queue = r :: q →
          let head := encNat 2 r.serial ++ encNat 1 r.status.code
          (r.serial ≠ c.field 0 2 → exec .releaseEvent s = .next (replied .notReady head c rest s))
          ∧ (r.serial = c.field 0 2 → r.status.settled = false →
              exec .releaseEvent s = .next (replied .busy head c rest s))
          ∧ (r.serial = c.field 0 2 → r.status.settled = true → exec .releaseEvent s = .next (replied .ok
              (encNat 2 r.serial ++ encNat 1 q.length) c rest
              ((s.setQueue q).setStore
                { s.store with freeWords := s.store.freeWords +
                    if r.status = .complete ∨ r.status = .partialCopy then (r.plan.map PlanEntry.count).sum else 0 }))))

/-- READ SNIPPET (R135): its checks in order, and the range of an accepted one, shortened to the words selected; its stream then
begins. -/
def Obligations.ReadSnippetForms : Prop :=
  ∀ (s : State) (c : Held) (rest : List Held), Begins s 0x41 c rest → c.params.length = 5 →
    c.byte 0 < 192 ∨ c.byte 0 = 255 →
    (s.queue = [] → exec .readSnippet s = .next (replied .notReady [] c rest s))
    ∧ ∀ r q, s.queue = r :: q →
      let head := encNat 2 r.serial ++ encNat 1 r.status.code
      let named := if c.byte 0 = 255 then r.plan else r.plan.filter fun e => e.lane == c.byte 0
      let words := (named.map PlanEntry.count).sum
      let first := c.field 1 2
      let count := c.field 3 2
      (r.status.settled = false → exec .readSnippet s = .next (replied .busy head c rest s))
      ∧ (r.status = .none ∨ r.status = .noSpace ∨ r.status = .aborted →
          exec .readSnippet s = .next (replied .notReady head c rest s))
      ∧ (r.status = .complete ∨ r.status = .partialCopy →
          (named = [] ∨ words ≤ first → exec .readSnippet s = .next (replied .badRequest [] c rest s))
          ∧ (named ≠ [] → first < words → exec .readSnippet s = .next (waiting (.streaming
              { serial := r.serial, selector := c.byte 0, first := first
                total := if count = 0 then words - first else min count (words - first)
                clamped := decide (count = 0) || decide (words < first + count)
                sent := 0, frames := 0, replaced := 0, faultMet := false }) c rest s)))

/-- SNIPPET_FRAME_PLACED (R136, R137), the transmitter busy: the frame of the next words of one span, at most 64 and within the
range, is placed, each word as the store holds it, or the missing marker where its ECC fails; the words replaced are counted. `u`
is the engine after the reads: the first word of the command that fails while the engine is not FROZEN takes a STORE_ECC fault;
while it is FROZEN, also by that very fault, each failing word counts in FROZEN_STORE_ERRORS. While words are left the stream goes
on; after the last the reply is placed, or waits where the Own Queue is then full or another producer waits (R148). A frame finds
a place where there is room and no producer waits, or the Command Unit waits at the front; else the stream waits, once (assumption
17). With no stream the line only settles (assumption 1). The 2 bytes of the frames sent are the model's reading (assumption
23). -/
def Obligations.SnippetFramesPlaced : Prop :=
  ∀ s : State, s.resetHeld = false →
    ((∀ st, s.cmd.executing ≠ some (.streaming st)) → exec .snippetFramePlaced s = .next (settleLine s))
    ∧ ∀ (st : Stream) (c : Held) (held : List Held) (r : EventRecord) (q : List EventRecord) (e : PlanEntry) (w : Nat),
      s.cmd.executing = some (.streaming st) → s.cmd.held = c :: held → s.queue = r :: q → s.line.dnTx.isSome = true →
      locateWord (if st.selector = 255 then r.plan else r.plan.filter fun x => x.lane == st.selector)
        (st.first + st.sent) = some (e, w) →
      let n := min 64 (min (st.total - st.sent) (e.count - w))
      let word := fun i => (e.extentOffset.getD 0 + w + i) % 65536
      let samples := (List.range n).map fun i => (s.store.readWord (word i)).getD missingMarker
      let failing := ((List.range n).map word).filter fun x => (s.store.readWord x).isNone
      let failed := failing.length
      let counts := fun (x : Nat) (y : State) =>
        if x = 0 then y
        else y.setNotice { y.notice with frozenStoreErrors := satAdd y.notice.frozenStoreErrors x }
      let u := match failing with
        | [] => s
        | first :: others =>
          if s.notice.frozen then counts failed s
          else if st.faultMet then s
          else
            let taken := takeFault .readSnippet (.store first) s
            if taken.notice.frozen then counts others.length taken else taken
      let frame := ownFrame 0x33 (encNat 1 s.line.source ++ encNat 2 st.serial ++ encNat 1 e.lane ++ encNat 2 w
        ++ encNat 1 n ++ (samples.map fun x => encNat 3 x.toNat).flatten)
      let st' := { st with sent := st.sent + n, frames := st.frames + 1, replaced := st.replaced + failed
                           faultMet := st.faultMet || (!s.notice.frozen && 0 < failed) }
      let result := encNat 2 st.serial ++ encNat 1 st.selector ++ encNat 2 st.first ++ encNat 2 (st.sent + n)
        ++ encNat 2 (st.frames + 1) ++ encNat 2 (st.replaced + failed)
      let reply := ownFrame 0x31 (encNat 1 s.line.source ++ [c.tag, c.code] ++ [if st.clamped then 1 else 0] ++ result)
      let blocked := 16 ≤ s.line.own.length ∨ ∃ p others, s.line.waiters = p :: others ∧ p ≠ .commandUnit
      let placed := fun waiters => (u.setLine { s.line with own := s.line.own ++ [frame], waiters := waiters }).setCmd
        { held := c :: held, executing := some (.streaming st') }
      (blocked → .commandUnit ∉ s.line.waiters → exec .snippetFramePlaced s = .next
        (settleLine (s.setLine { s.line with waiters := s.line.waiters ++ [.commandUnit] })))
      ∧ (blocked → .commandUnit ∈ s.line.waiters → exec .snippetFramePlaced s = .next (settleLine s))
      ∧ (OwnRoom s → st.sent + n < st.total → exec .snippetFramePlaced s = .next (placed []))
      ∧ (s.line.waiters = [] → s.line.own.length < 15 → st.total ≤ st.sent + n → exec .snippetFramePlaced s = .next
          ((u.setLine { s.line with own := s.line.own ++ [frame, reply] }).setCmd { held := held, executing := none }))
      ∧ (s.line.waiters = [] ∨ s.line.waiters = [.commandUnit] → s.line.own.length = 15 → st.total ≤ st.sent + n →
          exec .snippetFramePlaced s = .next
            ((u.setLine { s.line with own := s.line.own ++ [frame], waiters := [.commandUnit] }).setCmd
              { held := c :: held, executing := some (.replyWaiting reply) }))
      ∧ (∀ others, s.line.waiters = .commandUnit :: others → s.line.own.length < 16 →
          let after := placed (others.filter fun p => p != .commandUnit)
          (st.sent + n < st.total → exec .snippetFramePlaced s = .next (settleLine after))
          ∧ (st.total ≤ st.sent + n → exec .snippetFramePlaced s = .next
              (settleLine (answer (if st.clamped then .clamped else .ok) result after))))

/-- WAIT_TIMER_EXPIRY, and the wait test it makes for the candidate, the oldest WAITING record (R123, R125 to R127; the clock,
assumption 3): where every lane of its plan has delivered, is lost, or CAPTURE_WAIT has passed, the capture begins in an extent at
the write position if there is room; where it may not begin yet the timer is set again; with no room the record becomes NO_SPACE
and the next candidate is tested. `waitTest`, wherever a row makes it, does what WaitTested says. With no timer running, or while
FROZEN, nothing happens (assumption 1). -/
def Obligations.WaitTimerExpires : Prop :=
  (∀ u : State, WaitTested (waitTest u) u.captures (waitTest u).captures)
  ∧ ∀ s : State, s.resetHeld = false →
    (s.capture.waitTimer = none ∨ s.notice.frozen = true → exec .waitTimerExpiry s = .next s)
    ∧ (∀ e, s.capture.waitTimer = some e → s.notice.frozen = false → ∃ t, exec .waitTimerExpiry s = .next t
      ∧ WaitTested t { s.captures with capture := { s.capture with waitTimer := none } } t.captures)
    ∧ ∀ e before r after, s.capture.waitTimer = some e → s.notice.frozen = false → s.capture.active = none →
      s.queue = before ++ r :: after → r.status = .waiting → (∀ x ∈ before, x.status ≠ .waiting) →
      let now := max s.now e
      let wait := s.params.capture.captureWait
      let size := (r.plan.map PlanEntry.count).sum
      let passes := ∀ x ∈ r.plan, (∃ n, (ringOf s x.lane).newest = some n ∧ x.start + x.count - 1 ≤ n)
        ∨ (∀ l, laneOf s x.lane = some l → l.record.state = .excluded ∨ l.record.state = .absent)
        ∨ r.closeTime + wait ≤ now
      (¬passes → exec .waitTimerExpiry s = .next
        ((s.setNow now).setCapture { s.capture with waitTimer := some (r.closeTime + wait) }))
      ∧ (passes → size ≤ s.store.freeWords → ∃ plan, exec .waitTimerExpiry s = .next
          ((((s.setNow now).setQueue (before ++ { r with status := .capturing, plan := plan } :: after)).setStore
            { s.store with writePos := (s.store.writePos + size) % 65536
                           freeWords := s.store.freeWords - size }).setCapture
            { active := some { next := 1, storeError := false }, waitTimer := none })
        ∧ plan.length = r.plan.length
        ∧ ∀ (i : Nat) (x : PlanEntry), r.plan[i]? = some x → plan[i]? =
            some { x with extentOffset := some ((s.store.writePos + ((r.plan.take i).map PlanEntry.count).sum) % 65536) })
      ∧ (passes → s.store.freeWords < size → ∃ t, exec .waitTimerExpiry s = .next t
          ∧ t.queue[before.length]? = some { r with status := .noSpace } ∧ t.notice.isSet .eventReady = true)

/-- COPY_STEP (R128 to R130). Each index of the span gives its store word and its omit count by the table of R128; the next entry
follows, or the record becomes COMPLETE or PARTIAL with EVENT_READY, and the next candidate is tested (R125, R126). A ring word
that fails its ECC check is copied as the missing marker; the first of a capture sets the store error flag and takes a STORE_ECC
fault: where that leaves the engine running, the step goes on as with the flag set before, and where it freezes the engine, the
capture ends at that index (R129, R132). With no capture in progress the line only settles (assumption 1). -/
def Obligations.CopyStepsCopy : Prop :=
  (∀ (s : State) (a : ActiveCapture) (lane i : Nat), s.capture.active = some a → a.storeError = false →
    copyEccFailure lane i s = takeFault .capture (.ring lane i)
      (s.setCapture { s.capture with active := some { a with storeError := true } }))
  ∧ (∀ s : State, s.resetHeld = false → s.capture.active = none → exec .copyStep s = .next (settleLine s))
  ∧ ∀ (s : State) (a : ActiveCapture) (before : List EventRecord) (r : EventRecord) (after : List EventRecord)
      (e : PlanEntry) (o : Nat), s.resetHeld = false → s.notice.frozen = false → s.capture.active = some a →
    s.queue = before ++ r :: after → r.status = .capturing → (∀ x ∈ before, x.status ≠ .capturing) → 1 ≤ a.next →
    r.plan[a.next - 1]? = some e → e.extentOffset = some o → e.count ≤ 65536 →
    let read := fun j => (ringOf s e.lane).readSample (e.start + j)
    let copied := fun (n : Nat) (words : Memory StoreWord) =>
      (∀ j < n, Memory.read StoreWord.unwritten words ((o + j) % 65536) =
        { sample := match read j with | .sample x => x | _ => missingMarker, eccOk := true })
      ∧ ∀ w, (∀ j < n, w ≠ (o + j) % 65536) →
          Memory.read StoreWord.unwritten words w = Memory.read StoreWord.unwritten s.store.words w
    let flagged := s.setCapture { s.capture with active := some { a with storeError := true } }
    (∀ j, a.storeError = false → j < e.count → read j = .eccFailure → (∀ i < j, read i ≠ .eccFailure) →
      let met := takeFault .capture (.ring e.lane (e.start + j)) flagged
      (met.notice.frozen = false → exec .copyStep s = exec .copyStep met)
      ∧ (met.notice.frozen = true → ∃ words, copied (j + 1) words ∧ exec .copyStep s = .next (settleLine
          (takeFault .capture (.ring e.lane (e.start + j)) (flagged.setStore { s.store with words := words })))))
    ∧ (a.storeError = true ∨ (∀ j < e.count, read j ≠ .eccFailure) →
      let entry := { e with
        omitStart := ((List.range e.count).filter fun j => read j == .older).length
        omitEnd := ((List.range e.count).filter fun j => read j == .notReceived).length }
      let plan := r.plan.set (a.next - 1) entry
      ∃ words, copied e.count words
        ∧ (a.next < r.plan.length → exec .copyStep s = .next (settleLine
            (((s.setStore { s.store with words := words }).setQueue (before ++ { r with plan := plan } :: after)).setCapture
              { s.capture with active := some { a with next := a.next + 1 } })))
        ∧ (r.plan.length ≤ a.next → ∃ t, exec .copyStep s = .next t
            ∧ t.store.words = words ∧ t.notice.isSet .eventReady = true
            ∧ ∃ done, done = { r with
                  plan := plan
                  status := if a.storeError = false ∧ ∀ x ∈ plan, x.omitStart = 0 ∧ x.omitEnd = 0 then .complete
                            else .partialCopy }
              ∧ t.queue[before.length]? = some done
              ∧ WaitTested t { queue := before ++ done :: after, store := { s.store with words := words }
                               capture := { active := none, waitTimer := none } } t.captures))

/-! ## The frame of every row -/

/-- Every row leaves every part of the state as it stands, but those its row of `mayChange` names. -/
def Obligations.RowsLeaveOtherParts : Prop :=
  ∀ (i : Instr) (s t : State), exec i s = .next t → ∀ p : Part, p ∉ mayChange i → p.same s t

/-! ## Invariants -/

/-- Every step keeps the queues within their depths, the place a close has reserved counted in (R106, R118, R146 to R149), the
account of the Snippet Store: free words and extents make up its 65,536 words (R122), and the serials of the queued records
consecutive, the serial counter next (R110). -/
def Obligations.QueuesAndStoreStayRight : Prop :=
  ∀ s t : State, step s = .next t →
    (QueuesBounded s → QueuesBounded t) ∧ (StoreAccounts s → StoreAccounts t) ∧ (SerialsFollow s → SerialsFollow t)

/-- Every step keeps every table and addressed store in its canonical form. -/
def Obligations.MemoriesStayCanonical : Prop :=
  ∀ s t : State, MemoriesCanonical s → step s = .next t → MemoriesCanonical t

/-- Every step keeps the selector on the ACTIVE bank, a pending switch on a READY one, a running scan with an ACTIVE bank, and the
bank in validation LOADING; and while a bank stays READY or ACTIVE, its contents stay (R47, R53, R61). Every step keeps a tick
scan in flight on the cursor tick of a scan that runs, and a close in progress that of a DECLARED event in an engine that is not
FROZEN, given the invariant of O58 (R106, R175); and neither the cursor nor a cut-off tick moves back, except that a start returns
them to none and a change of TICK_LEN the cut-offs (R67), for a cursor below the last 48-bit count (assumption 8). -/
def Obligations.SelectorStaysRight : Prop :=
  (∀ s t : State, SelectorAgrees s → step s = .next t → SelectorAgrees t
    ∧ ∀ bank, (s.banks.get bank).state = .ready ∨ (s.banks.get bank).state = .active →
        (t.banks.get bank).state = .ready ∨ (t.banks.get bank).state = .active →
        { t.banks.get bank with state := (s.banks.get bank).state } = s.banks.get bank)
  ∧ ∀ s t : State, ScanAgrees s → FrozenAgrees s → step s = .next t → ScanAgrees t
    ∧ (∀ x, s.scan.cursor = some x → x + 1 < 2 ^ 48 → startInFront s = false → ∃ y, t.scan.cursor = some y ∧ x ≤ y)
    ∧ ∀ lane x, Memory.find s.scan.cutoffs lane = some x → startInFront s = false →
        t.params.lane.tickLen = s.params.lane.tickLen → ∃ y, Memory.find t.scan.cutoffs lane = some y ∧ x ≤ y

/-- Every step keeps what the FROZEN condition means for the scan, the captures, the records and the command in execution (R72,
R132, R158, R175); and only a cold start and a RESTART leave the FROZEN condition. -/
def Obligations.FrozenStaysFrozen : Prop :=
  (∀ s t : State, FrozenAgrees s → step s = .next t → FrozenAgrees t)
  ∧ ∀ s t : State, s.notice.frozen = true → step s = .next t → startInFront s = false → t.notice.frozen = true

/-- Every step keeps each stored parameter within its range (R164), and the Lane Map binding its numbers to distinct station
channels (R1). -/
def Obligations.ParametersAndMapStayRight : Prop :=
  ∀ s t : State, step s = .next t →
    (ParamsInRange s.params → ParamsInRange t.params) ∧ (MapDistinct s → MapDistinct t)

/-- Each invariant holds right after a cold start. -/
def Obligations.InvariantsHoldAtReset : Prop :=
  QueuesBounded State.reset ∧ MemoriesCanonical State.reset ∧ SelectorAgrees State.reset ∧ StoreAccounts State.reset
    ∧ FrozenAgrees State.reset ∧ ParamsInRange State.reset.params ∧ MapDistinct State.reset
    ∧ SerialsFollow State.reset ∧ ScanAgrees State.reset
end

