-- ==== Sys2Proof/Laws/Memory.lean ====
section
/-! SUPPORT. What the operations of a sparse memory do: the entry found after each, and the canonical form kept by each. -/

namespace Sys2Proof.Machine

variable {α : Type}

/-! ## What is found -/

@[simp] theorem Memory.find_nil (k : Nat) : Memory.find ([] : Memory α) k = none := rfl

theorem Memory.find_put (m : Memory α) (k a : Nat) (v : α) :
    Memory.find (Memory.put m k v) a = if a = k then some v else Memory.find m a := by
  induction m with
  | nil => simp [Memory.put, Memory.find]
  | cons e t ih =>
    obtain ⟨j, w⟩ := e
    simp only [Memory.put]
    split_ifs with h1 h2 h3 h3 <;> simp_all [Memory.find]

@[simp] theorem Memory.find_put_same (m : Memory α) (k : Nat) (v : α) : Memory.find (Memory.put m k v) k = some v := by
  simp [Memory.find_put]

theorem Memory.find_eraseWhere (m : Memory α) (gone : Nat → Bool) (a : Nat) :
    Memory.find (Memory.eraseWhere m gone) a = if gone a then none else Memory.find m a := by
  induction m with
  | nil => simp [Memory.eraseWhere, Memory.find]
  | cons e t ih =>
    obtain ⟨j, w⟩ := e
    simp only [Memory.eraseWhere, List.filter_cons] at ih ⊢
    by_cases hj : gone j <;> by_cases ha : a = j <;> simp_all [Memory.find]

theorem Memory.find_erase (m : Memory α) (k a : Nat) :
    Memory.find (Memory.erase m k) a = if a = k then none else Memory.find m a := by
  have h := Memory.find_eraseWhere m (fun x => x == k) a
  simpa [Memory.eraseWhere, Memory.erase, bne] using h

theorem Memory.read_write [DecidableEq α] (d : α) (m : Memory α) (k a : Nat) (v : α) :
    Memory.read d (Memory.write d m k v) a = if a = k then v else Memory.read d m a := by
  unfold Memory.read Memory.write
  by_cases hv : v = d <;> by_cases ha : a = k <;> simp_all [Memory.find_erase, Memory.find_put]

theorem Memory.find_modify (m : Memory α) (k a : Nat) (f : α → α) :
    Memory.find (Memory.modify m k f) a = if a = k then (Memory.find m a).map f else Memory.find m a := by
  induction m with
  | nil => simp [Memory.modify, Memory.find]
  | cons e t ih =>
    obtain ⟨j, w⟩ := e
    simp only [Memory.modify, List.map_cons] at ih ⊢
    by_cases hj : j = k <;> by_cases ha : a = j <;> simp_all [Memory.find]

theorem Memory.find_mapValues (m : Memory α) (f : α → α) (a : Nat) :
    Memory.find (Memory.mapValues m f) a = (Memory.find m a).map f := by
  induction m with
  | nil => simp [Memory.mapValues, Memory.find]
  | cons e t ih =>
    obtain ⟨j, w⟩ := e
    simp only [Memory.mapValues, List.map_cons] at ih ⊢
    by_cases ha : a = j <;> simp_all [Memory.find]

/-! ## The canonical form -/

theorem Memory.rising_iff (m : Memory α) : Memory.rising m = true ↔ m.Pairwise fun e f => e.1 < f.1 := by
  induction m with
  | nil => simp [Memory.rising]
  | cons e t ih =>
    obtain ⟨j, w⟩ := e
    cases t with
    | nil => simp [Memory.rising]
    | cons f u =>
      obtain ⟨k, x⟩ := f
      simp only [Memory.rising, Bool.and_eq_true, decide_eq_true_eq, List.pairwise_cons] at ih ⊢
      constructor
      · rintro ⟨h, hr⟩
        have hp := ih.1 hr
        refine ⟨?_, hp⟩
        intro g hg
        rcases List.mem_cons.1 hg with rfl | hg
        · exact h
        · exact lt_trans h (hp.1 g hg)
      · rintro ⟨h, hp⟩
        exact ⟨h _ (List.mem_cons_self ..), ih.2 hp⟩

theorem Memory.wf_iff [DecidableEq α] (d : α) (m : Memory α) :
    Memory.wf d m = true ↔ (m.Pairwise fun e f => e.1 < f.1) ∧ ∀ e ∈ m, e.2 ≠ d := by
  simp [Memory.wf, Memory.rising_iff]

theorem Memory.put_mem (m : Memory α) (k : Nat) (v : α) (e : Nat × α) (h : e ∈ Memory.put m k v) :
    e = (k, v) ∨ e ∈ m := by
  induction m with
  | nil => simpa [Memory.put] using h
  | cons f t ih =>
    obtain ⟨j, w⟩ := f
    simp only [Memory.put] at h
    split_ifs at h <;> simp only [List.mem_cons] at h ⊢ <;> tauto

theorem Memory.rising_put (m : Memory α) (k : Nat) (v : α) (h : Memory.rising m = true) :
    Memory.rising (Memory.put m k v) = true := by
  rw [Memory.rising_iff] at h ⊢
  induction m with
  | nil => simp [Memory.put]
  | cons f t ih =>
    obtain ⟨j, w⟩ := f
    simp only [Memory.put]
    rw [List.pairwise_cons] at h
    split_ifs with h1 h2
    · refine List.pairwise_cons.2 ⟨?_, List.pairwise_cons.2 h⟩
      intro g hg
      rcases List.mem_cons.1 hg with rfl | hg
      · exact h1
      · exact lt_trans h1 (h.1 g hg)
    · subst h2; exact List.pairwise_cons.2 h
    · refine List.pairwise_cons.2 ⟨?_, ih h.2⟩
      intro g hg
      rcases Memory.put_mem t k v g hg with rfl | hg
      · show j < k; omega
      · exact h.1 g hg

theorem Memory.rising_eraseWhere (m : Memory α) (gone : Nat → Bool) (h : Memory.rising m = true) :
    Memory.rising (Memory.eraseWhere m gone) = true := by
  rw [Memory.rising_iff] at h ⊢
  exact h.sublist List.filter_sublist

theorem Memory.rising_erase (m : Memory α) (k : Nat) (h : Memory.rising m = true) :
    Memory.rising (Memory.erase m k) = true := by
  rw [Memory.rising_iff] at h ⊢
  exact h.sublist List.filter_sublist

theorem Memory.rising_mapValues (m : Memory α) (f : α → α) (h : Memory.rising m = true) :
    Memory.rising (Memory.mapValues m f) = true := by
  rw [Memory.rising_iff] at h ⊢
  simpa [Memory.mapValues, List.pairwise_map] using h

theorem Memory.rising_modify (m : Memory α) (k : Nat) (f : α → α) (h : Memory.rising m = true) :
    Memory.rising (Memory.modify m k f) = true := by
  rw [Memory.rising_iff] at h ⊢
  rw [Memory.modify, List.pairwise_map]
  refine h.imp ?_
  intro a b hab
  split_ifs <;> simpa using hab

@[simp] theorem Memory.wf_nil [DecidableEq α] (d : α) : Memory.wf d ([] : Memory α) = true := rfl

theorem Memory.wf_erase [DecidableEq α] (d : α) (m : Memory α) (k : Nat) (h : Memory.wf d m = true) :
    Memory.wf d (Memory.erase m k) = true := by
  rw [Memory.wf_iff] at h ⊢
  exact ⟨h.1.sublist List.filter_sublist, fun e he => h.2 e (List.mem_of_mem_filter he)⟩

theorem Memory.wf_eraseWhere [DecidableEq α] (d : α) (m : Memory α) (gone : Nat → Bool) (h : Memory.wf d m = true) :
    Memory.wf d (Memory.eraseWhere m gone) = true := by
  rw [Memory.wf_iff] at h ⊢
  exact ⟨h.1.sublist List.filter_sublist, fun e he => h.2 e (List.mem_of_mem_filter he)⟩

theorem Memory.wf_eraseRun [DecidableEq α] (d : α) (m : Memory α) (depth start n : Nat) (h : Memory.wf d m = true) :
    Memory.wf d (Memory.eraseRun m depth start n) = true := by
  unfold Memory.eraseRun
  split_ifs
  · rfl
  · exact Memory.wf_eraseWhere d m _ h

/-- A write keeps the canonical form. -/
theorem Memory.wf_write [DecidableEq α] (d : α) (m : Memory α) (k : Nat) (v : α) (h : Memory.wf d m = true) :
    Memory.wf d (Memory.write d m k v) = true := by
  unfold Memory.write
  split_ifs with hv
  · exact Memory.wf_erase d m k h
  · rw [Memory.wf_iff] at h ⊢
    refine ⟨(Memory.rising_iff _).1 (Memory.rising_put m k v ((Memory.rising_iff _).2 h.1)), ?_⟩
    intro e he
    rcases Memory.put_mem m k v e he with rfl | he
    · exact hv
    · exact h.2 e he

theorem Memory.wf_writeRun [DecidableEq α] (d : α) (size : Nat) (vs : List α) (m : Memory α) (k : Nat)
    (h : Memory.wf d m = true) : Memory.wf d (Memory.writeRun d size m k vs) = true := by
  induction vs generalizing m k with
  | nil => exact h
  | cons v vs ih => exact ih _ _ (Memory.wf_write d m _ v h)

theorem writeCells_wf (cutoff : Option Nat) (cs : List Nat) (m : Memory TrackCell) (u : Nat)
    (h : Memory.wf TrackCell.absent m = true) : Memory.wf TrackCell.absent (writeCells cutoff m u cs) = true := by
  induction cs generalizing m u with
  | nil => exact h
  | cons c cs ih =>
    unfold writeCells
    apply ih
    split_ifs
    · exact Memory.wf_write _ m _ _ h
    · exact h

end Sys2Proof.Machine
end

