-- ==== Sys2Proof/Laws/Blocks.lean ====
section
/-! SUPPORT. What the shared operations of an accepted block do: the filter over a block, its cells, and what a track and a
ring answer after the block has been written (2.1, R38, R40, R41, R24, R25). -/

namespace Sys2Proof.Machine

/-! ## The filter over a block (R30) -/

/-- The filter after each sample, from the filter before the block (R30). -/
theorem cfBlock_samples (v : FilterValues) (state : LaneState) (gain : Nat) (xs : List Int) (f : Filter) :
    ∃ fs : Nat → Filter, fs 0 = f ∧ fs xs.length = (cfBlock v state gain f xs).filter
      ∧ (∀ i < xs.length, fs (i + 1) = (cfSample v state gain (fs i) (xs.getD i 0)).1
          ∧ (cfBlock v state gain f xs).values[i]? = some (cfSample v state gain (fs i) (xs.getD i 0)).2.1)
      ∧ (cfBlock v state gain f xs).values.length = xs.length
      ∧ (cfBlock v state gain f xs).saturations
        = ((List.range xs.length).filter fun i => (cfSample v state gain (fs i) (xs.getD i 0)).2.2).length := by
  induction xs generalizing f with
  | nil => exact ⟨fun _ => f, rfl, rfl, by simp, rfl, rfl⟩
  | cons x xs ih =>
    obtain ⟨fs, h0, hn, hi, hl, hs⟩ := ih (cfSample v state gain f x).1
    refine ⟨fun i => if i = 0 then f else fs (i - 1), rfl, by simpa [cfBlock] using hn, ?_, by simpa [cfBlock] using hl, ?_⟩
    · intro i hlt
      cases i with
      | zero => simp [h0, cfBlock]
      | succ i =>
        have := hi i (by simpa using hlt)
        simpa [cfBlock] using this
    · rw [List.length_cons, List.range_succ_eq_map, List.filter_cons, List.filter_map, List.getD_cons_zero]
      simp only [cfBlock, hs]
      have hc : (List.filter ((fun i => (cfSample v state gain (if i = 0 then f else fs (i - 1)) ((x :: xs).getD i 0)).2.2)
          ∘ Nat.succ) (List.range xs.length))
          = List.filter (fun i => (cfSample v state gain (fs i) (xs.getD i 0)).2.2) (List.range xs.length) := by
        congr 1
      rw [hc]
      by_cases h : (cfSample v state gain f x).2.2 <;> simp [h, Nat.add_comm]

/-! ## Cells (R38) -/

theorem le_foldl_max (cs : List Nat) (a : Nat) : a ≤ cs.foldl max a ∧ ∀ c ∈ cs, c ≤ cs.foldl max a := by
  induction cs generalizing a with
  | nil => simp
  | cons x xs ih =>
    obtain ⟨h1, h2⟩ := ih (max a x)
    simp only [List.foldl_cons, List.mem_cons]
    refine ⟨by omega, ?_⟩
    rintro c (rfl | hc)
    · omega
    · exact h2 c hc

theorem foldl_max_mem (cs : List Nat) (a : Nat) : cs.foldl max a = a ∨ cs.foldl max a ∈ cs := by
  induction cs generalizing a with
  | nil => simp
  | cons x xs ih =>
    simp only [List.foldl_cons, List.mem_cons]
    rcases ih (max a x) with h | h
    · rw [h]; omega
    · tauto

/-- The largest of some values is at least each of them. -/
theorem le_largest {cs : List Nat} {c : Nat} (h : c ∈ cs) : c ≤ largest cs := (le_foldl_max cs 0).2 c h

/-- The largest of some values is one of them. -/
theorem largest_mem {cs : List Nat} (h : cs ≠ []) : largest cs ∈ cs := by
  rcases foldl_max_mem cs 0 with h0 | h1
  · cases cs with
    | nil => exact absurd rfl h
    | cons x xs =>
      have := le_largest (List.mem_cons_self (a := x) (l := xs))
      have h2 : largest (x :: xs) = 0 := h0
      rw [h2] at this ⊢
      have : x = 0 := by omega
      simp [this]
  · exact h1

@[simp] theorem cellsOf_length (d n : Nat) (cs : List Nat) : (cellsOf d n cs).length = n := by
  induction n generalizing cs with
  | zero => rfl
  | succ n ih => simp [cellsOf, ih]

/-- Cell `i` is the largest of its own `d` values. -/
theorem cellsOf_getD (d n i : Nat) (cs : List Nat) (h : i < n) :
    (cellsOf d n cs).getD i 0 = largest ((cs.drop (i * d)).take d) := by
  induction n generalizing cs i with
  | zero => omega
  | succ n ih =>
    cases i with
    | zero => simp [cellsOf]
    | succ i =>
      have := ih i (cs.drop d) (by omega)
      simp only [cellsOf, List.getD_cons_succ, this, List.drop_drop]
      congr 3
      ring

/-- A block's cells: each tick's is the largest CF value among its samples (R38). -/
theorem blockCells_largest {d : Nat} (hd : d ∈ [1, 2, 4, 8, 16]) {cs : List Nat} (hc : cs.length = 16) :
    (blockCells d cs).length = 16 / d ∧ ∀ i < 16 / d,
      (∀ j < d, cs.getD (d * i + j) 0 ≤ (blockCells d cs).getD i 0)
      ∧ ∃ j < d, (blockCells d cs).getD i 0 = cs.getD (d * i + j) 0 := by
  refine ⟨cellsOf_length _ _ _, ?_⟩
  intro i hi
  have hpos : 0 < d := by simp at hd; omega
  have hbound : d * i + d ≤ 16 := by
    have : (i + 1) * d ≤ 16 := (Nat.le_div_iff_mul_le hpos).1 hi
    nlinarith
  rw [blockCells, cellsOf_getD _ _ _ _ hi]
  have hget : ∀ j < d, ((cs.drop (i * d)).take d)[j]? = some (cs.getD (d * i + j) 0) := by
    intro j hj
    have hlt : i * d + j < cs.length := by rw [hc]; nlinarith
    rw [List.getElem?_take_of_lt hj, List.getElem?_drop, List.getElem?_eq_getElem hlt, mul_comm d i, List.getD_eq_getElem _ _ hlt]
  constructor
  · intro j hj
    exact le_largest (List.mem_of_getElem? (hget j hj))
  · have hne : (cs.drop (i * d)).take d ≠ [] := by
      intro h
      have := hget 0 hpos
      rw [h] at this
      simp at this
    obtain ⟨j, hj, hv⟩ := List.getElem_of_mem (largest_mem hne)
    have hjd : j < d := lt_of_lt_of_le hj (List.length_take_le _ _)
    refine ⟨j, hjd, ?_⟩
    have := hget j hjd
    rw [List.getElem?_eq_getElem hj, hv] at this
    exact Option.some.inj this

/-! ## Runs of positions -/

/-- A run of fewer than `size` indices meets the position of index `u` exactly where it holds an index of that position. -/
theorem inRun_iff {size start n u : Nat} (hs : 0 < size) :
    inRun size start n (u % size) = true ↔ ∃ j < n, (start + j) % size = u % size ∧ j < size := by
  unfold inRun
  have h1 : start % size < size := Nat.mod_lt _ hs
  have h2 : u % size < size := Nat.mod_lt _ hs
  rw [decide_eq_true_eq]
  constructor
  · intro h
    refine ⟨(u % size + size - start % size) % size, h, ?_, Nat.mod_lt _ hs⟩
    rw [Nat.add_mod, Nat.mod_mod, ← Nat.add_mod]
    conv_lhs => rw [Nat.add_mod]
    have : start % size + (u % size + size - start % size) % size ≡ u % size [MOD size] := by
      have h3 : start % size + (u % size + size - start % size) = u % size + size := by omega
      calc start % size + (u % size + size - start % size) % size
          ≡ start % size + (u % size + size - start % size) [MOD size] :=
            Nat.ModEq.add_left _ (Nat.mod_modEq _ _)
        _ = u % size + size := h3
        _ ≡ u % size [MOD size] := by simp [Nat.ModEq]
    simpa [Nat.ModEq, Nat.add_mod] using this
  · rintro ⟨j, hj, he, hlt⟩
    have : (u % size + size - start % size) % size = j := by
      rw [← he, Nat.add_mod, Nat.mod_eq_of_lt hlt]
      by_cases hc : start % size + j < size
      · rw [Nat.mod_eq_of_lt hc]
        have : start % size + j + size - start % size = j + size := by omega
        rw [this, Nat.add_mod_right, Nat.mod_eq_of_lt hlt]
      · have h4 : (start % size + j) % size = start % size + j - size := by
          rw [Nat.mod_eq_sub_mod (by omega), Nat.mod_eq_of_lt (by omega)]
        rw [h4]
        have : start % size + j - size + size - start % size = j := by omega
        rw [this, Nat.mod_eq_of_lt hlt]
    omega

theorem Memory.read_eraseWhere {α : Type} (d : α) (m : Memory α) (gone : Nat → Bool) (a : Nat) :
    Memory.read d (Memory.eraseWhere m gone) a = if gone a then d else Memory.read d m a := by
  unfold Memory.read
  rw [Memory.find_eraseWhere]
  split <;> rfl

/-- An index of an erased run reads as unlisted. -/
theorem Memory.read_eraseRun_of_mem {α : Type} (d : α) (m : Memory α) {depth start n u : Nat} (hd : 0 < depth)
    (h1 : start ≤ u) (h2 : u < start + n) : Memory.read d (Memory.eraseRun m depth start n) (u % depth) = d := by
  unfold Memory.eraseRun
  split_ifs with h
  · rfl
  · have : inRun depth start n (u % depth) = true :=
      (inRun_iff hd).2 ⟨u - start, by omega, by rw [Nat.add_sub_cancel' h1], by omega⟩
    rw [Memory.read_eraseWhere, this]
    rfl

/-- Two indices of one position less than `depth` apart are one index. -/
theorem eq_of_mod_eq {depth a b : Nat} (h : a % depth = b % depth) (h1 : a ≤ b) (h2 : b < a + depth) : a = b := by
  have h3 : (b - a) % depth = 0 := Nat.sub_mod_eq_zero_of_mod_eq h.symm
  rw [Nat.mod_eq_of_lt (by omega)] at h3
  omega

/-- An index before an erased run, within `depth` of the run's end, reads as before. -/
theorem Memory.read_eraseRun_of_lt {α : Type} (d : α) (m : Memory α) {depth start n u : Nat} (hd : 0 < depth)
    (h1 : u < start) (h2 : start + n ≤ u + depth) :
    Memory.read d (Memory.eraseRun m depth start n) (u % depth) = Memory.read d m (u % depth) := by
  unfold Memory.eraseRun
  rw [if_neg (by omega), Memory.read_eraseWhere, if_neg]
  intro h
  obtain ⟨j, hj, he, _⟩ := (inRun_iff hd).1 h
  have := eq_of_mod_eq he.symm (by omega) (by omega)
  omega

/-! ## Tracks (R40, R41) -/

/-- A position that no cell above the cut-off is written to reads as before. -/
theorem read_writeCells_of_not (cutoff : Option Nat) (cs : List Nat) (m : Memory TrackCell) (u x : Nat)
    (h : ∀ i < cs.length, (u + i) % Config.trackDepth = x % Config.trackDepth → cutoff.all (· < u + i) = false) :
    Memory.read TrackCell.absent (writeCells cutoff m u cs) (x % Config.trackDepth)
      = Memory.read TrackCell.absent m (x % Config.trackDepth) := by
  induction cs generalizing m u with
  | nil => rfl
  | cons c cs ih =>
    unfold writeCells
    rw [ih]
    · split_ifs with h1
      · rw [Memory.read_write, if_neg]
        intro h2
        have := h 0 (by simp) (by simpa using h2.symm)
        simp_all
      · rfl
    · intro i hi he
      have := h (i + 1) (by simpa using hi) (by rw [← he]; congr 1; omega)
      rw [← this]
      congr 2
      funext y
      congr 2
      omega

/-- A cell above the cut-off is written with its present mark and fresh parity (R41). -/
theorem read_writeCells_of_mem (cutoff : Option Nat) (cs : List Nat) (m : Memory TrackCell) (u i : Nat)
    (hl : cs.length ≤ Config.trackDepth) (hi : i < cs.length) (h : cutoff.all (· < u + i) = true) :
    Memory.read TrackCell.absent (writeCells cutoff m u cs) ((u + i) % Config.trackDepth)
      = { value := cs.getD i 0, present := true, parityOk := true } := by
  induction cs generalizing m u i with
  | nil => simp at hi
  | cons c cs ih =>
    unfold writeCells
    simp only [List.length_cons] at hl hi
    cases i with
    | zero =>
      rw [read_writeCells_of_not]
      · rw [if_pos (by simpa using h), Memory.read_write, if_pos (by simp)]
        rfl
      · intro j hj he
        have := eq_of_mod_eq (a := u + 0) (b := u + 1 + j) he.symm (by omega) (by omega)
        omega
    | succ i =>
      have := ih (if cutoff.all (· < u) then
        Memory.write TrackCell.absent m (u % Config.trackDepth) { value := c, present := true, parityOk := true } else m)
        (u + 1) i (by omega) (by omega) (by rw [← h]; congr 2; funext y; congr 2; omega)
      rw [show u + (i + 1) = u + 1 + i by omega]
      simpa using this

/-- What a held position answers, from the word it reads as (R40). -/
theorem Track.readCell_of_holds {t : Track} {u : Nat} {w : TrackCell} (h : holds Config.trackDepth t.newest u = true)
    (hw : Memory.read TrackCell.absent t.cells (u % Config.trackDepth) = w) :
    t.readCell u = if !w.parityOk then .parityFailure else if w.present then .value w.value else .absent := by
  subst hw
  unfold Track.readCell
  rw [if_pos h]

/-- A tick that the track does not hold is absent (R40). -/
theorem Track.readCell_of_not_holds {t : Track} {u : Nat} (h : ¬holds Config.trackDepth t.newest u = true) :
    t.readCell u = .absent := by
  unfold Track.readCell
  rw [if_neg h]

/-- What a track answers after a block's cells have been written into it: its newest tick is the block's last; a cell of the
block above the cut-off is present; below the first tick made new, nothing has changed; every other tick is absent (R40,
R41). -/
theorem Track.readCell_writeBlock (t : Track) (cutoff : Option Nat) (k0 : Nat) (cells : List Nat) (h1 : 1 ≤ cells.length)
    (hl : cells.length ≤ Config.trackDepth) (hf : ∀ n, t.newest = some n → n < k0) :
    (t.writeBlock cutoff k0 cells).newest = some (k0 + cells.length - 1)
    ∧ (∀ i < cells.length, cutoff.all (· < k0 + i) = true →
        (t.writeBlock cutoff k0 cells).readCell (k0 + i) = .value (cells.getD i 0))
    ∧ (∀ u, t.firstNew k0 ≤ u → (∀ i < cells.length, u = k0 + i → cutoff.all (· < k0 + i) = false) →
        (t.writeBlock cutoff k0 cells).readCell u = .absent)
    ∧ ∀ n u, t.newest = some n → u ≤ n →
        (t.writeBlock cutoff k0 cells).readCell u =
          if k0 + cells.length ≤ u + Config.trackDepth then t.readCell u else .absent := by
  have hfirst : t.firstNew k0 ≤ k0 := by
    unfold Track.firstNew
    split
    · exact le_rfl
    · rename_i n hn
      have := hf n hn
      omega
  refine ⟨rfl, ?_, ?_, ?_⟩
  · intro i hi hc
    have hh : holds Config.trackDepth (some (k0 + cells.length - 1)) (k0 + i) = true := by
      simp only [holds, Bool.and_eq_true, decide_eq_true_eq]
      omega
    rw [Track.readCell_of_holds (t := t.writeBlock cutoff k0 cells) hh (read_writeCells_of_mem cutoff cells _ k0 i hl hi hc)]
    rfl
  · intro u hu hn
    by_cases hh : holds Config.trackDepth (some (k0 + cells.length - 1)) u = true
    · have hb := hh
      simp only [holds, Bool.and_eq_true, decide_eq_true_eq] at hb
      rw [Track.readCell_of_holds (t := t.writeBlock cutoff k0 cells) (w := TrackCell.absent) hh]
      · rfl
      · show Memory.read TrackCell.absent (writeCells cutoff _ k0 cells) (u % Config.trackDepth) = _
        rw [read_writeCells_of_not]
        · exact Memory.read_eraseRun_of_mem TrackCell.absent t.cells (by decide) hu (by omega)
        · intro i hi he
          by_cases hle : u ≤ k0 + i
          · exact hn i hi (eq_of_mod_eq he.symm hle (by omega))
          · exact hn i hi (eq_of_mod_eq he (by omega) (by omega)).symm
    · exact Track.readCell_of_not_holds (t := t.writeBlock cutoff k0 cells) hh
  · intro n u hn hu
    have hk := hf n hn
    have hfn : t.firstNew k0 = n + 1 := by simp [Track.firstNew, hn]
    by_cases hw : k0 + cells.length ≤ u + Config.trackDepth
    · have h2 : holds Config.trackDepth (some (k0 + cells.length - 1)) u = true := by
        simp only [holds, Bool.and_eq_true, decide_eq_true_eq]
        omega
      have h3 : holds Config.trackDepth t.newest u = true := by
        simp only [hn, holds, Bool.and_eq_true, decide_eq_true_eq]
        omega
      rw [if_pos hw, Track.readCell_of_holds h3 rfl]
      refine Track.readCell_of_holds (t := t.writeBlock cutoff k0 cells) h2 ?_
      show Memory.read TrackCell.absent (writeCells cutoff _ k0 cells) (u % Config.trackDepth) = _
      rw [read_writeCells_of_not, hfn]
      · exact Memory.read_eraseRun_of_lt TrackCell.absent t.cells (by decide) (by omega) (by omega)
      · intro i hi he
        have := eq_of_mod_eq he.symm (by omega : u ≤ k0 + i) (by omega)
        omega
    · have h2 : ¬holds Config.trackDepth (some (k0 + cells.length - 1)) u = true := by
        simp only [holds, Bool.and_eq_true, decide_eq_true_eq]
        omega
      rw [if_neg hw]
      exact Track.readCell_of_not_holds (t := t.writeBlock cutoff k0 cells) h2

/-- The cells of a block at or below the cut-off (R41). -/
theorem lateCount_eq (cutoff : Option Nat) (k0 n : Nat) :
    lateCount cutoff k0 n = ((List.range n).filter fun i => cutoff.any fun c => k0 + i ≤ c).length := by
  cases cutoff with
  | none => simp [lateCount]
  | some c =>
    simp only [lateCount, Option.any_some]
    induction n with
    | zero => simp
    | succ n ih =>
      rw [List.range_succ, List.filter_append, List.length_append, ← ih]
      by_cases h : k0 + n ≤ c
      · simp only [List.filter_cons, h, decide_true, if_true, List.filter_nil, List.length_singleton]
        omega
      · simp only [List.filter_cons, h, decide_false, List.filter_nil]
        simp only [Bool.false_eq_true, if_false, List.length_nil]
        omega

/-! ## Rings (R24, R25) -/

/-- A run of words reads back, fewer than the ring holds. -/
theorem read_writeRun {α : Type} [DecidableEq α] (d : α) {depth : Nat} (vs : List α) (m : Memory α)
    (k : Nat) (hl : vs.length ≤ depth) :
    (∀ i < vs.length, Memory.read d (Memory.writeRun d depth m k vs) ((k + i) % depth) = vs.getD i d)
    ∧ ∀ x, (∀ i < vs.length, (k + i) % depth ≠ x % depth) →
        Memory.read d (Memory.writeRun d depth m k vs) (x % depth) = Memory.read d m (x % depth) := by
  induction vs generalizing m k with
  | nil => simp [Memory.writeRun]
  | cons v vs ih =>
    simp only [List.length_cons] at hl ⊢
    obtain ⟨ih1, ih2⟩ := ih (Memory.write d m (k % depth) v) (k + 1) (by omega)
    constructor
    · intro i hi
      cases i with
      | zero =>
        unfold Memory.writeRun
        rw [ih2 (k + 0), Memory.read_write, if_pos (by simp)]
        · rfl
        · intro j hj he
          have := eq_of_mod_eq (a := k + 0) (b := k + 1 + j) he.symm (by omega) (by omega)
          omega
      | succ i =>
        unfold Memory.writeRun
        rw [show k + (i + 1) = k + 1 + i by omega, ih1 i (by omega)]
        simp
    · intro x hx
      unfold Memory.writeRun
      rw [ih2 x, Memory.read_write, if_neg]
      · intro h
        exact hx 0 (by omega) (by simpa using h.symm)
      · intro i hi he
        exact hx (i + 1) (by omega) (by rw [← he]; congr 1; omega)

/-- What a held index answers, from the word it reads as (R24, R128, R129). -/
theorem Ring.readSample_of_holds {r : Ring} {n i : Nat} {w : RingWord} (hn : r.newest = some n) (h1 : i ≤ n)
    (h2 : n < i + Config.ringDepth) (hw : Memory.read RingWord.absent r.words (i % Config.ringDepth) = w) :
    r.readSample i = if !w.eccOk then .eccFailure else if w.present then .sample w.sample else .missing := by
  subst hw
  unfold Ring.readSample
  rw [hn]
  dsimp only
  rw [if_neg (by omega), if_neg (by omega)]

/-- What a ring answers after a block of samples: the block's samples, whatever stands before the block as it stood there, and
beyond these two not yet received, or older than the ring holds (R24). -/
theorem Ring.readSample_writeBlock (r : Ring) (tag : Nat) (xs : List Sample) (h1 : 1 ≤ xs.length)
    (hl : xs.length ≤ Config.ringDepth) :
    (r.writeBlock tag xs).newest = some (tag + xs.length - 1)
    ∧ (∀ i < xs.length, (r.writeBlock tag xs).readSample (tag + i) = .sample (xs.getD i 0))
    ∧ (∀ i, tag + xs.length ≤ i → (r.writeBlock tag xs).readSample i = .notReceived)
    ∧ (∀ i, i + Config.ringDepth < tag + xs.length → (r.writeBlock tag xs).readSample i = .older)
    ∧ ∀ i, i < tag → tag + xs.length ≤ i + Config.ringDepth → (r.writeBlock tag xs).readSample i =
        let w := Memory.read RingWord.absent r.words (i % Config.ringDepth)
        if !w.eccOk then .eccFailure else if w.present then .sample w.sample else .missing := by
  have hrw := read_writeRun RingWord.absent (depth := Config.ringDepth)
    (xs.map fun x => { sample := x, present := true, eccOk := true }) r.words tag (by simpa using hl)
  simp only [List.length_map] at hrw
  have hnew : (r.writeBlock tag xs).newest = some (tag + xs.length - 1) := rfl
  refine ⟨hnew, ?_, ?_, ?_, ?_⟩
  · intro i hi
    rw [Ring.readSample_of_holds hnew (by omega) (by omega) (hrw.1 i hi)]
    simp [List.getD_eq_getElem?_getD, List.getElem?_eq_getElem hi]
  · intro i hi
    unfold Ring.readSample
    rw [hnew]
    dsimp only
    rw [if_pos (by omega)]
  · intro i hi
    unfold Ring.readSample
    rw [hnew]
    dsimp only
    rw [if_neg (by omega), if_pos (by omega)]
  · intro i hi hw
    refine Ring.readSample_of_holds hnew (by omega) (by omega) (hrw.2 i ?_)
    intro j hj he
    have := eq_of_mod_eq he.symm (by omega : i ≤ tag + j) (by omega)
    omega

/-- Indices marked missing are missing after the block that follows them, and the older ones stand as they stood (R24, R25). -/
theorem Ring.readSample_markMissing_writeBlock (r : Ring) (start tag : Nat) (xs : List Sample) (h1 : 1 ≤ xs.length)
    (hl : xs.length ≤ Config.ringDepth) (hs : start ≤ tag) (i : Nat) (hi : i < tag)
    (hw : tag + xs.length ≤ i + Config.ringDepth) :
    (start ≤ i → ((r.markMissing start (tag - start)).writeBlock tag xs).readSample i = .missing)
    ∧ ∀ n, i < start → r.newest = some n → i ≤ n → n < tag →
        ((r.markMissing start (tag - start)).writeBlock tag xs).readSample i = r.readSample i := by
  have h := (Ring.readSample_writeBlock (r.markMissing start (tag - start)) tag xs h1 hl).2.2.2.2 i hi hw
  constructor
  · intro hsi
    rw [h]
    have : Memory.read RingWord.absent (r.markMissing start (tag - start)).words (i % Config.ringDepth) = RingWord.absent :=
      Memory.read_eraseRun_of_mem RingWord.absent r.words (by decide) hsi (by omega)
    rw [this]
    rfl
  · intro n hsi hn hin hnt
    have : Memory.read RingWord.absent (r.markMissing start (tag - start)).words (i % Config.ringDepth)
        = Memory.read RingWord.absent r.words (i % Config.ringDepth) :=
      Memory.read_eraseRun_of_lt RingWord.absent r.words (by decide) hsi (by omega)
    rw [h, this, Ring.readSample_of_holds hn hin (by omega) rfl]

end Sys2Proof.Machine
end

