-- ==== Sys2Proof/Laws/State.lean ====
section
/-! SUPPORT. One lemma per field per update of State: a field after its own update holds the new value, and every other field
is as before. All are true by rfl. -/

namespace Sys2Proof.Machine

/-! `State.setPending` -/
@[simp] theorem State.pending_setPending (s : State) (x : List Instr) : (s.setPending x).pending = x := rfl
@[simp] theorem State.resetHeld_setPending (s : State) (x : List Instr) : (s.setPending x).resetHeld = s.resetHeld := rfl
@[simp] theorem State.now_setPending (s : State) (x : List Instr) : (s.setPending x).now = s.now := rfl
@[simp] theorem State.line_setPending (s : State) (x : List Instr) : (s.setPending x).line = s.line := rfl
@[simp] theorem State.cmd_setPending (s : State) (x : List Instr) : (s.setPending x).cmd = s.cmd := rfl
@[simp] theorem State.params_setPending (s : State) (x : List Instr) : (s.setPending x).params = s.params := rfl
@[simp] theorem State.tracker_setPending (s : State) (x : List Instr) : (s.setPending x).tracker = s.tracker := rfl
@[simp] theorem State.tracks_setPending (s : State) (x : List Instr) : (s.setPending x).tracks = s.tracks := rfl
@[simp] theorem State.rings_setPending (s : State) (x : List Instr) : (s.setPending x).rings = s.rings := rfl
@[simp] theorem State.banks_setPending (s : State) (x : List Instr) : (s.setPending x).banks = s.banks := rfl
@[simp] theorem State.scan_setPending (s : State) (x : List Instr) : (s.setPending x).scan = s.scan := rfl
@[simp] theorem State.det_setPending (s : State) (x : List Instr) : (s.setPending x).det = s.det := rfl
@[simp] theorem State.queue_setPending (s : State) (x : List Instr) : (s.setPending x).queue = s.queue := rfl
@[simp] theorem State.store_setPending (s : State) (x : List Instr) : (s.setPending x).store = s.store := rfl
@[simp] theorem State.capture_setPending (s : State) (x : List Instr) : (s.setPending x).capture = s.capture := rfl
@[simp] theorem State.notice_setPending (s : State) (x : List Instr) : (s.setPending x).notice = s.notice := rfl
@[simp] theorem State.setPending_self (s : State) : s.setPending s.pending = s := rfl
@[simp] theorem State.setPending_setPending (s : State) (x y : List Instr) : (s.setPending x).setPending y = s.setPending y := rfl

/-! `State.setResetHeld` -/
@[simp] theorem State.pending_setResetHeld (s : State) (x : Bool) : (s.setResetHeld x).pending = s.pending := rfl
@[simp] theorem State.resetHeld_setResetHeld (s : State) (x : Bool) : (s.setResetHeld x).resetHeld = x := rfl
@[simp] theorem State.now_setResetHeld (s : State) (x : Bool) : (s.setResetHeld x).now = s.now := rfl
@[simp] theorem State.line_setResetHeld (s : State) (x : Bool) : (s.setResetHeld x).line = s.line := rfl
@[simp] theorem State.cmd_setResetHeld (s : State) (x : Bool) : (s.setResetHeld x).cmd = s.cmd := rfl
@[simp] theorem State.params_setResetHeld (s : State) (x : Bool) : (s.setResetHeld x).params = s.params := rfl
@[simp] theorem State.tracker_setResetHeld (s : State) (x : Bool) : (s.setResetHeld x).tracker = s.tracker := rfl
@[simp] theorem State.tracks_setResetHeld (s : State) (x : Bool) : (s.setResetHeld x).tracks = s.tracks := rfl
@[simp] theorem State.rings_setResetHeld (s : State) (x : Bool) : (s.setResetHeld x).rings = s.rings := rfl
@[simp] theorem State.banks_setResetHeld (s : State) (x : Bool) : (s.setResetHeld x).banks = s.banks := rfl
@[simp] theorem State.scan_setResetHeld (s : State) (x : Bool) : (s.setResetHeld x).scan = s.scan := rfl
@[simp] theorem State.det_setResetHeld (s : State) (x : Bool) : (s.setResetHeld x).det = s.det := rfl
@[simp] theorem State.queue_setResetHeld (s : State) (x : Bool) : (s.setResetHeld x).queue = s.queue := rfl
@[simp] theorem State.store_setResetHeld (s : State) (x : Bool) : (s.setResetHeld x).store = s.store := rfl
@[simp] theorem State.capture_setResetHeld (s : State) (x : Bool) : (s.setResetHeld x).capture = s.capture := rfl
@[simp] theorem State.notice_setResetHeld (s : State) (x : Bool) : (s.setResetHeld x).notice = s.notice := rfl
@[simp] theorem State.setResetHeld_self (s : State) : s.setResetHeld s.resetHeld = s := rfl
@[simp] theorem State.setResetHeld_setResetHeld (s : State) (x y : Bool) : (s.setResetHeld x).setResetHeld y = s.setResetHeld y := rfl

/-! `State.setNow` -/
@[simp] theorem State.pending_setNow (s : State) (x : Nat) : (s.setNow x).pending = s.pending := rfl
@[simp] theorem State.resetHeld_setNow (s : State) (x : Nat) : (s.setNow x).resetHeld = s.resetHeld := rfl
@[simp] theorem State.now_setNow (s : State) (x : Nat) : (s.setNow x).now = x := rfl
@[simp] theorem State.line_setNow (s : State) (x : Nat) : (s.setNow x).line = s.line := rfl
@[simp] theorem State.cmd_setNow (s : State) (x : Nat) : (s.setNow x).cmd = s.cmd := rfl
@[simp] theorem State.params_setNow (s : State) (x : Nat) : (s.setNow x).params = s.params := rfl
@[simp] theorem State.tracker_setNow (s : State) (x : Nat) : (s.setNow x).tracker = s.tracker := rfl
@[simp] theorem State.tracks_setNow (s : State) (x : Nat) : (s.setNow x).tracks = s.tracks := rfl
@[simp] theorem State.rings_setNow (s : State) (x : Nat) : (s.setNow x).rings = s.rings := rfl
@[simp] theorem State.banks_setNow (s : State) (x : Nat) : (s.setNow x).banks = s.banks := rfl
@[simp] theorem State.scan_setNow (s : State) (x : Nat) : (s.setNow x).scan = s.scan := rfl
@[simp] theorem State.det_setNow (s : State) (x : Nat) : (s.setNow x).det = s.det := rfl
@[simp] theorem State.queue_setNow (s : State) (x : Nat) : (s.setNow x).queue = s.queue := rfl
@[simp] theorem State.store_setNow (s : State) (x : Nat) : (s.setNow x).store = s.store := rfl
@[simp] theorem State.capture_setNow (s : State) (x : Nat) : (s.setNow x).capture = s.capture := rfl
@[simp] theorem State.notice_setNow (s : State) (x : Nat) : (s.setNow x).notice = s.notice := rfl
@[simp] theorem State.setNow_self (s : State) : s.setNow s.now = s := rfl
@[simp] theorem State.setNow_setNow (s : State) (x y : Nat) : (s.setNow x).setNow y = s.setNow y := rfl

/-! `State.setLine` -/
@[simp] theorem State.pending_setLine (s : State) (x : Line) : (s.setLine x).pending = s.pending := rfl
@[simp] theorem State.resetHeld_setLine (s : State) (x : Line) : (s.setLine x).resetHeld = s.resetHeld := rfl
@[simp] theorem State.now_setLine (s : State) (x : Line) : (s.setLine x).now = s.now := rfl
@[simp] theorem State.line_setLine (s : State) (x : Line) : (s.setLine x).line = x := rfl
@[simp] theorem State.cmd_setLine (s : State) (x : Line) : (s.setLine x).cmd = s.cmd := rfl
@[simp] theorem State.params_setLine (s : State) (x : Line) : (s.setLine x).params = s.params := rfl
@[simp] theorem State.tracker_setLine (s : State) (x : Line) : (s.setLine x).tracker = s.tracker := rfl
@[simp] theorem State.tracks_setLine (s : State) (x : Line) : (s.setLine x).tracks = s.tracks := rfl
@[simp] theorem State.rings_setLine (s : State) (x : Line) : (s.setLine x).rings = s.rings := rfl
@[simp] theorem State.banks_setLine (s : State) (x : Line) : (s.setLine x).banks = s.banks := rfl
@[simp] theorem State.scan_setLine (s : State) (x : Line) : (s.setLine x).scan = s.scan := rfl
@[simp] theorem State.det_setLine (s : State) (x : Line) : (s.setLine x).det = s.det := rfl
@[simp] theorem State.queue_setLine (s : State) (x : Line) : (s.setLine x).queue = s.queue := rfl
@[simp] theorem State.store_setLine (s : State) (x : Line) : (s.setLine x).store = s.store := rfl
@[simp] theorem State.capture_setLine (s : State) (x : Line) : (s.setLine x).capture = s.capture := rfl
@[simp] theorem State.notice_setLine (s : State) (x : Line) : (s.setLine x).notice = s.notice := rfl
@[simp] theorem State.setLine_self (s : State) : s.setLine s.line = s := rfl
@[simp] theorem State.setLine_setLine (s : State) (x y : Line) : (s.setLine x).setLine y = s.setLine y := rfl

/-! `State.setCmd` -/
@[simp] theorem State.pending_setCmd (s : State) (x : CommandUnit) : (s.setCmd x).pending = s.pending := rfl
@[simp] theorem State.resetHeld_setCmd (s : State) (x : CommandUnit) : (s.setCmd x).resetHeld = s.resetHeld := rfl
@[simp] theorem State.now_setCmd (s : State) (x : CommandUnit) : (s.setCmd x).now = s.now := rfl
@[simp] theorem State.line_setCmd (s : State) (x : CommandUnit) : (s.setCmd x).line = s.line := rfl
@[simp] theorem State.cmd_setCmd (s : State) (x : CommandUnit) : (s.setCmd x).cmd = x := rfl
@[simp] theorem State.params_setCmd (s : State) (x : CommandUnit) : (s.setCmd x).params = s.params := rfl
@[simp] theorem State.tracker_setCmd (s : State) (x : CommandUnit) : (s.setCmd x).tracker = s.tracker := rfl
@[simp] theorem State.tracks_setCmd (s : State) (x : CommandUnit) : (s.setCmd x).tracks = s.tracks := rfl
@[simp] theorem State.rings_setCmd (s : State) (x : CommandUnit) : (s.setCmd x).rings = s.rings := rfl
@[simp] theorem State.banks_setCmd (s : State) (x : CommandUnit) : (s.setCmd x).banks = s.banks := rfl
@[simp] theorem State.scan_setCmd (s : State) (x : CommandUnit) : (s.setCmd x).scan = s.scan := rfl
@[simp] theorem State.det_setCmd (s : State) (x : CommandUnit) : (s.setCmd x).det = s.det := rfl
@[simp] theorem State.queue_setCmd (s : State) (x : CommandUnit) : (s.setCmd x).queue = s.queue := rfl
@[simp] theorem State.store_setCmd (s : State) (x : CommandUnit) : (s.setCmd x).store = s.store := rfl
@[simp] theorem State.capture_setCmd (s : State) (x : CommandUnit) : (s.setCmd x).capture = s.capture := rfl
@[simp] theorem State.notice_setCmd (s : State) (x : CommandUnit) : (s.setCmd x).notice = s.notice := rfl
@[simp] theorem State.setCmd_self (s : State) : s.setCmd s.cmd = s := rfl
@[simp] theorem State.setCmd_setCmd (s : State) (x y : CommandUnit) : (s.setCmd x).setCmd y = s.setCmd y := rfl

/-! `State.setParams` -/
@[simp] theorem State.pending_setParams (s : State) (x : Params) : (s.setParams x).pending = s.pending := rfl
@[simp] theorem State.resetHeld_setParams (s : State) (x : Params) : (s.setParams x).resetHeld = s.resetHeld := rfl
@[simp] theorem State.now_setParams (s : State) (x : Params) : (s.setParams x).now = s.now := rfl
@[simp] theorem State.line_setParams (s : State) (x : Params) : (s.setParams x).line = s.line := rfl
@[simp] theorem State.cmd_setParams (s : State) (x : Params) : (s.setParams x).cmd = s.cmd := rfl
@[simp] theorem State.params_setParams (s : State) (x : Params) : (s.setParams x).params = x := rfl
@[simp] theorem State.tracker_setParams (s : State) (x : Params) : (s.setParams x).tracker = s.tracker := rfl
@[simp] theorem State.tracks_setParams (s : State) (x : Params) : (s.setParams x).tracks = s.tracks := rfl
@[simp] theorem State.rings_setParams (s : State) (x : Params) : (s.setParams x).rings = s.rings := rfl
@[simp] theorem State.banks_setParams (s : State) (x : Params) : (s.setParams x).banks = s.banks := rfl
@[simp] theorem State.scan_setParams (s : State) (x : Params) : (s.setParams x).scan = s.scan := rfl
@[simp] theorem State.det_setParams (s : State) (x : Params) : (s.setParams x).det = s.det := rfl
@[simp] theorem State.queue_setParams (s : State) (x : Params) : (s.setParams x).queue = s.queue := rfl
@[simp] theorem State.store_setParams (s : State) (x : Params) : (s.setParams x).store = s.store := rfl
@[simp] theorem State.capture_setParams (s : State) (x : Params) : (s.setParams x).capture = s.capture := rfl
@[simp] theorem State.notice_setParams (s : State) (x : Params) : (s.setParams x).notice = s.notice := rfl
@[simp] theorem State.setParams_self (s : State) : s.setParams s.params = s := rfl
@[simp] theorem State.setParams_setParams (s : State) (x y : Params) : (s.setParams x).setParams y = s.setParams y := rfl

/-! `State.setTracker` -/
@[simp] theorem State.pending_setTracker (s : State) (x : Tracker) : (s.setTracker x).pending = s.pending := rfl
@[simp] theorem State.resetHeld_setTracker (s : State) (x : Tracker) : (s.setTracker x).resetHeld = s.resetHeld := rfl
@[simp] theorem State.now_setTracker (s : State) (x : Tracker) : (s.setTracker x).now = s.now := rfl
@[simp] theorem State.line_setTracker (s : State) (x : Tracker) : (s.setTracker x).line = s.line := rfl
@[simp] theorem State.cmd_setTracker (s : State) (x : Tracker) : (s.setTracker x).cmd = s.cmd := rfl
@[simp] theorem State.params_setTracker (s : State) (x : Tracker) : (s.setTracker x).params = s.params := rfl
@[simp] theorem State.tracker_setTracker (s : State) (x : Tracker) : (s.setTracker x).tracker = x := rfl
@[simp] theorem State.tracks_setTracker (s : State) (x : Tracker) : (s.setTracker x).tracks = s.tracks := rfl
@[simp] theorem State.rings_setTracker (s : State) (x : Tracker) : (s.setTracker x).rings = s.rings := rfl
@[simp] theorem State.banks_setTracker (s : State) (x : Tracker) : (s.setTracker x).banks = s.banks := rfl
@[simp] theorem State.scan_setTracker (s : State) (x : Tracker) : (s.setTracker x).scan = s.scan := rfl
@[simp] theorem State.det_setTracker (s : State) (x : Tracker) : (s.setTracker x).det = s.det := rfl
@[simp] theorem State.queue_setTracker (s : State) (x : Tracker) : (s.setTracker x).queue = s.queue := rfl
@[simp] theorem State.store_setTracker (s : State) (x : Tracker) : (s.setTracker x).store = s.store := rfl
@[simp] theorem State.capture_setTracker (s : State) (x : Tracker) : (s.setTracker x).capture = s.capture := rfl
@[simp] theorem State.notice_setTracker (s : State) (x : Tracker) : (s.setTracker x).notice = s.notice := rfl
@[simp] theorem State.setTracker_self (s : State) : s.setTracker s.tracker = s := rfl
@[simp] theorem State.setTracker_setTracker (s : State) (x y : Tracker) : (s.setTracker x).setTracker y = s.setTracker y := rfl

/-! `State.setTracks` -/
@[simp] theorem State.pending_setTracks (s : State) (x : Memory Track) : (s.setTracks x).pending = s.pending := rfl
@[simp] theorem State.resetHeld_setTracks (s : State) (x : Memory Track) : (s.setTracks x).resetHeld = s.resetHeld := rfl
@[simp] theorem State.now_setTracks (s : State) (x : Memory Track) : (s.setTracks x).now = s.now := rfl
@[simp] theorem State.line_setTracks (s : State) (x : Memory Track) : (s.setTracks x).line = s.line := rfl
@[simp] theorem State.cmd_setTracks (s : State) (x : Memory Track) : (s.setTracks x).cmd = s.cmd := rfl
@[simp] theorem State.params_setTracks (s : State) (x : Memory Track) : (s.setTracks x).params = s.params := rfl
@[simp] theorem State.tracker_setTracks (s : State) (x : Memory Track) : (s.setTracks x).tracker = s.tracker := rfl
@[simp] theorem State.tracks_setTracks (s : State) (x : Memory Track) : (s.setTracks x).tracks = x := rfl
@[simp] theorem State.rings_setTracks (s : State) (x : Memory Track) : (s.setTracks x).rings = s.rings := rfl
@[simp] theorem State.banks_setTracks (s : State) (x : Memory Track) : (s.setTracks x).banks = s.banks := rfl
@[simp] theorem State.scan_setTracks (s : State) (x : Memory Track) : (s.setTracks x).scan = s.scan := rfl
@[simp] theorem State.det_setTracks (s : State) (x : Memory Track) : (s.setTracks x).det = s.det := rfl
@[simp] theorem State.queue_setTracks (s : State) (x : Memory Track) : (s.setTracks x).queue = s.queue := rfl
@[simp] theorem State.store_setTracks (s : State) (x : Memory Track) : (s.setTracks x).store = s.store := rfl
@[simp] theorem State.capture_setTracks (s : State) (x : Memory Track) : (s.setTracks x).capture = s.capture := rfl
@[simp] theorem State.notice_setTracks (s : State) (x : Memory Track) : (s.setTracks x).notice = s.notice := rfl
@[simp] theorem State.setTracks_self (s : State) : s.setTracks s.tracks = s := rfl
@[simp] theorem State.setTracks_setTracks (s : State) (x y : Memory Track) : (s.setTracks x).setTracks y = s.setTracks y := rfl

/-! `State.setRings` -/
@[simp] theorem State.pending_setRings (s : State) (x : Memory Ring) : (s.setRings x).pending = s.pending := rfl
@[simp] theorem State.resetHeld_setRings (s : State) (x : Memory Ring) : (s.setRings x).resetHeld = s.resetHeld := rfl
@[simp] theorem State.now_setRings (s : State) (x : Memory Ring) : (s.setRings x).now = s.now := rfl
@[simp] theorem State.line_setRings (s : State) (x : Memory Ring) : (s.setRings x).line = s.line := rfl
@[simp] theorem State.cmd_setRings (s : State) (x : Memory Ring) : (s.setRings x).cmd = s.cmd := rfl
@[simp] theorem State.params_setRings (s : State) (x : Memory Ring) : (s.setRings x).params = s.params := rfl
@[simp] theorem State.tracker_setRings (s : State) (x : Memory Ring) : (s.setRings x).tracker = s.tracker := rfl
@[simp] theorem State.tracks_setRings (s : State) (x : Memory Ring) : (s.setRings x).tracks = s.tracks := rfl
@[simp] theorem State.rings_setRings (s : State) (x : Memory Ring) : (s.setRings x).rings = x := rfl
@[simp] theorem State.banks_setRings (s : State) (x : Memory Ring) : (s.setRings x).banks = s.banks := rfl
@[simp] theorem State.scan_setRings (s : State) (x : Memory Ring) : (s.setRings x).scan = s.scan := rfl
@[simp] theorem State.det_setRings (s : State) (x : Memory Ring) : (s.setRings x).det = s.det := rfl
@[simp] theorem State.queue_setRings (s : State) (x : Memory Ring) : (s.setRings x).queue = s.queue := rfl
@[simp] theorem State.store_setRings (s : State) (x : Memory Ring) : (s.setRings x).store = s.store := rfl
@[simp] theorem State.capture_setRings (s : State) (x : Memory Ring) : (s.setRings x).capture = s.capture := rfl
@[simp] theorem State.notice_setRings (s : State) (x : Memory Ring) : (s.setRings x).notice = s.notice := rfl
@[simp] theorem State.setRings_self (s : State) : s.setRings s.rings = s := rfl
@[simp] theorem State.setRings_setRings (s : State) (x y : Memory Ring) : (s.setRings x).setRings y = s.setRings y := rfl

/-! `State.setBanks` -/
@[simp] theorem State.pending_setBanks (s : State) (x : Banks) : (s.setBanks x).pending = s.pending := rfl
@[simp] theorem State.resetHeld_setBanks (s : State) (x : Banks) : (s.setBanks x).resetHeld = s.resetHeld := rfl
@[simp] theorem State.now_setBanks (s : State) (x : Banks) : (s.setBanks x).now = s.now := rfl
@[simp] theorem State.line_setBanks (s : State) (x : Banks) : (s.setBanks x).line = s.line := rfl
@[simp] theorem State.cmd_setBanks (s : State) (x : Banks) : (s.setBanks x).cmd = s.cmd := rfl
@[simp] theorem State.params_setBanks (s : State) (x : Banks) : (s.setBanks x).params = s.params := rfl
@[simp] theorem State.tracker_setBanks (s : State) (x : Banks) : (s.setBanks x).tracker = s.tracker := rfl
@[simp] theorem State.tracks_setBanks (s : State) (x : Banks) : (s.setBanks x).tracks = s.tracks := rfl
@[simp] theorem State.rings_setBanks (s : State) (x : Banks) : (s.setBanks x).rings = s.rings := rfl
@[simp] theorem State.banks_setBanks (s : State) (x : Banks) : (s.setBanks x).banks = x := rfl
@[simp] theorem State.scan_setBanks (s : State) (x : Banks) : (s.setBanks x).scan = s.scan := rfl
@[simp] theorem State.det_setBanks (s : State) (x : Banks) : (s.setBanks x).det = s.det := rfl
@[simp] theorem State.queue_setBanks (s : State) (x : Banks) : (s.setBanks x).queue = s.queue := rfl
@[simp] theorem State.store_setBanks (s : State) (x : Banks) : (s.setBanks x).store = s.store := rfl
@[simp] theorem State.capture_setBanks (s : State) (x : Banks) : (s.setBanks x).capture = s.capture := rfl
@[simp] theorem State.notice_setBanks (s : State) (x : Banks) : (s.setBanks x).notice = s.notice := rfl
@[simp] theorem State.setBanks_self (s : State) : s.setBanks s.banks = s := rfl
@[simp] theorem State.setBanks_setBanks (s : State) (x y : Banks) : (s.setBanks x).setBanks y = s.setBanks y := rfl

/-! `State.setScan` -/
@[simp] theorem State.pending_setScan (s : State) (x : Scan) : (s.setScan x).pending = s.pending := rfl
@[simp] theorem State.resetHeld_setScan (s : State) (x : Scan) : (s.setScan x).resetHeld = s.resetHeld := rfl
@[simp] theorem State.now_setScan (s : State) (x : Scan) : (s.setScan x).now = s.now := rfl
@[simp] theorem State.line_setScan (s : State) (x : Scan) : (s.setScan x).line = s.line := rfl
@[simp] theorem State.cmd_setScan (s : State) (x : Scan) : (s.setScan x).cmd = s.cmd := rfl
@[simp] theorem State.params_setScan (s : State) (x : Scan) : (s.setScan x).params = s.params := rfl
@[simp] theorem State.tracker_setScan (s : State) (x : Scan) : (s.setScan x).tracker = s.tracker := rfl
@[simp] theorem State.tracks_setScan (s : State) (x : Scan) : (s.setScan x).tracks = s.tracks := rfl
@[simp] theorem State.rings_setScan (s : State) (x : Scan) : (s.setScan x).rings = s.rings := rfl
@[simp] theorem State.banks_setScan (s : State) (x : Scan) : (s.setScan x).banks = s.banks := rfl
@[simp] theorem State.scan_setScan (s : State) (x : Scan) : (s.setScan x).scan = x := rfl
@[simp] theorem State.det_setScan (s : State) (x : Scan) : (s.setScan x).det = s.det := rfl
@[simp] theorem State.queue_setScan (s : State) (x : Scan) : (s.setScan x).queue = s.queue := rfl
@[simp] theorem State.store_setScan (s : State) (x : Scan) : (s.setScan x).store = s.store := rfl
@[simp] theorem State.capture_setScan (s : State) (x : Scan) : (s.setScan x).capture = s.capture := rfl
@[simp] theorem State.notice_setScan (s : State) (x : Scan) : (s.setScan x).notice = s.notice := rfl
@[simp] theorem State.setScan_self (s : State) : s.setScan s.scan = s := rfl
@[simp] theorem State.setScan_setScan (s : State) (x y : Scan) : (s.setScan x).setScan y = s.setScan y := rfl

/-! `State.setDet` -/
@[simp] theorem State.pending_setDet (s : State) (x : Detector) : (s.setDet x).pending = s.pending := rfl
@[simp] theorem State.resetHeld_setDet (s : State) (x : Detector) : (s.setDet x).resetHeld = s.resetHeld := rfl
@[simp] theorem State.now_setDet (s : State) (x : Detector) : (s.setDet x).now = s.now := rfl
@[simp] theorem State.line_setDet (s : State) (x : Detector) : (s.setDet x).line = s.line := rfl
@[simp] theorem State.cmd_setDet (s : State) (x : Detector) : (s.setDet x).cmd = s.cmd := rfl
@[simp] theorem State.params_setDet (s : State) (x : Detector) : (s.setDet x).params = s.params := rfl
@[simp] theorem State.tracker_setDet (s : State) (x : Detector) : (s.setDet x).tracker = s.tracker := rfl
@[simp] theorem State.tracks_setDet (s : State) (x : Detector) : (s.setDet x).tracks = s.tracks := rfl
@[simp] theorem State.rings_setDet (s : State) (x : Detector) : (s.setDet x).rings = s.rings := rfl
@[simp] theorem State.banks_setDet (s : State) (x : Detector) : (s.setDet x).banks = s.banks := rfl
@[simp] theorem State.scan_setDet (s : State) (x : Detector) : (s.setDet x).scan = s.scan := rfl
@[simp] theorem State.det_setDet (s : State) (x : Detector) : (s.setDet x).det = x := rfl
@[simp] theorem State.queue_setDet (s : State) (x : Detector) : (s.setDet x).queue = s.queue := rfl
@[simp] theorem State.store_setDet (s : State) (x : Detector) : (s.setDet x).store = s.store := rfl
@[simp] theorem State.capture_setDet (s : State) (x : Detector) : (s.setDet x).capture = s.capture := rfl
@[simp] theorem State.notice_setDet (s : State) (x : Detector) : (s.setDet x).notice = s.notice := rfl
@[simp] theorem State.setDet_self (s : State) : s.setDet s.det = s := rfl
@[simp] theorem State.setDet_setDet (s : State) (x y : Detector) : (s.setDet x).setDet y = s.setDet y := rfl

/-! `State.setQueue` -/
@[simp] theorem State.pending_setQueue (s : State) (x : List EventRecord) : (s.setQueue x).pending = s.pending := rfl
@[simp] theorem State.resetHeld_setQueue (s : State) (x : List EventRecord) : (s.setQueue x).resetHeld = s.resetHeld := rfl
@[simp] theorem State.now_setQueue (s : State) (x : List EventRecord) : (s.setQueue x).now = s.now := rfl
@[simp] theorem State.line_setQueue (s : State) (x : List EventRecord) : (s.setQueue x).line = s.line := rfl
@[simp] theorem State.cmd_setQueue (s : State) (x : List EventRecord) : (s.setQueue x).cmd = s.cmd := rfl
@[simp] theorem State.params_setQueue (s : State) (x : List EventRecord) : (s.setQueue x).params = s.params := rfl
@[simp] theorem State.tracker_setQueue (s : State) (x : List EventRecord) : (s.setQueue x).tracker = s.tracker := rfl
@[simp] theorem State.tracks_setQueue (s : State) (x : List EventRecord) : (s.setQueue x).tracks = s.tracks := rfl
@[simp] theorem State.rings_setQueue (s : State) (x : List EventRecord) : (s.setQueue x).rings = s.rings := rfl
@[simp] theorem State.banks_setQueue (s : State) (x : List EventRecord) : (s.setQueue x).banks = s.banks := rfl
@[simp] theorem State.scan_setQueue (s : State) (x : List EventRecord) : (s.setQueue x).scan = s.scan := rfl
@[simp] theorem State.det_setQueue (s : State) (x : List EventRecord) : (s.setQueue x).det = s.det := rfl
@[simp] theorem State.queue_setQueue (s : State) (x : List EventRecord) : (s.setQueue x).queue = x := rfl
@[simp] theorem State.store_setQueue (s : State) (x : List EventRecord) : (s.setQueue x).store = s.store := rfl
@[simp] theorem State.capture_setQueue (s : State) (x : List EventRecord) : (s.setQueue x).capture = s.capture := rfl
@[simp] theorem State.notice_setQueue (s : State) (x : List EventRecord) : (s.setQueue x).notice = s.notice := rfl
@[simp] theorem State.setQueue_self (s : State) : s.setQueue s.queue = s := rfl
@[simp] theorem State.setQueue_setQueue (s : State) (x y : List EventRecord) : (s.setQueue x).setQueue y = s.setQueue y := rfl

/-! `State.setStore` -/
@[simp] theorem State.pending_setStore (s : State) (x : SnippetStore) : (s.setStore x).pending = s.pending := rfl
@[simp] theorem State.resetHeld_setStore (s : State) (x : SnippetStore) : (s.setStore x).resetHeld = s.resetHeld := rfl
@[simp] theorem State.now_setStore (s : State) (x : SnippetStore) : (s.setStore x).now = s.now := rfl
@[simp] theorem State.line_setStore (s : State) (x : SnippetStore) : (s.setStore x).line = s.line := rfl
@[simp] theorem State.cmd_setStore (s : State) (x : SnippetStore) : (s.setStore x).cmd = s.cmd := rfl
@[simp] theorem State.params_setStore (s : State) (x : SnippetStore) : (s.setStore x).params = s.params := rfl
@[simp] theorem State.tracker_setStore (s : State) (x : SnippetStore) : (s.setStore x).tracker = s.tracker := rfl
@[simp] theorem State.tracks_setStore (s : State) (x : SnippetStore) : (s.setStore x).tracks = s.tracks := rfl
@[simp] theorem State.rings_setStore (s : State) (x : SnippetStore) : (s.setStore x).rings = s.rings := rfl
@[simp] theorem State.banks_setStore (s : State) (x : SnippetStore) : (s.setStore x).banks = s.banks := rfl
@[simp] theorem State.scan_setStore (s : State) (x : SnippetStore) : (s.setStore x).scan = s.scan := rfl
@[simp] theorem State.det_setStore (s : State) (x : SnippetStore) : (s.setStore x).det = s.det := rfl
@[simp] theorem State.queue_setStore (s : State) (x : SnippetStore) : (s.setStore x).queue = s.queue := rfl
@[simp] theorem State.store_setStore (s : State) (x : SnippetStore) : (s.setStore x).store = x := rfl
@[simp] theorem State.capture_setStore (s : State) (x : SnippetStore) : (s.setStore x).capture = s.capture := rfl
@[simp] theorem State.notice_setStore (s : State) (x : SnippetStore) : (s.setStore x).notice = s.notice := rfl
@[simp] theorem State.setStore_self (s : State) : s.setStore s.store = s := rfl
@[simp] theorem State.setStore_setStore (s : State) (x y : SnippetStore) : (s.setStore x).setStore y = s.setStore y := rfl

/-! `State.setCapture` -/
@[simp] theorem State.pending_setCapture (s : State) (x : CaptureUnit) : (s.setCapture x).pending = s.pending := rfl
@[simp] theorem State.resetHeld_setCapture (s : State) (x : CaptureUnit) : (s.setCapture x).resetHeld = s.resetHeld := rfl
@[simp] theorem State.now_setCapture (s : State) (x : CaptureUnit) : (s.setCapture x).now = s.now := rfl
@[simp] theorem State.line_setCapture (s : State) (x : CaptureUnit) : (s.setCapture x).line = s.line := rfl
@[simp] theorem State.cmd_setCapture (s : State) (x : CaptureUnit) : (s.setCapture x).cmd = s.cmd := rfl
@[simp] theorem State.params_setCapture (s : State) (x : CaptureUnit) : (s.setCapture x).params = s.params := rfl
@[simp] theorem State.tracker_setCapture (s : State) (x : CaptureUnit) : (s.setCapture x).tracker = s.tracker := rfl
@[simp] theorem State.tracks_setCapture (s : State) (x : CaptureUnit) : (s.setCapture x).tracks = s.tracks := rfl
@[simp] theorem State.rings_setCapture (s : State) (x : CaptureUnit) : (s.setCapture x).rings = s.rings := rfl
@[simp] theorem State.banks_setCapture (s : State) (x : CaptureUnit) : (s.setCapture x).banks = s.banks := rfl
@[simp] theorem State.scan_setCapture (s : State) (x : CaptureUnit) : (s.setCapture x).scan = s.scan := rfl
@[simp] theorem State.det_setCapture (s : State) (x : CaptureUnit) : (s.setCapture x).det = s.det := rfl
@[simp] theorem State.queue_setCapture (s : State) (x : CaptureUnit) : (s.setCapture x).queue = s.queue := rfl
@[simp] theorem State.store_setCapture (s : State) (x : CaptureUnit) : (s.setCapture x).store = s.store := rfl
@[simp] theorem State.capture_setCapture (s : State) (x : CaptureUnit) : (s.setCapture x).capture = x := rfl
@[simp] theorem State.notice_setCapture (s : State) (x : CaptureUnit) : (s.setCapture x).notice = s.notice := rfl
@[simp] theorem State.setCapture_self (s : State) : s.setCapture s.capture = s := rfl
@[simp] theorem State.setCapture_setCapture (s : State) (x y : CaptureUnit) : (s.setCapture x).setCapture y = s.setCapture y := rfl

/-! `State.setNotice` -/
@[simp] theorem State.pending_setNotice (s : State) (x : NoticeUnit) : (s.setNotice x).pending = s.pending := rfl
@[simp] theorem State.resetHeld_setNotice (s : State) (x : NoticeUnit) : (s.setNotice x).resetHeld = s.resetHeld := rfl
@[simp] theorem State.now_setNotice (s : State) (x : NoticeUnit) : (s.setNotice x).now = s.now := rfl
@[simp] theorem State.line_setNotice (s : State) (x : NoticeUnit) : (s.setNotice x).line = s.line := rfl
@[simp] theorem State.cmd_setNotice (s : State) (x : NoticeUnit) : (s.setNotice x).cmd = s.cmd := rfl
@[simp] theorem State.params_setNotice (s : State) (x : NoticeUnit) : (s.setNotice x).params = s.params := rfl
@[simp] theorem State.tracker_setNotice (s : State) (x : NoticeUnit) : (s.setNotice x).tracker = s.tracker := rfl
@[simp] theorem State.tracks_setNotice (s : State) (x : NoticeUnit) : (s.setNotice x).tracks = s.tracks := rfl
@[simp] theorem State.rings_setNotice (s : State) (x : NoticeUnit) : (s.setNotice x).rings = s.rings := rfl
@[simp] theorem State.banks_setNotice (s : State) (x : NoticeUnit) : (s.setNotice x).banks = s.banks := rfl
@[simp] theorem State.scan_setNotice (s : State) (x : NoticeUnit) : (s.setNotice x).scan = s.scan := rfl
@[simp] theorem State.det_setNotice (s : State) (x : NoticeUnit) : (s.setNotice x).det = s.det := rfl
@[simp] theorem State.queue_setNotice (s : State) (x : NoticeUnit) : (s.setNotice x).queue = s.queue := rfl
@[simp] theorem State.store_setNotice (s : State) (x : NoticeUnit) : (s.setNotice x).store = s.store := rfl
@[simp] theorem State.capture_setNotice (s : State) (x : NoticeUnit) : (s.setNotice x).capture = s.capture := rfl
@[simp] theorem State.notice_setNotice (s : State) (x : NoticeUnit) : (s.setNotice x).notice = x := rfl
@[simp] theorem State.setNotice_self (s : State) : s.setNotice s.notice = s := rfl
@[simp] theorem State.setNotice_setNotice (s : State) (x y : NoticeUnit) : (s.setNotice x).setNotice y = s.setNotice y := rfl

end Sys2Proof.Machine
end

