-- ==== Sys2Proof/Laws/Frames.lean ====
section
/-! SUPPORT. The frame of each shared operation: the fields of State that it leaves as they are. A field of State that has no
lemma here for an operation is one that the operation may change. -/

namespace Sys2Proof.Machine

set_option Elab.async false
set_option linter.unusedTactic false
set_option linter.unreachableTactic false
set_option linter.unnecessarySeqFocus false

/-! `setFlag` changes at most: notice. -/
@[simp] theorem setFlag_pending (f : Flag) (s : State) : (setFlag f s).pending = s.pending := by
  simp [setFlag]
@[simp] theorem setFlag_resetHeld (f : Flag) (s : State) : (setFlag f s).resetHeld = s.resetHeld := by
  simp [setFlag]
@[simp] theorem setFlag_now (f : Flag) (s : State) : (setFlag f s).now = s.now := by
  simp [setFlag]
@[simp] theorem setFlag_line (f : Flag) (s : State) : (setFlag f s).line = s.line := by
  simp [setFlag]
@[simp] theorem setFlag_cmd (f : Flag) (s : State) : (setFlag f s).cmd = s.cmd := by
  simp [setFlag]
@[simp] theorem setFlag_params (f : Flag) (s : State) : (setFlag f s).params = s.params := by
  simp [setFlag]
@[simp] theorem setFlag_tracker (f : Flag) (s : State) : (setFlag f s).tracker = s.tracker := by
  simp [setFlag]
@[simp] theorem setFlag_tracks (f : Flag) (s : State) : (setFlag f s).tracks = s.tracks := by
  simp [setFlag]
@[simp] theorem setFlag_rings (f : Flag) (s : State) : (setFlag f s).rings = s.rings := by
  simp [setFlag]
@[simp] theorem setFlag_banks (f : Flag) (s : State) : (setFlag f s).banks = s.banks := by
  simp [setFlag]
@[simp] theorem setFlag_scan (f : Flag) (s : State) : (setFlag f s).scan = s.scan := by
  simp [setFlag]
@[simp] theorem setFlag_det (f : Flag) (s : State) : (setFlag f s).det = s.det := by
  simp [setFlag]
@[simp] theorem setFlag_queue (f : Flag) (s : State) : (setFlag f s).queue = s.queue := by
  simp [setFlag]
@[simp] theorem setFlag_store (f : Flag) (s : State) : (setFlag f s).store = s.store := by
  simp [setFlag]
@[simp] theorem setFlag_capture (f : Flag) (s : State) : (setFlag f s).capture = s.capture := by
  simp [setFlag]

/-! `setFlagIf` changes at most: notice. -/
@[simp] theorem setFlagIf_pending (c : Bool) (f : Flag) (s : State) : (setFlagIf c f s).pending = s.pending := by
  unfold setFlagIf; (repeat' split) <;> simp
@[simp] theorem setFlagIf_resetHeld (c : Bool) (f : Flag) (s : State) : (setFlagIf c f s).resetHeld = s.resetHeld := by
  unfold setFlagIf; (repeat' split) <;> simp
@[simp] theorem setFlagIf_now (c : Bool) (f : Flag) (s : State) : (setFlagIf c f s).now = s.now := by
  unfold setFlagIf; (repeat' split) <;> simp
@[simp] theorem setFlagIf_line (c : Bool) (f : Flag) (s : State) : (setFlagIf c f s).line = s.line := by
  unfold setFlagIf; (repeat' split) <;> simp
@[simp] theorem setFlagIf_cmd (c : Bool) (f : Flag) (s : State) : (setFlagIf c f s).cmd = s.cmd := by
  unfold setFlagIf; (repeat' split) <;> simp
@[simp] theorem setFlagIf_params (c : Bool) (f : Flag) (s : State) : (setFlagIf c f s).params = s.params := by
  unfold setFlagIf; (repeat' split) <;> simp
@[simp] theorem setFlagIf_tracker (c : Bool) (f : Flag) (s : State) : (setFlagIf c f s).tracker = s.tracker := by
  unfold setFlagIf; (repeat' split) <;> simp
@[simp] theorem setFlagIf_tracks (c : Bool) (f : Flag) (s : State) : (setFlagIf c f s).tracks = s.tracks := by
  unfold setFlagIf; (repeat' split) <;> simp
@[simp] theorem setFlagIf_rings (c : Bool) (f : Flag) (s : State) : (setFlagIf c f s).rings = s.rings := by
  unfold setFlagIf; (repeat' split) <;> simp
@[simp] theorem setFlagIf_banks (c : Bool) (f : Flag) (s : State) : (setFlagIf c f s).banks = s.banks := by
  unfold setFlagIf; (repeat' split) <;> simp
@[simp] theorem setFlagIf_scan (c : Bool) (f : Flag) (s : State) : (setFlagIf c f s).scan = s.scan := by
  unfold setFlagIf; (repeat' split) <;> simp
@[simp] theorem setFlagIf_det (c : Bool) (f : Flag) (s : State) : (setFlagIf c f s).det = s.det := by
  unfold setFlagIf; (repeat' split) <;> simp
@[simp] theorem setFlagIf_queue (c : Bool) (f : Flag) (s : State) : (setFlagIf c f s).queue = s.queue := by
  unfold setFlagIf; (repeat' split) <;> simp
@[simp] theorem setFlagIf_store (c : Bool) (f : Flag) (s : State) : (setFlagIf c f s).store = s.store := by
  unfold setFlagIf; (repeat' split) <;> simp
@[simp] theorem setFlagIf_capture (c : Bool) (f : Flag) (s : State) : (setFlagIf c f s).capture = s.capture := by
  unfold setFlagIf; (repeat' split) <;> simp

/-! `stopWaiting` changes at most: line. -/
@[simp] theorem stopWaiting_pending (p : Producer) (s : State) : (stopWaiting p s).pending = s.pending := by
  simp [stopWaiting]
@[simp] theorem stopWaiting_resetHeld (p : Producer) (s : State) : (stopWaiting p s).resetHeld = s.resetHeld := by
  simp [stopWaiting]
@[simp] theorem stopWaiting_now (p : Producer) (s : State) : (stopWaiting p s).now = s.now := by
  simp [stopWaiting]
@[simp] theorem stopWaiting_cmd (p : Producer) (s : State) : (stopWaiting p s).cmd = s.cmd := by
  simp [stopWaiting]
@[simp] theorem stopWaiting_params (p : Producer) (s : State) : (stopWaiting p s).params = s.params := by
  simp [stopWaiting]
@[simp] theorem stopWaiting_tracker (p : Producer) (s : State) : (stopWaiting p s).tracker = s.tracker := by
  simp [stopWaiting]
@[simp] theorem stopWaiting_tracks (p : Producer) (s : State) : (stopWaiting p s).tracks = s.tracks := by
  simp [stopWaiting]
@[simp] theorem stopWaiting_rings (p : Producer) (s : State) : (stopWaiting p s).rings = s.rings := by
  simp [stopWaiting]
@[simp] theorem stopWaiting_banks (p : Producer) (s : State) : (stopWaiting p s).banks = s.banks := by
  simp [stopWaiting]
@[simp] theorem stopWaiting_scan (p : Producer) (s : State) : (stopWaiting p s).scan = s.scan := by
  simp [stopWaiting]
@[simp] theorem stopWaiting_det (p : Producer) (s : State) : (stopWaiting p s).det = s.det := by
  simp [stopWaiting]
@[simp] theorem stopWaiting_queue (p : Producer) (s : State) : (stopWaiting p s).queue = s.queue := by
  simp [stopWaiting]
@[simp] theorem stopWaiting_store (p : Producer) (s : State) : (stopWaiting p s).store = s.store := by
  simp [stopWaiting]
@[simp] theorem stopWaiting_capture (p : Producer) (s : State) : (stopWaiting p s).capture = s.capture := by
  simp [stopWaiting]
@[simp] theorem stopWaiting_notice (p : Producer) (s : State) : (stopWaiting p s).notice = s.notice := by
  simp [stopWaiting]

/-! `cancelIfEmpty` changes at most: line, notice. -/
@[simp] theorem cancelIfEmpty_pending (s : State) : (cancelIfEmpty s).pending = s.pending := by
  unfold cancelIfEmpty; (repeat' split) <;> simp
@[simp] theorem cancelIfEmpty_resetHeld (s : State) : (cancelIfEmpty s).resetHeld = s.resetHeld := by
  unfold cancelIfEmpty; (repeat' split) <;> simp
@[simp] theorem cancelIfEmpty_now (s : State) : (cancelIfEmpty s).now = s.now := by
  unfold cancelIfEmpty; (repeat' split) <;> simp
@[simp] theorem cancelIfEmpty_cmd (s : State) : (cancelIfEmpty s).cmd = s.cmd := by
  unfold cancelIfEmpty; (repeat' split) <;> simp
@[simp] theorem cancelIfEmpty_params (s : State) : (cancelIfEmpty s).params = s.params := by
  unfold cancelIfEmpty; (repeat' split) <;> simp
@[simp] theorem cancelIfEmpty_tracker (s : State) : (cancelIfEmpty s).tracker = s.tracker := by
  unfold cancelIfEmpty; (repeat' split) <;> simp
@[simp] theorem cancelIfEmpty_tracks (s : State) : (cancelIfEmpty s).tracks = s.tracks := by
  unfold cancelIfEmpty; (repeat' split) <;> simp
@[simp] theorem cancelIfEmpty_rings (s : State) : (cancelIfEmpty s).rings = s.rings := by
  unfold cancelIfEmpty; (repeat' split) <;> simp
@[simp] theorem cancelIfEmpty_banks (s : State) : (cancelIfEmpty s).banks = s.banks := by
  unfold cancelIfEmpty; (repeat' split) <;> simp
@[simp] theorem cancelIfEmpty_scan (s : State) : (cancelIfEmpty s).scan = s.scan := by
  unfold cancelIfEmpty; (repeat' split) <;> simp
@[simp] theorem cancelIfEmpty_det (s : State) : (cancelIfEmpty s).det = s.det := by
  unfold cancelIfEmpty; (repeat' split) <;> simp
@[simp] theorem cancelIfEmpty_queue (s : State) : (cancelIfEmpty s).queue = s.queue := by
  unfold cancelIfEmpty; (repeat' split) <;> simp
@[simp] theorem cancelIfEmpty_store (s : State) : (cancelIfEmpty s).store = s.store := by
  unfold cancelIfEmpty; (repeat' split) <;> simp
@[simp] theorem cancelIfEmpty_capture (s : State) : (cancelIfEmpty s).capture = s.capture := by
  unfold cancelIfEmpty; (repeat' split) <;> simp

/-! `clearFlags` changes at most: line, notice. -/
@[simp] theorem clearFlags_pending (x : BitVec 9) (s : State) : (clearFlags x s).pending = s.pending := by
  simp [clearFlags]
@[simp] theorem clearFlags_resetHeld (x : BitVec 9) (s : State) : (clearFlags x s).resetHeld = s.resetHeld := by
  simp [clearFlags]
@[simp] theorem clearFlags_now (x : BitVec 9) (s : State) : (clearFlags x s).now = s.now := by
  simp [clearFlags]
@[simp] theorem clearFlags_cmd (x : BitVec 9) (s : State) : (clearFlags x s).cmd = s.cmd := by
  simp [clearFlags]
@[simp] theorem clearFlags_params (x : BitVec 9) (s : State) : (clearFlags x s).params = s.params := by
  simp [clearFlags]
@[simp] theorem clearFlags_tracker (x : BitVec 9) (s : State) : (clearFlags x s).tracker = s.tracker := by
  simp [clearFlags]
@[simp] theorem clearFlags_tracks (x : BitVec 9) (s : State) : (clearFlags x s).tracks = s.tracks := by
  simp [clearFlags]
@[simp] theorem clearFlags_rings (x : BitVec 9) (s : State) : (clearFlags x s).rings = s.rings := by
  simp [clearFlags]
@[simp] theorem clearFlags_banks (x : BitVec 9) (s : State) : (clearFlags x s).banks = s.banks := by
  simp [clearFlags]
@[simp] theorem clearFlags_scan (x : BitVec 9) (s : State) : (clearFlags x s).scan = s.scan := by
  simp [clearFlags]
@[simp] theorem clearFlags_det (x : BitVec 9) (s : State) : (clearFlags x s).det = s.det := by
  simp [clearFlags]
@[simp] theorem clearFlags_queue (x : BitVec 9) (s : State) : (clearFlags x s).queue = s.queue := by
  simp [clearFlags]
@[simp] theorem clearFlags_store (x : BitVec 9) (s : State) : (clearFlags x s).store = s.store := by
  simp [clearFlags]
@[simp] theorem clearFlags_capture (x : BitVec 9) (s : State) : (clearFlags x s).capture = s.capture := by
  simp [clearFlags]

/-! `setEnables` changes at most: line, notice. -/
@[simp] theorem setEnables_pending (x : BitVec 9) (s : State) : (setEnables x s).pending = s.pending := by
  simp [setEnables]
@[simp] theorem setEnables_resetHeld (x : BitVec 9) (s : State) : (setEnables x s).resetHeld = s.resetHeld := by
  simp [setEnables]
@[simp] theorem setEnables_now (x : BitVec 9) (s : State) : (setEnables x s).now = s.now := by
  simp [setEnables]
@[simp] theorem setEnables_cmd (x : BitVec 9) (s : State) : (setEnables x s).cmd = s.cmd := by
  simp [setEnables]
@[simp] theorem setEnables_params (x : BitVec 9) (s : State) : (setEnables x s).params = s.params := by
  simp [setEnables]
@[simp] theorem setEnables_tracker (x : BitVec 9) (s : State) : (setEnables x s).tracker = s.tracker := by
  simp [setEnables]
@[simp] theorem setEnables_tracks (x : BitVec 9) (s : State) : (setEnables x s).tracks = s.tracks := by
  simp [setEnables]
@[simp] theorem setEnables_rings (x : BitVec 9) (s : State) : (setEnables x s).rings = s.rings := by
  simp [setEnables]
@[simp] theorem setEnables_banks (x : BitVec 9) (s : State) : (setEnables x s).banks = s.banks := by
  simp [setEnables]
@[simp] theorem setEnables_scan (x : BitVec 9) (s : State) : (setEnables x s).scan = s.scan := by
  simp [setEnables]
@[simp] theorem setEnables_det (x : BitVec 9) (s : State) : (setEnables x s).det = s.det := by
  simp [setEnables]
@[simp] theorem setEnables_queue (x : BitVec 9) (s : State) : (setEnables x s).queue = s.queue := by
  simp [setEnables]
@[simp] theorem setEnables_store (x : BitVec 9) (s : State) : (setEnables x s).store = s.store := by
  simp [setEnables]
@[simp] theorem setEnables_capture (x : BitVec 9) (s : State) : (setEnables x s).capture = s.capture := by
  simp [setEnables]

/-! `placeReply` changes at most: line, cmd. -/
@[simp] theorem placeReply_pending (f : Bytes) (s : State) : (placeReply f s).pending = s.pending := by
  simp [placeReply]
@[simp] theorem placeReply_resetHeld (f : Bytes) (s : State) : (placeReply f s).resetHeld = s.resetHeld := by
  simp [placeReply]
@[simp] theorem placeReply_now (f : Bytes) (s : State) : (placeReply f s).now = s.now := by
  simp [placeReply]
@[simp] theorem placeReply_params (f : Bytes) (s : State) : (placeReply f s).params = s.params := by
  simp [placeReply]
@[simp] theorem placeReply_tracker (f : Bytes) (s : State) : (placeReply f s).tracker = s.tracker := by
  simp [placeReply]
@[simp] theorem placeReply_tracks (f : Bytes) (s : State) : (placeReply f s).tracks = s.tracks := by
  simp [placeReply]
@[simp] theorem placeReply_rings (f : Bytes) (s : State) : (placeReply f s).rings = s.rings := by
  simp [placeReply]
@[simp] theorem placeReply_banks (f : Bytes) (s : State) : (placeReply f s).banks = s.banks := by
  simp [placeReply]
@[simp] theorem placeReply_scan (f : Bytes) (s : State) : (placeReply f s).scan = s.scan := by
  simp [placeReply]
@[simp] theorem placeReply_det (f : Bytes) (s : State) : (placeReply f s).det = s.det := by
  simp [placeReply]
@[simp] theorem placeReply_queue (f : Bytes) (s : State) : (placeReply f s).queue = s.queue := by
  simp [placeReply]
@[simp] theorem placeReply_store (f : Bytes) (s : State) : (placeReply f s).store = s.store := by
  simp [placeReply]
@[simp] theorem placeReply_capture (f : Bytes) (s : State) : (placeReply f s).capture = s.capture := by
  simp [placeReply]
@[simp] theorem placeReply_notice (f : Bytes) (s : State) : (placeReply f s).notice = s.notice := by
  simp [placeReply]

/-! `placeOneWaiter` changes at most: line, cmd. -/
@[simp] theorem placeOneWaiter_pending (s : State) : (placeOneWaiter s).pending = s.pending := by
  unfold placeOneWaiter; (repeat' split) <;> simp
@[simp] theorem placeOneWaiter_resetHeld (s : State) : (placeOneWaiter s).resetHeld = s.resetHeld := by
  unfold placeOneWaiter; (repeat' split) <;> simp
@[simp] theorem placeOneWaiter_now (s : State) : (placeOneWaiter s).now = s.now := by
  unfold placeOneWaiter; (repeat' split) <;> simp
@[simp] theorem placeOneWaiter_params (s : State) : (placeOneWaiter s).params = s.params := by
  unfold placeOneWaiter; (repeat' split) <;> simp
@[simp] theorem placeOneWaiter_tracker (s : State) : (placeOneWaiter s).tracker = s.tracker := by
  unfold placeOneWaiter; (repeat' split) <;> simp
@[simp] theorem placeOneWaiter_tracks (s : State) : (placeOneWaiter s).tracks = s.tracks := by
  unfold placeOneWaiter; (repeat' split) <;> simp
@[simp] theorem placeOneWaiter_rings (s : State) : (placeOneWaiter s).rings = s.rings := by
  unfold placeOneWaiter; (repeat' split) <;> simp
@[simp] theorem placeOneWaiter_banks (s : State) : (placeOneWaiter s).banks = s.banks := by
  unfold placeOneWaiter; (repeat' split) <;> simp
@[simp] theorem placeOneWaiter_scan (s : State) : (placeOneWaiter s).scan = s.scan := by
  unfold placeOneWaiter; (repeat' split) <;> simp
@[simp] theorem placeOneWaiter_det (s : State) : (placeOneWaiter s).det = s.det := by
  unfold placeOneWaiter; (repeat' split) <;> simp
@[simp] theorem placeOneWaiter_queue (s : State) : (placeOneWaiter s).queue = s.queue := by
  unfold placeOneWaiter; (repeat' split) <;> simp
@[simp] theorem placeOneWaiter_store (s : State) : (placeOneWaiter s).store = s.store := by
  unfold placeOneWaiter; (repeat' split) <;> simp
@[simp] theorem placeOneWaiter_capture (s : State) : (placeOneWaiter s).capture = s.capture := by
  unfold placeOneWaiter; (repeat' split) <;> simp
@[simp] theorem placeOneWaiter_notice (s : State) : (placeOneWaiter s).notice = s.notice := by
  unfold placeOneWaiter; (repeat' split) <;> simp

/-! `placeWaiters` changes at most: line, cmd. -/
@[simp] theorem placeWaiters_pending (s : State) : (placeWaiters s).pending = s.pending := by
  simp [placeWaiters]
@[simp] theorem placeWaiters_resetHeld (s : State) : (placeWaiters s).resetHeld = s.resetHeld := by
  simp [placeWaiters]
@[simp] theorem placeWaiters_now (s : State) : (placeWaiters s).now = s.now := by
  simp [placeWaiters]
@[simp] theorem placeWaiters_params (s : State) : (placeWaiters s).params = s.params := by
  simp [placeWaiters]
@[simp] theorem placeWaiters_tracker (s : State) : (placeWaiters s).tracker = s.tracker := by
  simp [placeWaiters]
@[simp] theorem placeWaiters_tracks (s : State) : (placeWaiters s).tracks = s.tracks := by
  simp [placeWaiters]
@[simp] theorem placeWaiters_rings (s : State) : (placeWaiters s).rings = s.rings := by
  simp [placeWaiters]
@[simp] theorem placeWaiters_banks (s : State) : (placeWaiters s).banks = s.banks := by
  simp [placeWaiters]
@[simp] theorem placeWaiters_scan (s : State) : (placeWaiters s).scan = s.scan := by
  simp [placeWaiters]
@[simp] theorem placeWaiters_det (s : State) : (placeWaiters s).det = s.det := by
  simp [placeWaiters]
@[simp] theorem placeWaiters_queue (s : State) : (placeWaiters s).queue = s.queue := by
  simp [placeWaiters]
@[simp] theorem placeWaiters_store (s : State) : (placeWaiters s).store = s.store := by
  simp [placeWaiters]
@[simp] theorem placeWaiters_capture (s : State) : (placeWaiters s).capture = s.capture := by
  simp [placeWaiters]
@[simp] theorem placeWaiters_notice (s : State) : (placeWaiters s).notice = s.notice := by
  simp [placeWaiters]

/-! `arbitrate` changes at most: line. -/
@[simp] theorem arbitrate_pending (s : State) : (arbitrate s).pending = s.pending := by
  simp [arbitrate]
@[simp] theorem arbitrate_resetHeld (s : State) : (arbitrate s).resetHeld = s.resetHeld := by
  simp [arbitrate]
@[simp] theorem arbitrate_now (s : State) : (arbitrate s).now = s.now := by
  simp [arbitrate]
@[simp] theorem arbitrate_cmd (s : State) : (arbitrate s).cmd = s.cmd := by
  simp [arbitrate]
@[simp] theorem arbitrate_params (s : State) : (arbitrate s).params = s.params := by
  simp [arbitrate]
@[simp] theorem arbitrate_tracker (s : State) : (arbitrate s).tracker = s.tracker := by
  simp [arbitrate]
@[simp] theorem arbitrate_tracks (s : State) : (arbitrate s).tracks = s.tracks := by
  simp [arbitrate]
@[simp] theorem arbitrate_rings (s : State) : (arbitrate s).rings = s.rings := by
  simp [arbitrate]
@[simp] theorem arbitrate_banks (s : State) : (arbitrate s).banks = s.banks := by
  simp [arbitrate]
@[simp] theorem arbitrate_scan (s : State) : (arbitrate s).scan = s.scan := by
  simp [arbitrate]
@[simp] theorem arbitrate_det (s : State) : (arbitrate s).det = s.det := by
  simp [arbitrate]
@[simp] theorem arbitrate_queue (s : State) : (arbitrate s).queue = s.queue := by
  simp [arbitrate]
@[simp] theorem arbitrate_store (s : State) : (arbitrate s).store = s.store := by
  simp [arbitrate]
@[simp] theorem arbitrate_capture (s : State) : (arbitrate s).capture = s.capture := by
  simp [arbitrate]
@[simp] theorem arbitrate_notice (s : State) : (arbitrate s).notice = s.notice := by
  simp [arbitrate]

/-! `settleLine` changes at most: line, cmd. -/
@[simp] theorem settleLine_pending (s : State) : (settleLine s).pending = s.pending := by
  simp [settleLine]
@[simp] theorem settleLine_resetHeld (s : State) : (settleLine s).resetHeld = s.resetHeld := by
  simp [settleLine]
@[simp] theorem settleLine_now (s : State) : (settleLine s).now = s.now := by
  simp [settleLine]
@[simp] theorem settleLine_params (s : State) : (settleLine s).params = s.params := by
  simp [settleLine]
@[simp] theorem settleLine_tracker (s : State) : (settleLine s).tracker = s.tracker := by
  simp [settleLine]
@[simp] theorem settleLine_tracks (s : State) : (settleLine s).tracks = s.tracks := by
  simp [settleLine]
@[simp] theorem settleLine_rings (s : State) : (settleLine s).rings = s.rings := by
  simp [settleLine]
@[simp] theorem settleLine_banks (s : State) : (settleLine s).banks = s.banks := by
  simp [settleLine]
@[simp] theorem settleLine_scan (s : State) : (settleLine s).scan = s.scan := by
  simp [settleLine]
@[simp] theorem settleLine_det (s : State) : (settleLine s).det = s.det := by
  simp [settleLine]
@[simp] theorem settleLine_queue (s : State) : (settleLine s).queue = s.queue := by
  simp [settleLine]
@[simp] theorem settleLine_store (s : State) : (settleLine s).store = s.store := by
  simp [settleLine]
@[simp] theorem settleLine_capture (s : State) : (settleLine s).capture = s.capture := by
  simp [settleLine]
@[simp] theorem settleLine_notice (s : State) : (settleLine s).notice = s.notice := by
  simp [settleLine]

/-! `answer` changes at most: line, cmd. -/
@[simp] theorem answer_pending (k : ReplyCode) (x : Bytes) (s : State) : (answer k x s).pending = s.pending := by
  unfold answer; (repeat' split) <;> simp
@[simp] theorem answer_resetHeld (k : ReplyCode) (x : Bytes) (s : State) : (answer k x s).resetHeld = s.resetHeld := by
  unfold answer; (repeat' split) <;> simp
@[simp] theorem answer_now (k : ReplyCode) (x : Bytes) (s : State) : (answer k x s).now = s.now := by
  unfold answer; (repeat' split) <;> simp
@[simp] theorem answer_params (k : ReplyCode) (x : Bytes) (s : State) : (answer k x s).params = s.params := by
  unfold answer; (repeat' split) <;> simp
@[simp] theorem answer_tracker (k : ReplyCode) (x : Bytes) (s : State) : (answer k x s).tracker = s.tracker := by
  unfold answer; (repeat' split) <;> simp
@[simp] theorem answer_tracks (k : ReplyCode) (x : Bytes) (s : State) : (answer k x s).tracks = s.tracks := by
  unfold answer; (repeat' split) <;> simp
@[simp] theorem answer_rings (k : ReplyCode) (x : Bytes) (s : State) : (answer k x s).rings = s.rings := by
  unfold answer; (repeat' split) <;> simp
@[simp] theorem answer_banks (k : ReplyCode) (x : Bytes) (s : State) : (answer k x s).banks = s.banks := by
  unfold answer; (repeat' split) <;> simp
@[simp] theorem answer_scan (k : ReplyCode) (x : Bytes) (s : State) : (answer k x s).scan = s.scan := by
  unfold answer; (repeat' split) <;> simp
@[simp] theorem answer_det (k : ReplyCode) (x : Bytes) (s : State) : (answer k x s).det = s.det := by
  unfold answer; (repeat' split) <;> simp
@[simp] theorem answer_queue (k : ReplyCode) (x : Bytes) (s : State) : (answer k x s).queue = s.queue := by
  unfold answer; (repeat' split) <;> simp
@[simp] theorem answer_store (k : ReplyCode) (x : Bytes) (s : State) : (answer k x s).store = s.store := by
  unfold answer; (repeat' split) <;> simp
@[simp] theorem answer_capture (k : ReplyCode) (x : Bytes) (s : State) : (answer k x s).capture = s.capture := by
  unfold answer; (repeat' split) <;> simp
@[simp] theorem answer_notice (k : ReplyCode) (x : Bytes) (s : State) : (answer k x s).notice = s.notice := by
  unfold answer; (repeat' split) <;> simp

/-! `addressBecameValid` changes at most: line, notice. -/
@[simp] theorem addressBecameValid_pending (s : State) : (addressBecameValid s).pending = s.pending := by
  unfold addressBecameValid; (repeat' split) <;> simp
@[simp] theorem addressBecameValid_resetHeld (s : State) : (addressBecameValid s).resetHeld = s.resetHeld := by
  unfold addressBecameValid; (repeat' split) <;> simp
@[simp] theorem addressBecameValid_now (s : State) : (addressBecameValid s).now = s.now := by
  unfold addressBecameValid; (repeat' split) <;> simp
@[simp] theorem addressBecameValid_cmd (s : State) : (addressBecameValid s).cmd = s.cmd := by
  unfold addressBecameValid; (repeat' split) <;> simp
@[simp] theorem addressBecameValid_params (s : State) : (addressBecameValid s).params = s.params := by
  unfold addressBecameValid; (repeat' split) <;> simp
@[simp] theorem addressBecameValid_tracker (s : State) : (addressBecameValid s).tracker = s.tracker := by
  unfold addressBecameValid; (repeat' split) <;> simp
@[simp] theorem addressBecameValid_tracks (s : State) : (addressBecameValid s).tracks = s.tracks := by
  unfold addressBecameValid; (repeat' split) <;> simp
@[simp] theorem addressBecameValid_rings (s : State) : (addressBecameValid s).rings = s.rings := by
  unfold addressBecameValid; (repeat' split) <;> simp
@[simp] theorem addressBecameValid_banks (s : State) : (addressBecameValid s).banks = s.banks := by
  unfold addressBecameValid; (repeat' split) <;> simp
@[simp] theorem addressBecameValid_scan (s : State) : (addressBecameValid s).scan = s.scan := by
  unfold addressBecameValid; (repeat' split) <;> simp
@[simp] theorem addressBecameValid_det (s : State) : (addressBecameValid s).det = s.det := by
  unfold addressBecameValid; (repeat' split) <;> simp
@[simp] theorem addressBecameValid_queue (s : State) : (addressBecameValid s).queue = s.queue := by
  unfold addressBecameValid; (repeat' split) <;> simp
@[simp] theorem addressBecameValid_store (s : State) : (addressBecameValid s).store = s.store := by
  unfold addressBecameValid; (repeat' split) <;> simp
@[simp] theorem addressBecameValid_capture (s : State) : (addressBecameValid s).capture = s.capture := by
  unfold addressBecameValid; (repeat' split) <;> simp

/-! `placeAnswer` changes at most: line. -/
@[simp] theorem placeAnswer_pending (f : Bytes) (s : State) : (placeAnswer f s).pending = s.pending := by
  unfold placeAnswer; (repeat' split) <;> simp
@[simp] theorem placeAnswer_resetHeld (f : Bytes) (s : State) : (placeAnswer f s).resetHeld = s.resetHeld := by
  unfold placeAnswer; (repeat' split) <;> simp
@[simp] theorem placeAnswer_now (f : Bytes) (s : State) : (placeAnswer f s).now = s.now := by
  unfold placeAnswer; (repeat' split) <;> simp
@[simp] theorem placeAnswer_cmd (f : Bytes) (s : State) : (placeAnswer f s).cmd = s.cmd := by
  unfold placeAnswer; (repeat' split) <;> simp
@[simp] theorem placeAnswer_params (f : Bytes) (s : State) : (placeAnswer f s).params = s.params := by
  unfold placeAnswer; (repeat' split) <;> simp
@[simp] theorem placeAnswer_tracker (f : Bytes) (s : State) : (placeAnswer f s).tracker = s.tracker := by
  unfold placeAnswer; (repeat' split) <;> simp
@[simp] theorem placeAnswer_tracks (f : Bytes) (s : State) : (placeAnswer f s).tracks = s.tracks := by
  unfold placeAnswer; (repeat' split) <;> simp
@[simp] theorem placeAnswer_rings (f : Bytes) (s : State) : (placeAnswer f s).rings = s.rings := by
  unfold placeAnswer; (repeat' split) <;> simp
@[simp] theorem placeAnswer_banks (f : Bytes) (s : State) : (placeAnswer f s).banks = s.banks := by
  unfold placeAnswer; (repeat' split) <;> simp
@[simp] theorem placeAnswer_scan (f : Bytes) (s : State) : (placeAnswer f s).scan = s.scan := by
  unfold placeAnswer; (repeat' split) <;> simp
@[simp] theorem placeAnswer_det (f : Bytes) (s : State) : (placeAnswer f s).det = s.det := by
  unfold placeAnswer; (repeat' split) <;> simp
@[simp] theorem placeAnswer_queue (f : Bytes) (s : State) : (placeAnswer f s).queue = s.queue := by
  unfold placeAnswer; (repeat' split) <;> simp
@[simp] theorem placeAnswer_store (f : Bytes) (s : State) : (placeAnswer f s).store = s.store := by
  unfold placeAnswer; (repeat' split) <;> simp
@[simp] theorem placeAnswer_capture (f : Bytes) (s : State) : (placeAnswer f s).capture = s.capture := by
  unfold placeAnswer; (repeat' split) <;> simp
@[simp] theorem placeAnswer_notice (f : Bytes) (s : State) : (placeAnswer f s).notice = s.notice := by
  unfold placeAnswer; (repeat' split) <;> simp

/-! `rollcallSet` changes at most: line, notice. -/
@[simp] theorem rollcallSet_pending (h : Nat) (s : State) : (rollcallSet h s).pending = s.pending := by
  unfold rollcallSet; dsimp only; (repeat' split) <;> simp
@[simp] theorem rollcallSet_resetHeld (h : Nat) (s : State) : (rollcallSet h s).resetHeld = s.resetHeld := by
  unfold rollcallSet; dsimp only; (repeat' split) <;> simp
@[simp] theorem rollcallSet_now (h : Nat) (s : State) : (rollcallSet h s).now = s.now := by
  unfold rollcallSet; dsimp only; (repeat' split) <;> simp
@[simp] theorem rollcallSet_cmd (h : Nat) (s : State) : (rollcallSet h s).cmd = s.cmd := by
  unfold rollcallSet; dsimp only; (repeat' split) <;> simp
@[simp] theorem rollcallSet_params (h : Nat) (s : State) : (rollcallSet h s).params = s.params := by
  unfold rollcallSet; dsimp only; (repeat' split) <;> simp
@[simp] theorem rollcallSet_tracker (h : Nat) (s : State) : (rollcallSet h s).tracker = s.tracker := by
  unfold rollcallSet; dsimp only; (repeat' split) <;> simp
@[simp] theorem rollcallSet_tracks (h : Nat) (s : State) : (rollcallSet h s).tracks = s.tracks := by
  unfold rollcallSet; dsimp only; (repeat' split) <;> simp
@[simp] theorem rollcallSet_rings (h : Nat) (s : State) : (rollcallSet h s).rings = s.rings := by
  unfold rollcallSet; dsimp only; (repeat' split) <;> simp
@[simp] theorem rollcallSet_banks (h : Nat) (s : State) : (rollcallSet h s).banks = s.banks := by
  unfold rollcallSet; dsimp only; (repeat' split) <;> simp
@[simp] theorem rollcallSet_scan (h : Nat) (s : State) : (rollcallSet h s).scan = s.scan := by
  unfold rollcallSet; dsimp only; (repeat' split) <;> simp
@[simp] theorem rollcallSet_det (h : Nat) (s : State) : (rollcallSet h s).det = s.det := by
  unfold rollcallSet; dsimp only; (repeat' split) <;> simp
@[simp] theorem rollcallSet_queue (h : Nat) (s : State) : (rollcallSet h s).queue = s.queue := by
  unfold rollcallSet; dsimp only; (repeat' split) <;> simp
@[simp] theorem rollcallSet_store (h : Nat) (s : State) : (rollcallSet h s).store = s.store := by
  unfold rollcallSet; dsimp only; (repeat' split) <;> simp
@[simp] theorem rollcallSet_capture (h : Nat) (s : State) : (rollcallSet h s).capture = s.capture := by
  unfold rollcallSet; dsimp only; (repeat' split) <;> simp

/-! `routeUp` changes at most: line. -/
@[simp] theorem routeUp_pending (f : Bytes) (s : State) : (routeUp f s).pending = s.pending := by
  simp [routeUp]
@[simp] theorem routeUp_resetHeld (f : Bytes) (s : State) : (routeUp f s).resetHeld = s.resetHeld := by
  simp [routeUp]
@[simp] theorem routeUp_now (f : Bytes) (s : State) : (routeUp f s).now = s.now := by
  simp [routeUp]
@[simp] theorem routeUp_cmd (f : Bytes) (s : State) : (routeUp f s).cmd = s.cmd := by
  simp [routeUp]
@[simp] theorem routeUp_params (f : Bytes) (s : State) : (routeUp f s).params = s.params := by
  simp [routeUp]
@[simp] theorem routeUp_tracker (f : Bytes) (s : State) : (routeUp f s).tracker = s.tracker := by
  simp [routeUp]
@[simp] theorem routeUp_tracks (f : Bytes) (s : State) : (routeUp f s).tracks = s.tracks := by
  simp [routeUp]
@[simp] theorem routeUp_rings (f : Bytes) (s : State) : (routeUp f s).rings = s.rings := by
  simp [routeUp]
@[simp] theorem routeUp_banks (f : Bytes) (s : State) : (routeUp f s).banks = s.banks := by
  simp [routeUp]
@[simp] theorem routeUp_scan (f : Bytes) (s : State) : (routeUp f s).scan = s.scan := by
  simp [routeUp]
@[simp] theorem routeUp_det (f : Bytes) (s : State) : (routeUp f s).det = s.det := by
  simp [routeUp]
@[simp] theorem routeUp_queue (f : Bytes) (s : State) : (routeUp f s).queue = s.queue := by
  simp [routeUp]
@[simp] theorem routeUp_store (f : Bytes) (s : State) : (routeUp f s).store = s.store := by
  simp [routeUp]
@[simp] theorem routeUp_capture (f : Bytes) (s : State) : (routeUp f s).capture = s.capture := by
  simp [routeUp]
@[simp] theorem routeUp_notice (f : Bytes) (s : State) : (routeUp f s).notice = s.notice := by
  simp [routeUp]

/-! `takeCommand` changes at most: line, cmd. -/
@[simp] theorem takeCommand_pending (c : Held) (s : State) : (takeCommand c s).pending = s.pending := by
  unfold takeCommand; (repeat' split) <;> simp
@[simp] theorem takeCommand_resetHeld (c : Held) (s : State) : (takeCommand c s).resetHeld = s.resetHeld := by
  unfold takeCommand; (repeat' split) <;> simp
@[simp] theorem takeCommand_now (c : Held) (s : State) : (takeCommand c s).now = s.now := by
  unfold takeCommand; (repeat' split) <;> simp
@[simp] theorem takeCommand_params (c : Held) (s : State) : (takeCommand c s).params = s.params := by
  unfold takeCommand; (repeat' split) <;> simp
@[simp] theorem takeCommand_tracker (c : Held) (s : State) : (takeCommand c s).tracker = s.tracker := by
  unfold takeCommand; (repeat' split) <;> simp
@[simp] theorem takeCommand_tracks (c : Held) (s : State) : (takeCommand c s).tracks = s.tracks := by
  unfold takeCommand; (repeat' split) <;> simp
@[simp] theorem takeCommand_rings (c : Held) (s : State) : (takeCommand c s).rings = s.rings := by
  unfold takeCommand; (repeat' split) <;> simp
@[simp] theorem takeCommand_banks (c : Held) (s : State) : (takeCommand c s).banks = s.banks := by
  unfold takeCommand; (repeat' split) <;> simp
@[simp] theorem takeCommand_scan (c : Held) (s : State) : (takeCommand c s).scan = s.scan := by
  unfold takeCommand; (repeat' split) <;> simp
@[simp] theorem takeCommand_det (c : Held) (s : State) : (takeCommand c s).det = s.det := by
  unfold takeCommand; (repeat' split) <;> simp
@[simp] theorem takeCommand_queue (c : Held) (s : State) : (takeCommand c s).queue = s.queue := by
  unfold takeCommand; (repeat' split) <;> simp
@[simp] theorem takeCommand_store (c : Held) (s : State) : (takeCommand c s).store = s.store := by
  unfold takeCommand; (repeat' split) <;> simp
@[simp] theorem takeCommand_capture (c : Held) (s : State) : (takeCommand c s).capture = s.capture := by
  unfold takeCommand; (repeat' split) <;> simp
@[simp] theorem takeCommand_notice (c : Held) (s : State) : (takeCommand c s).notice = s.notice := by
  unfold takeCommand; (repeat' split) <;> simp

/-! `handleRollcall` changes at most: line, notice. -/
@[simp] theorem handleRollcall_pending (f : Bytes) (s : State) : (handleRollcall f s).pending = s.pending := by
  simp [handleRollcall]
@[simp] theorem handleRollcall_resetHeld (f : Bytes) (s : State) : (handleRollcall f s).resetHeld = s.resetHeld := by
  simp [handleRollcall]
@[simp] theorem handleRollcall_now (f : Bytes) (s : State) : (handleRollcall f s).now = s.now := by
  simp [handleRollcall]
@[simp] theorem handleRollcall_cmd (f : Bytes) (s : State) : (handleRollcall f s).cmd = s.cmd := by
  simp [handleRollcall]
@[simp] theorem handleRollcall_params (f : Bytes) (s : State) : (handleRollcall f s).params = s.params := by
  simp [handleRollcall]
@[simp] theorem handleRollcall_tracker (f : Bytes) (s : State) : (handleRollcall f s).tracker = s.tracker := by
  simp [handleRollcall]
@[simp] theorem handleRollcall_tracks (f : Bytes) (s : State) : (handleRollcall f s).tracks = s.tracks := by
  simp [handleRollcall]
@[simp] theorem handleRollcall_rings (f : Bytes) (s : State) : (handleRollcall f s).rings = s.rings := by
  simp [handleRollcall]
@[simp] theorem handleRollcall_banks (f : Bytes) (s : State) : (handleRollcall f s).banks = s.banks := by
  simp [handleRollcall]
@[simp] theorem handleRollcall_scan (f : Bytes) (s : State) : (handleRollcall f s).scan = s.scan := by
  simp [handleRollcall]
@[simp] theorem handleRollcall_det (f : Bytes) (s : State) : (handleRollcall f s).det = s.det := by
  simp [handleRollcall]
@[simp] theorem handleRollcall_queue (f : Bytes) (s : State) : (handleRollcall f s).queue = s.queue := by
  simp [handleRollcall]
@[simp] theorem handleRollcall_store (f : Bytes) (s : State) : (handleRollcall f s).store = s.store := by
  simp [handleRollcall]
@[simp] theorem handleRollcall_capture (f : Bytes) (s : State) : (handleRollcall f s).capture = s.capture := by
  simp [handleRollcall]

/-! `routeDownstream` changes at most: line, cmd, notice. -/
@[simp] theorem routeDownstream_pending (f : Bytes) (s : State) : (routeDownstream f s).pending = s.pending := by
  unfold routeDownstream; (repeat' split) <;> simp
@[simp] theorem routeDownstream_resetHeld (f : Bytes) (s : State) : (routeDownstream f s).resetHeld = s.resetHeld := by
  unfold routeDownstream; (repeat' split) <;> simp
@[simp] theorem routeDownstream_now (f : Bytes) (s : State) : (routeDownstream f s).now = s.now := by
  unfold routeDownstream; (repeat' split) <;> simp
@[simp] theorem routeDownstream_params (f : Bytes) (s : State) : (routeDownstream f s).params = s.params := by
  unfold routeDownstream; (repeat' split) <;> simp
@[simp] theorem routeDownstream_tracker (f : Bytes) (s : State) : (routeDownstream f s).tracker = s.tracker := by
  unfold routeDownstream; (repeat' split) <;> simp
@[simp] theorem routeDownstream_tracks (f : Bytes) (s : State) : (routeDownstream f s).tracks = s.tracks := by
  unfold routeDownstream; (repeat' split) <;> simp
@[simp] theorem routeDownstream_rings (f : Bytes) (s : State) : (routeDownstream f s).rings = s.rings := by
  unfold routeDownstream; (repeat' split) <;> simp
@[simp] theorem routeDownstream_banks (f : Bytes) (s : State) : (routeDownstream f s).banks = s.banks := by
  unfold routeDownstream; (repeat' split) <;> simp
@[simp] theorem routeDownstream_scan (f : Bytes) (s : State) : (routeDownstream f s).scan = s.scan := by
  unfold routeDownstream; (repeat' split) <;> simp
@[simp] theorem routeDownstream_det (f : Bytes) (s : State) : (routeDownstream f s).det = s.det := by
  unfold routeDownstream; (repeat' split) <;> simp
@[simp] theorem routeDownstream_queue (f : Bytes) (s : State) : (routeDownstream f s).queue = s.queue := by
  unfold routeDownstream; (repeat' split) <;> simp
@[simp] theorem routeDownstream_store (f : Bytes) (s : State) : (routeDownstream f s).store = s.store := by
  unfold routeDownstream; (repeat' split) <;> simp
@[simp] theorem routeDownstream_capture (f : Bytes) (s : State) : (routeDownstream f s).capture = s.capture := by
  unfold routeDownstream; (repeat' split) <;> simp

/-! `handSample` changes at most: tracker. -/
@[simp] theorem handSample_pending (f : Bytes) (s : State) : (handSample f s).pending = s.pending := by
  unfold handSample; (repeat' split) <;> simp
@[simp] theorem handSample_resetHeld (f : Bytes) (s : State) : (handSample f s).resetHeld = s.resetHeld := by
  unfold handSample; (repeat' split) <;> simp
@[simp] theorem handSample_now (f : Bytes) (s : State) : (handSample f s).now = s.now := by
  unfold handSample; (repeat' split) <;> simp
@[simp] theorem handSample_line (f : Bytes) (s : State) : (handSample f s).line = s.line := by
  unfold handSample; (repeat' split) <;> simp
@[simp] theorem handSample_cmd (f : Bytes) (s : State) : (handSample f s).cmd = s.cmd := by
  unfold handSample; (repeat' split) <;> simp
@[simp] theorem handSample_params (f : Bytes) (s : State) : (handSample f s).params = s.params := by
  unfold handSample; (repeat' split) <;> simp
@[simp] theorem handSample_tracks (f : Bytes) (s : State) : (handSample f s).tracks = s.tracks := by
  unfold handSample; (repeat' split) <;> simp
@[simp] theorem handSample_rings (f : Bytes) (s : State) : (handSample f s).rings = s.rings := by
  unfold handSample; (repeat' split) <;> simp
@[simp] theorem handSample_banks (f : Bytes) (s : State) : (handSample f s).banks = s.banks := by
  unfold handSample; (repeat' split) <;> simp
@[simp] theorem handSample_scan (f : Bytes) (s : State) : (handSample f s).scan = s.scan := by
  unfold handSample; (repeat' split) <;> simp
@[simp] theorem handSample_det (f : Bytes) (s : State) : (handSample f s).det = s.det := by
  unfold handSample; (repeat' split) <;> simp
@[simp] theorem handSample_queue (f : Bytes) (s : State) : (handSample f s).queue = s.queue := by
  unfold handSample; (repeat' split) <;> simp
@[simp] theorem handSample_store (f : Bytes) (s : State) : (handSample f s).store = s.store := by
  unfold handSample; (repeat' split) <;> simp
@[simp] theorem handSample_capture (f : Bytes) (s : State) : (handSample f s).capture = s.capture := by
  unfold handSample; (repeat' split) <;> simp
@[simp] theorem handSample_notice (f : Bytes) (s : State) : (handSample f s).notice = s.notice := by
  unfold handSample; (repeat' split) <;> simp

/-! `raiseEventReady` changes at most: notice. -/
@[simp] theorem raiseEventReady_pending (s : State) : (raiseEventReady s).pending = s.pending := by
  simp [raiseEventReady]
@[simp] theorem raiseEventReady_resetHeld (s : State) : (raiseEventReady s).resetHeld = s.resetHeld := by
  simp [raiseEventReady]
@[simp] theorem raiseEventReady_now (s : State) : (raiseEventReady s).now = s.now := by
  simp [raiseEventReady]
@[simp] theorem raiseEventReady_line (s : State) : (raiseEventReady s).line = s.line := by
  simp [raiseEventReady]
@[simp] theorem raiseEventReady_cmd (s : State) : (raiseEventReady s).cmd = s.cmd := by
  simp [raiseEventReady]
@[simp] theorem raiseEventReady_params (s : State) : (raiseEventReady s).params = s.params := by
  simp [raiseEventReady]
@[simp] theorem raiseEventReady_tracker (s : State) : (raiseEventReady s).tracker = s.tracker := by
  simp [raiseEventReady]
@[simp] theorem raiseEventReady_tracks (s : State) : (raiseEventReady s).tracks = s.tracks := by
  simp [raiseEventReady]
@[simp] theorem raiseEventReady_rings (s : State) : (raiseEventReady s).rings = s.rings := by
  simp [raiseEventReady]
@[simp] theorem raiseEventReady_banks (s : State) : (raiseEventReady s).banks = s.banks := by
  simp [raiseEventReady]
@[simp] theorem raiseEventReady_scan (s : State) : (raiseEventReady s).scan = s.scan := by
  simp [raiseEventReady]
@[simp] theorem raiseEventReady_det (s : State) : (raiseEventReady s).det = s.det := by
  simp [raiseEventReady]
@[simp] theorem raiseEventReady_queue (s : State) : (raiseEventReady s).queue = s.queue := by
  simp [raiseEventReady]
@[simp] theorem raiseEventReady_store (s : State) : (raiseEventReady s).store = s.store := by
  simp [raiseEventReady]
@[simp] theorem raiseEventReady_capture (s : State) : (raiseEventReady s).capture = s.capture := by
  simp [raiseEventReady]

/-! `beginCapture` changes at most: queue, store, capture. -/
@[simp] theorem beginCapture_pending (r : EventRecord) (s : State) : (beginCapture r s).pending = s.pending := by
  simp [beginCapture]
@[simp] theorem beginCapture_resetHeld (r : EventRecord) (s : State) : (beginCapture r s).resetHeld = s.resetHeld := by
  simp [beginCapture]
@[simp] theorem beginCapture_now (r : EventRecord) (s : State) : (beginCapture r s).now = s.now := by
  simp [beginCapture]
@[simp] theorem beginCapture_line (r : EventRecord) (s : State) : (beginCapture r s).line = s.line := by
  simp [beginCapture]
@[simp] theorem beginCapture_cmd (r : EventRecord) (s : State) : (beginCapture r s).cmd = s.cmd := by
  simp [beginCapture]
@[simp] theorem beginCapture_params (r : EventRecord) (s : State) : (beginCapture r s).params = s.params := by
  simp [beginCapture]
@[simp] theorem beginCapture_tracker (r : EventRecord) (s : State) : (beginCapture r s).tracker = s.tracker := by
  simp [beginCapture]
@[simp] theorem beginCapture_tracks (r : EventRecord) (s : State) : (beginCapture r s).tracks = s.tracks := by
  simp [beginCapture]
@[simp] theorem beginCapture_rings (r : EventRecord) (s : State) : (beginCapture r s).rings = s.rings := by
  simp [beginCapture]
@[simp] theorem beginCapture_banks (r : EventRecord) (s : State) : (beginCapture r s).banks = s.banks := by
  simp [beginCapture]
@[simp] theorem beginCapture_scan (r : EventRecord) (s : State) : (beginCapture r s).scan = s.scan := by
  simp [beginCapture]
@[simp] theorem beginCapture_det (r : EventRecord) (s : State) : (beginCapture r s).det = s.det := by
  simp [beginCapture]
@[simp] theorem beginCapture_notice (r : EventRecord) (s : State) : (beginCapture r s).notice = s.notice := by
  simp [beginCapture]

/-! `refuseCapture` changes at most: queue, capture, notice. -/
@[simp] theorem refuseCapture_pending (s : State) : (refuseCapture s).pending = s.pending := by
  simp [refuseCapture]
@[simp] theorem refuseCapture_resetHeld (s : State) : (refuseCapture s).resetHeld = s.resetHeld := by
  simp [refuseCapture]
@[simp] theorem refuseCapture_now (s : State) : (refuseCapture s).now = s.now := by
  simp [refuseCapture]
@[simp] theorem refuseCapture_line (s : State) : (refuseCapture s).line = s.line := by
  simp [refuseCapture]
@[simp] theorem refuseCapture_cmd (s : State) : (refuseCapture s).cmd = s.cmd := by
  simp [refuseCapture]
@[simp] theorem refuseCapture_params (s : State) : (refuseCapture s).params = s.params := by
  simp [refuseCapture]
@[simp] theorem refuseCapture_tracker (s : State) : (refuseCapture s).tracker = s.tracker := by
  simp [refuseCapture]
@[simp] theorem refuseCapture_tracks (s : State) : (refuseCapture s).tracks = s.tracks := by
  simp [refuseCapture]
@[simp] theorem refuseCapture_rings (s : State) : (refuseCapture s).rings = s.rings := by
  simp [refuseCapture]
@[simp] theorem refuseCapture_banks (s : State) : (refuseCapture s).banks = s.banks := by
  simp [refuseCapture]
@[simp] theorem refuseCapture_scan (s : State) : (refuseCapture s).scan = s.scan := by
  simp [refuseCapture]
@[simp] theorem refuseCapture_det (s : State) : (refuseCapture s).det = s.det := by
  simp [refuseCapture]
@[simp] theorem refuseCapture_store (s : State) : (refuseCapture s).store = s.store := by
  simp [refuseCapture]

/-! `serveCandidate` changes at most: queue, store, capture, notice. -/
@[simp] theorem serveCandidate_pending (n : Nat) (s : State) : (serveCandidate n s).pending = s.pending := by
  induction n generalizing s with | zero => rfl | succ n ih => (unfold serveCandidate; (repeat' split) <;> simp [ih])
@[simp] theorem serveCandidate_resetHeld (n : Nat) (s : State) : (serveCandidate n s).resetHeld = s.resetHeld := by
  induction n generalizing s with | zero => rfl | succ n ih => (unfold serveCandidate; (repeat' split) <;> simp [ih])
@[simp] theorem serveCandidate_now (n : Nat) (s : State) : (serveCandidate n s).now = s.now := by
  induction n generalizing s with | zero => rfl | succ n ih => (unfold serveCandidate; (repeat' split) <;> simp [ih])
@[simp] theorem serveCandidate_line (n : Nat) (s : State) : (serveCandidate n s).line = s.line := by
  induction n generalizing s with | zero => rfl | succ n ih => (unfold serveCandidate; (repeat' split) <;> simp [ih])
@[simp] theorem serveCandidate_cmd (n : Nat) (s : State) : (serveCandidate n s).cmd = s.cmd := by
  induction n generalizing s with | zero => rfl | succ n ih => (unfold serveCandidate; (repeat' split) <;> simp [ih])
@[simp] theorem serveCandidate_params (n : Nat) (s : State) : (serveCandidate n s).params = s.params := by
  induction n generalizing s with | zero => rfl | succ n ih => (unfold serveCandidate; (repeat' split) <;> simp [ih])
@[simp] theorem serveCandidate_tracker (n : Nat) (s : State) : (serveCandidate n s).tracker = s.tracker := by
  induction n generalizing s with | zero => rfl | succ n ih => (unfold serveCandidate; (repeat' split) <;> simp [ih])
@[simp] theorem serveCandidate_tracks (n : Nat) (s : State) : (serveCandidate n s).tracks = s.tracks := by
  induction n generalizing s with | zero => rfl | succ n ih => (unfold serveCandidate; (repeat' split) <;> simp [ih])
@[simp] theorem serveCandidate_rings (n : Nat) (s : State) : (serveCandidate n s).rings = s.rings := by
  induction n generalizing s with | zero => rfl | succ n ih => (unfold serveCandidate; (repeat' split) <;> simp [ih])
@[simp] theorem serveCandidate_banks (n : Nat) (s : State) : (serveCandidate n s).banks = s.banks := by
  induction n generalizing s with | zero => rfl | succ n ih => (unfold serveCandidate; (repeat' split) <;> simp [ih])
@[simp] theorem serveCandidate_scan (n : Nat) (s : State) : (serveCandidate n s).scan = s.scan := by
  induction n generalizing s with | zero => rfl | succ n ih => (unfold serveCandidate; (repeat' split) <;> simp [ih])
@[simp] theorem serveCandidate_det (n : Nat) (s : State) : (serveCandidate n s).det = s.det := by
  induction n generalizing s with | zero => rfl | succ n ih => (unfold serveCandidate; (repeat' split) <;> simp [ih])

/-! `waitTest` changes at most: queue, store, capture, notice. -/
@[simp] theorem waitTest_pending (s : State) : (waitTest s).pending = s.pending := by
  simp [waitTest]
@[simp] theorem waitTest_resetHeld (s : State) : (waitTest s).resetHeld = s.resetHeld := by
  simp [waitTest]
@[simp] theorem waitTest_now (s : State) : (waitTest s).now = s.now := by
  simp [waitTest]
@[simp] theorem waitTest_line (s : State) : (waitTest s).line = s.line := by
  simp [waitTest]
@[simp] theorem waitTest_cmd (s : State) : (waitTest s).cmd = s.cmd := by
  simp [waitTest]
@[simp] theorem waitTest_params (s : State) : (waitTest s).params = s.params := by
  simp [waitTest]
@[simp] theorem waitTest_tracker (s : State) : (waitTest s).tracker = s.tracker := by
  simp [waitTest]
@[simp] theorem waitTest_tracks (s : State) : (waitTest s).tracks = s.tracks := by
  simp [waitTest]
@[simp] theorem waitTest_rings (s : State) : (waitTest s).rings = s.rings := by
  simp [waitTest]
@[simp] theorem waitTest_banks (s : State) : (waitTest s).banks = s.banks := by
  simp [waitTest]
@[simp] theorem waitTest_scan (s : State) : (waitTest s).scan = s.scan := by
  simp [waitTest]
@[simp] theorem waitTest_det (s : State) : (waitTest s).det = s.det := by
  simp [waitTest]

/-! `waitTestFor` changes at most: queue, store, capture, notice. -/
@[simp] theorem waitTestFor_pending (l : Nat) (s : State) : (waitTestFor l s).pending = s.pending := by
  unfold waitTestFor; (repeat' split) <;> simp
@[simp] theorem waitTestFor_resetHeld (l : Nat) (s : State) : (waitTestFor l s).resetHeld = s.resetHeld := by
  unfold waitTestFor; (repeat' split) <;> simp
@[simp] theorem waitTestFor_now (l : Nat) (s : State) : (waitTestFor l s).now = s.now := by
  unfold waitTestFor; (repeat' split) <;> simp
@[simp] theorem waitTestFor_line (l : Nat) (s : State) : (waitTestFor l s).line = s.line := by
  unfold waitTestFor; (repeat' split) <;> simp
@[simp] theorem waitTestFor_cmd (l : Nat) (s : State) : (waitTestFor l s).cmd = s.cmd := by
  unfold waitTestFor; (repeat' split) <;> simp
@[simp] theorem waitTestFor_params (l : Nat) (s : State) : (waitTestFor l s).params = s.params := by
  unfold waitTestFor; (repeat' split) <;> simp
@[simp] theorem waitTestFor_tracker (l : Nat) (s : State) : (waitTestFor l s).tracker = s.tracker := by
  unfold waitTestFor; (repeat' split) <;> simp
@[simp] theorem waitTestFor_tracks (l : Nat) (s : State) : (waitTestFor l s).tracks = s.tracks := by
  unfold waitTestFor; (repeat' split) <;> simp
@[simp] theorem waitTestFor_rings (l : Nat) (s : State) : (waitTestFor l s).rings = s.rings := by
  unfold waitTestFor; (repeat' split) <;> simp
@[simp] theorem waitTestFor_banks (l : Nat) (s : State) : (waitTestFor l s).banks = s.banks := by
  unfold waitTestFor; (repeat' split) <;> simp
@[simp] theorem waitTestFor_scan (l : Nat) (s : State) : (waitTestFor l s).scan = s.scan := by
  unfold waitTestFor; (repeat' split) <;> simp
@[simp] theorem waitTestFor_det (l : Nat) (s : State) : (waitTestFor l s).det = s.det := by
  unfold waitTestFor; (repeat' split) <;> simp

/-! `abortCaptures` changes at most: queue, store, capture, notice. -/
@[simp] theorem abortCaptures_pending (s : State) : (abortCaptures s).pending = s.pending := by
  simp [abortCaptures]
@[simp] theorem abortCaptures_resetHeld (s : State) : (abortCaptures s).resetHeld = s.resetHeld := by
  simp [abortCaptures]
@[simp] theorem abortCaptures_now (s : State) : (abortCaptures s).now = s.now := by
  simp [abortCaptures]
@[simp] theorem abortCaptures_line (s : State) : (abortCaptures s).line = s.line := by
  simp [abortCaptures]
@[simp] theorem abortCaptures_cmd (s : State) : (abortCaptures s).cmd = s.cmd := by
  simp [abortCaptures]
@[simp] theorem abortCaptures_params (s : State) : (abortCaptures s).params = s.params := by
  simp [abortCaptures]
@[simp] theorem abortCaptures_tracker (s : State) : (abortCaptures s).tracker = s.tracker := by
  simp [abortCaptures]
@[simp] theorem abortCaptures_tracks (s : State) : (abortCaptures s).tracks = s.tracks := by
  simp [abortCaptures]
@[simp] theorem abortCaptures_rings (s : State) : (abortCaptures s).rings = s.rings := by
  simp [abortCaptures]
@[simp] theorem abortCaptures_banks (s : State) : (abortCaptures s).banks = s.banks := by
  simp [abortCaptures]
@[simp] theorem abortCaptures_scan (s : State) : (abortCaptures s).scan = s.scan := by
  simp [abortCaptures]
@[simp] theorem abortCaptures_det (s : State) : (abortCaptures s).det = s.det := by
  simp [abortCaptures]

/-! `appendRecord` changes at most: queue, store, capture, notice. -/
@[simp] theorem appendRecord_pending (r : EventRecord) (s : State) : (appendRecord r s).pending = s.pending := by
  unfold appendRecord; dsimp only; (repeat' split) <;> simp
@[simp] theorem appendRecord_resetHeld (r : EventRecord) (s : State) : (appendRecord r s).resetHeld = s.resetHeld := by
  unfold appendRecord; dsimp only; (repeat' split) <;> simp
@[simp] theorem appendRecord_now (r : EventRecord) (s : State) : (appendRecord r s).now = s.now := by
  unfold appendRecord; dsimp only; (repeat' split) <;> simp
@[simp] theorem appendRecord_line (r : EventRecord) (s : State) : (appendRecord r s).line = s.line := by
  unfold appendRecord; dsimp only; (repeat' split) <;> simp
@[simp] theorem appendRecord_cmd (r : EventRecord) (s : State) : (appendRecord r s).cmd = s.cmd := by
  unfold appendRecord; dsimp only; (repeat' split) <;> simp
@[simp] theorem appendRecord_params (r : EventRecord) (s : State) : (appendRecord r s).params = s.params := by
  unfold appendRecord; dsimp only; (repeat' split) <;> simp
@[simp] theorem appendRecord_tracker (r : EventRecord) (s : State) : (appendRecord r s).tracker = s.tracker := by
  unfold appendRecord; dsimp only; (repeat' split) <;> simp
@[simp] theorem appendRecord_tracks (r : EventRecord) (s : State) : (appendRecord r s).tracks = s.tracks := by
  unfold appendRecord; dsimp only; (repeat' split) <;> simp
@[simp] theorem appendRecord_rings (r : EventRecord) (s : State) : (appendRecord r s).rings = s.rings := by
  unfold appendRecord; dsimp only; (repeat' split) <;> simp
@[simp] theorem appendRecord_banks (r : EventRecord) (s : State) : (appendRecord r s).banks = s.banks := by
  unfold appendRecord; dsimp only; (repeat' split) <;> simp
@[simp] theorem appendRecord_scan (r : EventRecord) (s : State) : (appendRecord r s).scan = s.scan := by
  unfold appendRecord; dsimp only; (repeat' split) <;> simp
@[simp] theorem appendRecord_det (r : EventRecord) (s : State) : (appendRecord r s).det = s.det := by
  unfold appendRecord; dsimp only; (repeat' split) <;> simp

/-! `removeHead` changes at most: queue, store. -/
@[simp] theorem removeHead_pending (s : State) : (removeHead s).pending = s.pending := by
  unfold removeHead; (repeat' split) <;> simp
@[simp] theorem removeHead_resetHeld (s : State) : (removeHead s).resetHeld = s.resetHeld := by
  unfold removeHead; (repeat' split) <;> simp
@[simp] theorem removeHead_now (s : State) : (removeHead s).now = s.now := by
  unfold removeHead; (repeat' split) <;> simp
@[simp] theorem removeHead_line (s : State) : (removeHead s).line = s.line := by
  unfold removeHead; (repeat' split) <;> simp
@[simp] theorem removeHead_cmd (s : State) : (removeHead s).cmd = s.cmd := by
  unfold removeHead; (repeat' split) <;> simp
@[simp] theorem removeHead_params (s : State) : (removeHead s).params = s.params := by
  unfold removeHead; (repeat' split) <;> simp
@[simp] theorem removeHead_tracker (s : State) : (removeHead s).tracker = s.tracker := by
  unfold removeHead; (repeat' split) <;> simp
@[simp] theorem removeHead_tracks (s : State) : (removeHead s).tracks = s.tracks := by
  unfold removeHead; (repeat' split) <;> simp
@[simp] theorem removeHead_rings (s : State) : (removeHead s).rings = s.rings := by
  unfold removeHead; (repeat' split) <;> simp
@[simp] theorem removeHead_banks (s : State) : (removeHead s).banks = s.banks := by
  unfold removeHead; (repeat' split) <;> simp
@[simp] theorem removeHead_scan (s : State) : (removeHead s).scan = s.scan := by
  unfold removeHead; (repeat' split) <;> simp
@[simp] theorem removeHead_det (s : State) : (removeHead s).det = s.det := by
  unfold removeHead; (repeat' split) <;> simp
@[simp] theorem removeHead_capture (s : State) : (removeHead s).capture = s.capture := by
  unfold removeHead; (repeat' split) <;> simp
@[simp] theorem removeHead_notice (s : State) : (removeHead s).notice = s.notice := by
  unfold removeHead; (repeat' split) <;> simp

/-! `appendClosed` changes at most: det, queue, store, capture, notice. -/
@[simp] theorem appendClosed_pending (c : Closing) (run : Running) (plan : List PlanEntry) (s : State) :
    (appendClosed c run plan s).pending = s.pending := by
  simp [appendClosed]
@[simp] theorem appendClosed_resetHeld (c : Closing) (run : Running) (plan : List PlanEntry) (s : State) :
    (appendClosed c run plan s).resetHeld = s.resetHeld := by
  simp [appendClosed]
@[simp] theorem appendClosed_now (c : Closing) (run : Running) (plan : List PlanEntry) (s : State) :
    (appendClosed c run plan s).now = s.now := by
  simp [appendClosed]
@[simp] theorem appendClosed_line (c : Closing) (run : Running) (plan : List PlanEntry) (s : State) :
    (appendClosed c run plan s).line = s.line := by
  simp [appendClosed]
@[simp] theorem appendClosed_cmd (c : Closing) (run : Running) (plan : List PlanEntry) (s : State) :
    (appendClosed c run plan s).cmd = s.cmd := by
  simp [appendClosed]
@[simp] theorem appendClosed_params (c : Closing) (run : Running) (plan : List PlanEntry) (s : State) :
    (appendClosed c run plan s).params = s.params := by
  simp [appendClosed]
@[simp] theorem appendClosed_tracker (c : Closing) (run : Running) (plan : List PlanEntry) (s : State) :
    (appendClosed c run plan s).tracker = s.tracker := by
  simp [appendClosed]
@[simp] theorem appendClosed_tracks (c : Closing) (run : Running) (plan : List PlanEntry) (s : State) :
    (appendClosed c run plan s).tracks = s.tracks := by
  simp [appendClosed]
@[simp] theorem appendClosed_rings (c : Closing) (run : Running) (plan : List PlanEntry) (s : State) :
    (appendClosed c run plan s).rings = s.rings := by
  simp [appendClosed]
@[simp] theorem appendClosed_banks (c : Closing) (run : Running) (plan : List PlanEntry) (s : State) :
    (appendClosed c run plan s).banks = s.banks := by
  simp [appendClosed]
@[simp] theorem appendClosed_scan (c : Closing) (run : Running) (plan : List PlanEntry) (s : State) :
    (appendClosed c run plan s).scan = s.scan := by
  simp [appendClosed]

/-! `freezeClose` changes at most: det, queue, store, capture, notice. -/
@[simp] theorem freezeClose_pending (a : Activity) (s : State) : (freezeClose a s).pending = s.pending := by
  unfold freezeClose; (repeat' split) <;> simp
@[simp] theorem freezeClose_resetHeld (a : Activity) (s : State) : (freezeClose a s).resetHeld = s.resetHeld := by
  unfold freezeClose; (repeat' split) <;> simp
@[simp] theorem freezeClose_now (a : Activity) (s : State) : (freezeClose a s).now = s.now := by
  unfold freezeClose; (repeat' split) <;> simp
@[simp] theorem freezeClose_line (a : Activity) (s : State) : (freezeClose a s).line = s.line := by
  unfold freezeClose; (repeat' split) <;> simp
@[simp] theorem freezeClose_cmd (a : Activity) (s : State) : (freezeClose a s).cmd = s.cmd := by
  unfold freezeClose; (repeat' split) <;> simp
@[simp] theorem freezeClose_params (a : Activity) (s : State) : (freezeClose a s).params = s.params := by
  unfold freezeClose; (repeat' split) <;> simp
@[simp] theorem freezeClose_tracker (a : Activity) (s : State) : (freezeClose a s).tracker = s.tracker := by
  unfold freezeClose; (repeat' split) <;> simp
@[simp] theorem freezeClose_tracks (a : Activity) (s : State) : (freezeClose a s).tracks = s.tracks := by
  unfold freezeClose; (repeat' split) <;> simp
@[simp] theorem freezeClose_rings (a : Activity) (s : State) : (freezeClose a s).rings = s.rings := by
  unfold freezeClose; (repeat' split) <;> simp
@[simp] theorem freezeClose_banks (a : Activity) (s : State) : (freezeClose a s).banks = s.banks := by
  unfold freezeClose; (repeat' split) <;> simp
@[simp] theorem freezeClose_scan (a : Activity) (s : State) : (freezeClose a s).scan = s.scan := by
  unfold freezeClose; (repeat' split) <;> simp

/-- A fault of the planning leaves its close to go on. -/
@[simp] theorem freezeClose_planning (s : State) : freezeClose .planning s = s := by
  simp [freezeClose]

/-! `freezeCommand` changes at most: line, cmd. -/
@[simp] theorem freezeCommand_pending (s : State) : (freezeCommand s).pending = s.pending := by
  unfold freezeCommand; (repeat' split) <;> simp
@[simp] theorem freezeCommand_resetHeld (s : State) : (freezeCommand s).resetHeld = s.resetHeld := by
  unfold freezeCommand; (repeat' split) <;> simp
@[simp] theorem freezeCommand_now (s : State) : (freezeCommand s).now = s.now := by
  unfold freezeCommand; (repeat' split) <;> simp
@[simp] theorem freezeCommand_params (s : State) : (freezeCommand s).params = s.params := by
  unfold freezeCommand; (repeat' split) <;> simp
@[simp] theorem freezeCommand_tracker (s : State) : (freezeCommand s).tracker = s.tracker := by
  unfold freezeCommand; (repeat' split) <;> simp
@[simp] theorem freezeCommand_tracks (s : State) : (freezeCommand s).tracks = s.tracks := by
  unfold freezeCommand; (repeat' split) <;> simp
@[simp] theorem freezeCommand_rings (s : State) : (freezeCommand s).rings = s.rings := by
  unfold freezeCommand; (repeat' split) <;> simp
@[simp] theorem freezeCommand_banks (s : State) : (freezeCommand s).banks = s.banks := by
  unfold freezeCommand; (repeat' split) <;> simp
@[simp] theorem freezeCommand_scan (s : State) : (freezeCommand s).scan = s.scan := by
  unfold freezeCommand; (repeat' split) <;> simp
@[simp] theorem freezeCommand_det (s : State) : (freezeCommand s).det = s.det := by
  unfold freezeCommand; (repeat' split) <;> simp
@[simp] theorem freezeCommand_queue (s : State) : (freezeCommand s).queue = s.queue := by
  unfold freezeCommand; (repeat' split) <;> simp
@[simp] theorem freezeCommand_store (s : State) : (freezeCommand s).store = s.store := by
  unfold freezeCommand; (repeat' split) <;> simp
@[simp] theorem freezeCommand_capture (s : State) : (freezeCommand s).capture = s.capture := by
  unfold freezeCommand; (repeat' split) <;> simp
@[simp] theorem freezeCommand_notice (s : State) : (freezeCommand s).notice = s.notice := by
  unfold freezeCommand; (repeat' split) <;> simp

/-! `enterFrozen` changes at most: line, cmd, tracker, scan, det, queue, store, capture, notice. -/
@[simp] theorem enterFrozen_pending (a : Activity) (s : State) : (enterFrozen a s).pending = s.pending := by
  simp [enterFrozen]
@[simp] theorem enterFrozen_resetHeld (a : Activity) (s : State) : (enterFrozen a s).resetHeld = s.resetHeld := by
  simp [enterFrozen]
@[simp] theorem enterFrozen_now (a : Activity) (s : State) : (enterFrozen a s).now = s.now := by
  simp [enterFrozen]
@[simp] theorem enterFrozen_params (a : Activity) (s : State) : (enterFrozen a s).params = s.params := by
  simp [enterFrozen]
@[simp] theorem enterFrozen_tracks (a : Activity) (s : State) : (enterFrozen a s).tracks = s.tracks := by
  simp [enterFrozen]
@[simp] theorem enterFrozen_rings (a : Activity) (s : State) : (enterFrozen a s).rings = s.rings := by
  simp [enterFrozen]
@[simp] theorem enterFrozen_banks (a : Activity) (s : State) : (enterFrozen a s).banks = s.banks := by
  simp [enterFrozen]

/-! `takeFault` changes at most: line, cmd, tracker, scan, det, queue, store, capture, notice. -/
@[simp] theorem takeFault_pending (a : Activity) (p : FaultPlace) (s : State) : (takeFault a p s).pending = s.pending := by
  unfold takeFault; dsimp only; (repeat' split) <;> simp
@[simp] theorem takeFault_resetHeld (a : Activity) (p : FaultPlace) (s : State) : (takeFault a p s).resetHeld = s.resetHeld := by
  unfold takeFault; dsimp only; (repeat' split) <;> simp
@[simp] theorem takeFault_now (a : Activity) (p : FaultPlace) (s : State) : (takeFault a p s).now = s.now := by
  unfold takeFault; dsimp only; (repeat' split) <;> simp
@[simp] theorem takeFault_params (a : Activity) (p : FaultPlace) (s : State) : (takeFault a p s).params = s.params := by
  unfold takeFault; dsimp only; (repeat' split) <;> simp
@[simp] theorem takeFault_tracks (a : Activity) (p : FaultPlace) (s : State) : (takeFault a p s).tracks = s.tracks := by
  unfold takeFault; dsimp only; (repeat' split) <;> simp
@[simp] theorem takeFault_rings (a : Activity) (p : FaultPlace) (s : State) : (takeFault a p s).rings = s.rings := by
  unfold takeFault; dsimp only; (repeat' split) <;> simp
@[simp] theorem takeFault_banks (a : Activity) (p : FaultPlace) (s : State) : (takeFault a p s).banks = s.banks := by
  unfold takeFault; dsimp only; (repeat' split) <;> simp

/-- A fault that the planning of a close meets leaves the Detector to that close. -/
@[simp] theorem takeFault_planning_det (p : FaultPlace) (s : State) : (takeFault .planning p s).det = s.det := by
  unfold takeFault enterFrozen; simp only [freezeClose_planning]; (repeat' split) <;> simp

/-! `copyEccFailure` changes at most: line, cmd, tracker, scan, det, queue, store, capture, notice. -/
@[simp] theorem copyEccFailure_pending (l i : Nat) (s : State) : (copyEccFailure l i s).pending = s.pending := by
  unfold copyEccFailure; (repeat' split) <;> simp
@[simp] theorem copyEccFailure_resetHeld (l i : Nat) (s : State) : (copyEccFailure l i s).resetHeld = s.resetHeld := by
  unfold copyEccFailure; (repeat' split) <;> simp
@[simp] theorem copyEccFailure_now (l i : Nat) (s : State) : (copyEccFailure l i s).now = s.now := by
  unfold copyEccFailure; (repeat' split) <;> simp
@[simp] theorem copyEccFailure_params (l i : Nat) (s : State) : (copyEccFailure l i s).params = s.params := by
  unfold copyEccFailure; (repeat' split) <;> simp
@[simp] theorem copyEccFailure_tracks (l i : Nat) (s : State) : (copyEccFailure l i s).tracks = s.tracks := by
  unfold copyEccFailure; (repeat' split) <;> simp
@[simp] theorem copyEccFailure_rings (l i : Nat) (s : State) : (copyEccFailure l i s).rings = s.rings := by
  unfold copyEccFailure; (repeat' split) <;> simp
@[simp] theorem copyEccFailure_banks (l i : Nat) (s : State) : (copyEccFailure l i s).banks = s.banks := by
  unfold copyEccFailure; (repeat' split) <;> simp

/-! `writeStore` changes at most: store. -/
@[simp] theorem writeStore_pending (w : Nat) (x : Sample) (s : State) : (writeStore w x s).pending = s.pending := by
  simp [writeStore]
@[simp] theorem writeStore_resetHeld (w : Nat) (x : Sample) (s : State) : (writeStore w x s).resetHeld = s.resetHeld := by
  simp [writeStore]
@[simp] theorem writeStore_now (w : Nat) (x : Sample) (s : State) : (writeStore w x s).now = s.now := by
  simp [writeStore]
@[simp] theorem writeStore_line (w : Nat) (x : Sample) (s : State) : (writeStore w x s).line = s.line := by
  simp [writeStore]
@[simp] theorem writeStore_cmd (w : Nat) (x : Sample) (s : State) : (writeStore w x s).cmd = s.cmd := by
  simp [writeStore]
@[simp] theorem writeStore_params (w : Nat) (x : Sample) (s : State) : (writeStore w x s).params = s.params := by
  simp [writeStore]
@[simp] theorem writeStore_tracker (w : Nat) (x : Sample) (s : State) : (writeStore w x s).tracker = s.tracker := by
  simp [writeStore]
@[simp] theorem writeStore_tracks (w : Nat) (x : Sample) (s : State) : (writeStore w x s).tracks = s.tracks := by
  simp [writeStore]
@[simp] theorem writeStore_rings (w : Nat) (x : Sample) (s : State) : (writeStore w x s).rings = s.rings := by
  simp [writeStore]
@[simp] theorem writeStore_banks (w : Nat) (x : Sample) (s : State) : (writeStore w x s).banks = s.banks := by
  simp [writeStore]
@[simp] theorem writeStore_scan (w : Nat) (x : Sample) (s : State) : (writeStore w x s).scan = s.scan := by
  simp [writeStore]
@[simp] theorem writeStore_det (w : Nat) (x : Sample) (s : State) : (writeStore w x s).det = s.det := by
  simp [writeStore]
@[simp] theorem writeStore_queue (w : Nat) (x : Sample) (s : State) : (writeStore w x s).queue = s.queue := by
  simp [writeStore]
@[simp] theorem writeStore_capture (w : Nat) (x : Sample) (s : State) : (writeStore w x s).capture = s.capture := by
  simp [writeStore]
@[simp] theorem writeStore_notice (w : Nat) (x : Sample) (s : State) : (writeStore w x s).notice = s.notice := by
  simp [writeStore]

/-! `updateCapturing` changes at most: queue. -/
@[simp] theorem updateCapturing_pending (f : EventRecord → EventRecord) (s : State) : (updateCapturing f s).pending = s.pending := by
  simp [updateCapturing]
@[simp] theorem updateCapturing_resetHeld (f : EventRecord → EventRecord) (s : State) : (updateCapturing f s).resetHeld = s.resetHeld := by
  simp [updateCapturing]
@[simp] theorem updateCapturing_now (f : EventRecord → EventRecord) (s : State) : (updateCapturing f s).now = s.now := by
  simp [updateCapturing]
@[simp] theorem updateCapturing_line (f : EventRecord → EventRecord) (s : State) : (updateCapturing f s).line = s.line := by
  simp [updateCapturing]
@[simp] theorem updateCapturing_cmd (f : EventRecord → EventRecord) (s : State) : (updateCapturing f s).cmd = s.cmd := by
  simp [updateCapturing]
@[simp] theorem updateCapturing_params (f : EventRecord → EventRecord) (s : State) : (updateCapturing f s).params = s.params := by
  simp [updateCapturing]
@[simp] theorem updateCapturing_tracker (f : EventRecord → EventRecord) (s : State) : (updateCapturing f s).tracker = s.tracker := by
  simp [updateCapturing]
@[simp] theorem updateCapturing_tracks (f : EventRecord → EventRecord) (s : State) : (updateCapturing f s).tracks = s.tracks := by
  simp [updateCapturing]
@[simp] theorem updateCapturing_rings (f : EventRecord → EventRecord) (s : State) : (updateCapturing f s).rings = s.rings := by
  simp [updateCapturing]
@[simp] theorem updateCapturing_banks (f : EventRecord → EventRecord) (s : State) : (updateCapturing f s).banks = s.banks := by
  simp [updateCapturing]
@[simp] theorem updateCapturing_scan (f : EventRecord → EventRecord) (s : State) : (updateCapturing f s).scan = s.scan := by
  simp [updateCapturing]
@[simp] theorem updateCapturing_det (f : EventRecord → EventRecord) (s : State) : (updateCapturing f s).det = s.det := by
  simp [updateCapturing]
@[simp] theorem updateCapturing_store (f : EventRecord → EventRecord) (s : State) : (updateCapturing f s).store = s.store := by
  simp [updateCapturing]
@[simp] theorem updateCapturing_capture (f : EventRecord → EventRecord) (s : State) : (updateCapturing f s).capture = s.capture := by
  simp [updateCapturing]
@[simp] theorem updateCapturing_notice (f : EventRecord → EventRecord) (s : State) : (updateCapturing f s).notice = s.notice := by
  simp [updateCapturing]

/-! `endCapture` changes at most: queue, store, capture, notice. -/
@[simp] theorem endCapture_pending (e : Bool) (s : State) : (endCapture e s).pending = s.pending := by
  simp [endCapture]
@[simp] theorem endCapture_resetHeld (e : Bool) (s : State) : (endCapture e s).resetHeld = s.resetHeld := by
  simp [endCapture]
@[simp] theorem endCapture_now (e : Bool) (s : State) : (endCapture e s).now = s.now := by
  simp [endCapture]
@[simp] theorem endCapture_line (e : Bool) (s : State) : (endCapture e s).line = s.line := by
  simp [endCapture]
@[simp] theorem endCapture_cmd (e : Bool) (s : State) : (endCapture e s).cmd = s.cmd := by
  simp [endCapture]
@[simp] theorem endCapture_params (e : Bool) (s : State) : (endCapture e s).params = s.params := by
  simp [endCapture]
@[simp] theorem endCapture_tracker (e : Bool) (s : State) : (endCapture e s).tracker = s.tracker := by
  simp [endCapture]
@[simp] theorem endCapture_tracks (e : Bool) (s : State) : (endCapture e s).tracks = s.tracks := by
  simp [endCapture]
@[simp] theorem endCapture_rings (e : Bool) (s : State) : (endCapture e s).rings = s.rings := by
  simp [endCapture]
@[simp] theorem endCapture_banks (e : Bool) (s : State) : (endCapture e s).banks = s.banks := by
  simp [endCapture]
@[simp] theorem endCapture_scan (e : Bool) (s : State) : (endCapture e s).scan = s.scan := by
  simp [endCapture]
@[simp] theorem endCapture_det (e : Bool) (s : State) : (endCapture e s).det = s.det := by
  simp [endCapture]

/-! `discardClose` changes at most: det, queue, notice. -/
@[simp] theorem discardClose_pending (s : State) : (discardClose s).pending = s.pending := by
  simp [discardClose]
@[simp] theorem discardClose_resetHeld (s : State) : (discardClose s).resetHeld = s.resetHeld := by
  simp [discardClose]
@[simp] theorem discardClose_now (s : State) : (discardClose s).now = s.now := by
  simp [discardClose]
@[simp] theorem discardClose_line (s : State) : (discardClose s).line = s.line := by
  simp [discardClose]
@[simp] theorem discardClose_cmd (s : State) : (discardClose s).cmd = s.cmd := by
  simp [discardClose]
@[simp] theorem discardClose_params (s : State) : (discardClose s).params = s.params := by
  simp [discardClose]
@[simp] theorem discardClose_tracker (s : State) : (discardClose s).tracker = s.tracker := by
  simp [discardClose]
@[simp] theorem discardClose_tracks (s : State) : (discardClose s).tracks = s.tracks := by
  simp [discardClose]
@[simp] theorem discardClose_rings (s : State) : (discardClose s).rings = s.rings := by
  simp [discardClose]
@[simp] theorem discardClose_banks (s : State) : (discardClose s).banks = s.banks := by
  simp [discardClose]
@[simp] theorem discardClose_scan (s : State) : (discardClose s).scan = s.scan := by
  simp [discardClose]
@[simp] theorem discardClose_store (s : State) : (discardClose s).store = s.store := by
  simp [discardClose]
@[simp] theorem discardClose_capture (s : State) : (discardClose s).capture = s.capture := by
  simp [discardClose]

/-! `beginClose` changes at most: det, queue, notice. -/
@[simp] theorem beginClose_pending (k : CloseReason) (t : Nat) (c : Bool) (s : State) : (beginClose k t c s).pending = s.pending := by
  unfold beginClose; (repeat' split) <;> simp
@[simp] theorem beginClose_resetHeld (k : CloseReason) (t : Nat) (c : Bool) (s : State) : (beginClose k t c s).resetHeld = s.resetHeld := by
  unfold beginClose; (repeat' split) <;> simp
@[simp] theorem beginClose_now (k : CloseReason) (t : Nat) (c : Bool) (s : State) : (beginClose k t c s).now = s.now := by
  unfold beginClose; (repeat' split) <;> simp
@[simp] theorem beginClose_line (k : CloseReason) (t : Nat) (c : Bool) (s : State) : (beginClose k t c s).line = s.line := by
  unfold beginClose; (repeat' split) <;> simp
@[simp] theorem beginClose_cmd (k : CloseReason) (t : Nat) (c : Bool) (s : State) : (beginClose k t c s).cmd = s.cmd := by
  unfold beginClose; (repeat' split) <;> simp
@[simp] theorem beginClose_params (k : CloseReason) (t : Nat) (c : Bool) (s : State) : (beginClose k t c s).params = s.params := by
  unfold beginClose; (repeat' split) <;> simp
@[simp] theorem beginClose_tracker (k : CloseReason) (t : Nat) (c : Bool) (s : State) : (beginClose k t c s).tracker = s.tracker := by
  unfold beginClose; (repeat' split) <;> simp
@[simp] theorem beginClose_tracks (k : CloseReason) (t : Nat) (c : Bool) (s : State) : (beginClose k t c s).tracks = s.tracks := by
  unfold beginClose; (repeat' split) <;> simp
@[simp] theorem beginClose_rings (k : CloseReason) (t : Nat) (c : Bool) (s : State) : (beginClose k t c s).rings = s.rings := by
  unfold beginClose; (repeat' split) <;> simp
@[simp] theorem beginClose_banks (k : CloseReason) (t : Nat) (c : Bool) (s : State) : (beginClose k t c s).banks = s.banks := by
  unfold beginClose; (repeat' split) <;> simp
@[simp] theorem beginClose_scan (k : CloseReason) (t : Nat) (c : Bool) (s : State) : (beginClose k t c s).scan = s.scan := by
  unfold beginClose; (repeat' split) <;> simp
@[simp] theorem beginClose_store (k : CloseReason) (t : Nat) (c : Bool) (s : State) : (beginClose k t c s).store = s.store := by
  unfold beginClose; (repeat' split) <;> simp
@[simp] theorem beginClose_capture (k : CloseReason) (t : Nat) (c : Bool) (s : State) : (beginClose k t c s).capture = s.capture := by
  unfold beginClose; (repeat' split) <;> simp

/-! `tickInDeclared` changes at most: det, queue, notice. -/
@[simp] theorem tickInDeclared_pending (v : DetectParams) (r : TickResult) (run : Running) (s : State) : (tickInDeclared v r run s).pending = s.pending := by
  unfold tickInDeclared; dsimp only; (repeat' split) <;> simp
@[simp] theorem tickInDeclared_resetHeld (v : DetectParams) (r : TickResult) (run : Running) (s : State) : (tickInDeclared v r run s).resetHeld = s.resetHeld := by
  unfold tickInDeclared; dsimp only; (repeat' split) <;> simp
@[simp] theorem tickInDeclared_now (v : DetectParams) (r : TickResult) (run : Running) (s : State) : (tickInDeclared v r run s).now = s.now := by
  unfold tickInDeclared; dsimp only; (repeat' split) <;> simp
@[simp] theorem tickInDeclared_line (v : DetectParams) (r : TickResult) (run : Running) (s : State) : (tickInDeclared v r run s).line = s.line := by
  unfold tickInDeclared; dsimp only; (repeat' split) <;> simp
@[simp] theorem tickInDeclared_cmd (v : DetectParams) (r : TickResult) (run : Running) (s : State) : (tickInDeclared v r run s).cmd = s.cmd := by
  unfold tickInDeclared; dsimp only; (repeat' split) <;> simp
@[simp] theorem tickInDeclared_params (v : DetectParams) (r : TickResult) (run : Running) (s : State) : (tickInDeclared v r run s).params = s.params := by
  unfold tickInDeclared; dsimp only; (repeat' split) <;> simp
@[simp] theorem tickInDeclared_tracker (v : DetectParams) (r : TickResult) (run : Running) (s : State) : (tickInDeclared v r run s).tracker = s.tracker := by
  unfold tickInDeclared; dsimp only; (repeat' split) <;> simp
@[simp] theorem tickInDeclared_tracks (v : DetectParams) (r : TickResult) (run : Running) (s : State) : (tickInDeclared v r run s).tracks = s.tracks := by
  unfold tickInDeclared; dsimp only; (repeat' split) <;> simp
@[simp] theorem tickInDeclared_rings (v : DetectParams) (r : TickResult) (run : Running) (s : State) : (tickInDeclared v r run s).rings = s.rings := by
  unfold tickInDeclared; dsimp only; (repeat' split) <;> simp
@[simp] theorem tickInDeclared_banks (v : DetectParams) (r : TickResult) (run : Running) (s : State) : (tickInDeclared v r run s).banks = s.banks := by
  unfold tickInDeclared; dsimp only; (repeat' split) <;> simp
@[simp] theorem tickInDeclared_scan (v : DetectParams) (r : TickResult) (run : Running) (s : State) : (tickInDeclared v r run s).scan = s.scan := by
  unfold tickInDeclared; dsimp only; (repeat' split) <;> simp
@[simp] theorem tickInDeclared_store (v : DetectParams) (r : TickResult) (run : Running) (s : State) : (tickInDeclared v r run s).store = s.store := by
  unfold tickInDeclared; dsimp only; (repeat' split) <;> simp
@[simp] theorem tickInDeclared_capture (v : DetectParams) (r : TickResult) (run : Running) (s : State) : (tickInDeclared v r run s).capture = s.capture := by
  unfold tickInDeclared; dsimp only; (repeat' split) <;> simp

/-! `takeTickResult` changes at most: det, queue, notice. -/
@[simp] theorem takeTickResult_pending (r : TickResult) (s : State) : (takeTickResult r s).pending = s.pending := by
  unfold takeTickResult; dsimp only; (repeat' split) <;> simp
@[simp] theorem takeTickResult_resetHeld (r : TickResult) (s : State) : (takeTickResult r s).resetHeld = s.resetHeld := by
  unfold takeTickResult; dsimp only; (repeat' split) <;> simp
@[simp] theorem takeTickResult_now (r : TickResult) (s : State) : (takeTickResult r s).now = s.now := by
  unfold takeTickResult; dsimp only; (repeat' split) <;> simp
@[simp] theorem takeTickResult_line (r : TickResult) (s : State) : (takeTickResult r s).line = s.line := by
  unfold takeTickResult; dsimp only; (repeat' split) <;> simp
@[simp] theorem takeTickResult_cmd (r : TickResult) (s : State) : (takeTickResult r s).cmd = s.cmd := by
  unfold takeTickResult; dsimp only; (repeat' split) <;> simp
@[simp] theorem takeTickResult_params (r : TickResult) (s : State) : (takeTickResult r s).params = s.params := by
  unfold takeTickResult; dsimp only; (repeat' split) <;> simp
@[simp] theorem takeTickResult_tracker (r : TickResult) (s : State) : (takeTickResult r s).tracker = s.tracker := by
  unfold takeTickResult; dsimp only; (repeat' split) <;> simp
@[simp] theorem takeTickResult_tracks (r : TickResult) (s : State) : (takeTickResult r s).tracks = s.tracks := by
  unfold takeTickResult; dsimp only; (repeat' split) <;> simp
@[simp] theorem takeTickResult_rings (r : TickResult) (s : State) : (takeTickResult r s).rings = s.rings := by
  unfold takeTickResult; dsimp only; (repeat' split) <;> simp
@[simp] theorem takeTickResult_banks (r : TickResult) (s : State) : (takeTickResult r s).banks = s.banks := by
  unfold takeTickResult; dsimp only; (repeat' split) <;> simp
@[simp] theorem takeTickResult_scan (r : TickResult) (s : State) : (takeTickResult r s).scan = s.scan := by
  unfold takeTickResult; dsimp only; (repeat' split) <;> simp
@[simp] theorem takeTickResult_store (r : TickResult) (s : State) : (takeTickResult r s).store = s.store := by
  unfold takeTickResult; dsimp only; (repeat' split) <;> simp
@[simp] theorem takeTickResult_capture (r : TickResult) (s : State) : (takeTickResult r s).capture = s.capture := by
  unfold takeTickResult; dsimp only; (repeat' split) <;> simp

/-! `cutOpenEvent` changes at most: det, queue, notice. -/
@[simp] theorem cutOpenEvent_pending (k : CloseReason) (s : State) : (cutOpenEvent k s).pending = s.pending := by
  unfold cutOpenEvent; (repeat' split) <;> simp
@[simp] theorem cutOpenEvent_resetHeld (k : CloseReason) (s : State) : (cutOpenEvent k s).resetHeld = s.resetHeld := by
  unfold cutOpenEvent; (repeat' split) <;> simp
@[simp] theorem cutOpenEvent_now (k : CloseReason) (s : State) : (cutOpenEvent k s).now = s.now := by
  unfold cutOpenEvent; (repeat' split) <;> simp
@[simp] theorem cutOpenEvent_line (k : CloseReason) (s : State) : (cutOpenEvent k s).line = s.line := by
  unfold cutOpenEvent; (repeat' split) <;> simp
@[simp] theorem cutOpenEvent_cmd (k : CloseReason) (s : State) : (cutOpenEvent k s).cmd = s.cmd := by
  unfold cutOpenEvent; (repeat' split) <;> simp
@[simp] theorem cutOpenEvent_params (k : CloseReason) (s : State) : (cutOpenEvent k s).params = s.params := by
  unfold cutOpenEvent; (repeat' split) <;> simp
@[simp] theorem cutOpenEvent_tracker (k : CloseReason) (s : State) : (cutOpenEvent k s).tracker = s.tracker := by
  unfold cutOpenEvent; (repeat' split) <;> simp
@[simp] theorem cutOpenEvent_tracks (k : CloseReason) (s : State) : (cutOpenEvent k s).tracks = s.tracks := by
  unfold cutOpenEvent; (repeat' split) <;> simp
@[simp] theorem cutOpenEvent_rings (k : CloseReason) (s : State) : (cutOpenEvent k s).rings = s.rings := by
  unfold cutOpenEvent; (repeat' split) <;> simp
@[simp] theorem cutOpenEvent_banks (k : CloseReason) (s : State) : (cutOpenEvent k s).banks = s.banks := by
  unfold cutOpenEvent; (repeat' split) <;> simp
@[simp] theorem cutOpenEvent_scan (k : CloseReason) (s : State) : (cutOpenEvent k s).scan = s.scan := by
  unfold cutOpenEvent; (repeat' split) <;> simp
@[simp] theorem cutOpenEvent_store (k : CloseReason) (s : State) : (cutOpenEvent k s).store = s.store := by
  unfold cutOpenEvent; (repeat' split) <;> simp
@[simp] theorem cutOpenEvent_capture (k : CloseReason) (s : State) : (cutOpenEvent k s).capture = s.capture := by
  unfold cutOpenEvent; (repeat' split) <;> simp

/-! `takeOverrun` changes at most: det, queue, notice. -/
@[simp] theorem takeOverrun_pending (s : State) : (takeOverrun s).pending = s.pending := by
  unfold takeOverrun; (repeat' split) <;> simp
@[simp] theorem takeOverrun_resetHeld (s : State) : (takeOverrun s).resetHeld = s.resetHeld := by
  unfold takeOverrun; (repeat' split) <;> simp
@[simp] theorem takeOverrun_now (s : State) : (takeOverrun s).now = s.now := by
  unfold takeOverrun; (repeat' split) <;> simp
@[simp] theorem takeOverrun_line (s : State) : (takeOverrun s).line = s.line := by
  unfold takeOverrun; (repeat' split) <;> simp
@[simp] theorem takeOverrun_cmd (s : State) : (takeOverrun s).cmd = s.cmd := by
  unfold takeOverrun; (repeat' split) <;> simp
@[simp] theorem takeOverrun_params (s : State) : (takeOverrun s).params = s.params := by
  unfold takeOverrun; (repeat' split) <;> simp
@[simp] theorem takeOverrun_tracker (s : State) : (takeOverrun s).tracker = s.tracker := by
  unfold takeOverrun; (repeat' split) <;> simp
@[simp] theorem takeOverrun_tracks (s : State) : (takeOverrun s).tracks = s.tracks := by
  unfold takeOverrun; (repeat' split) <;> simp
@[simp] theorem takeOverrun_rings (s : State) : (takeOverrun s).rings = s.rings := by
  unfold takeOverrun; (repeat' split) <;> simp
@[simp] theorem takeOverrun_banks (s : State) : (takeOverrun s).banks = s.banks := by
  unfold takeOverrun; (repeat' split) <;> simp
@[simp] theorem takeOverrun_scan (s : State) : (takeOverrun s).scan = s.scan := by
  unfold takeOverrun; (repeat' split) <;> simp
@[simp] theorem takeOverrun_store (s : State) : (takeOverrun s).store = s.store := by
  unfold takeOverrun; (repeat' split) <;> simp
@[simp] theorem takeOverrun_capture (s : State) : (takeOverrun s).capture = s.capture := by
  unfold takeOverrun; (repeat' split) <;> simp

/-! `keptOverrun` changes at most: det, queue, notice. -/
@[simp] theorem keptOverrun_pending (c : Closing) (s : State) : (keptOverrun c s).pending = s.pending := by
  unfold keptOverrun; split <;> simp
@[simp] theorem keptOverrun_resetHeld (c : Closing) (s : State) : (keptOverrun c s).resetHeld = s.resetHeld := by
  unfold keptOverrun; split <;> simp
@[simp] theorem keptOverrun_now (c : Closing) (s : State) : (keptOverrun c s).now = s.now := by
  unfold keptOverrun; split <;> simp
@[simp] theorem keptOverrun_line (c : Closing) (s : State) : (keptOverrun c s).line = s.line := by
  unfold keptOverrun; split <;> simp
@[simp] theorem keptOverrun_cmd (c : Closing) (s : State) : (keptOverrun c s).cmd = s.cmd := by
  unfold keptOverrun; split <;> simp
@[simp] theorem keptOverrun_params (c : Closing) (s : State) : (keptOverrun c s).params = s.params := by
  unfold keptOverrun; split <;> simp
@[simp] theorem keptOverrun_tracker (c : Closing) (s : State) : (keptOverrun c s).tracker = s.tracker := by
  unfold keptOverrun; split <;> simp
@[simp] theorem keptOverrun_tracks (c : Closing) (s : State) : (keptOverrun c s).tracks = s.tracks := by
  unfold keptOverrun; split <;> simp
@[simp] theorem keptOverrun_rings (c : Closing) (s : State) : (keptOverrun c s).rings = s.rings := by
  unfold keptOverrun; split <;> simp
@[simp] theorem keptOverrun_banks (c : Closing) (s : State) : (keptOverrun c s).banks = s.banks := by
  unfold keptOverrun; split <;> simp
@[simp] theorem keptOverrun_scan (c : Closing) (s : State) : (keptOverrun c s).scan = s.scan := by
  unfold keptOverrun; split <;> simp
@[simp] theorem keptOverrun_store (c : Closing) (s : State) : (keptOverrun c s).store = s.store := by
  unfold keptOverrun; split <;> simp
@[simp] theorem keptOverrun_capture (c : Closing) (s : State) : (keptOverrun c s).capture = s.capture := by
  unfold keptOverrun; split <;> simp

/-! `takeSilence` changes at most: det, queue, notice. -/
@[simp] theorem takeSilence_pending (s : State) : (takeSilence s).pending = s.pending := by
  unfold takeSilence; (repeat' split) <;> simp
@[simp] theorem takeSilence_resetHeld (s : State) : (takeSilence s).resetHeld = s.resetHeld := by
  unfold takeSilence; (repeat' split) <;> simp
@[simp] theorem takeSilence_now (s : State) : (takeSilence s).now = s.now := by
  unfold takeSilence; (repeat' split) <;> simp
@[simp] theorem takeSilence_line (s : State) : (takeSilence s).line = s.line := by
  unfold takeSilence; (repeat' split) <;> simp
@[simp] theorem takeSilence_cmd (s : State) : (takeSilence s).cmd = s.cmd := by
  unfold takeSilence; (repeat' split) <;> simp
@[simp] theorem takeSilence_params (s : State) : (takeSilence s).params = s.params := by
  unfold takeSilence; (repeat' split) <;> simp
@[simp] theorem takeSilence_tracker (s : State) : (takeSilence s).tracker = s.tracker := by
  unfold takeSilence; (repeat' split) <;> simp
@[simp] theorem takeSilence_tracks (s : State) : (takeSilence s).tracks = s.tracks := by
  unfold takeSilence; (repeat' split) <;> simp
@[simp] theorem takeSilence_rings (s : State) : (takeSilence s).rings = s.rings := by
  unfold takeSilence; (repeat' split) <;> simp
@[simp] theorem takeSilence_banks (s : State) : (takeSilence s).banks = s.banks := by
  unfold takeSilence; (repeat' split) <;> simp
@[simp] theorem takeSilence_scan (s : State) : (takeSilence s).scan = s.scan := by
  unfold takeSilence; (repeat' split) <;> simp
@[simp] theorem takeSilence_store (s : State) : (takeSilence s).store = s.store := by
  unfold takeSilence; (repeat' split) <;> simp
@[simp] theorem takeSilence_capture (s : State) : (takeSilence s).capture = s.capture := by
  unfold takeSilence; (repeat' split) <;> simp

/-! `planRead` changes at most: line, cmd, tracker, scan, queue, store, capture, notice. -/
@[simp] theorem planRead_pending (m : Maximum) (l : Nat) (s : State) : (planRead m l s).2.pending = s.pending := by
  unfold planRead; dsimp only; (repeat' split) <;> simp
@[simp] theorem planRead_resetHeld (m : Maximum) (l : Nat) (s : State) : (planRead m l s).2.resetHeld = s.resetHeld := by
  unfold planRead; dsimp only; (repeat' split) <;> simp
@[simp] theorem planRead_now (m : Maximum) (l : Nat) (s : State) : (planRead m l s).2.now = s.now := by
  unfold planRead; dsimp only; (repeat' split) <;> simp
@[simp] theorem planRead_params (m : Maximum) (l : Nat) (s : State) : (planRead m l s).2.params = s.params := by
  unfold planRead; dsimp only; (repeat' split) <;> simp
@[simp] theorem planRead_tracks (m : Maximum) (l : Nat) (s : State) : (planRead m l s).2.tracks = s.tracks := by
  unfold planRead; dsimp only; (repeat' split) <;> simp
@[simp] theorem planRead_rings (m : Maximum) (l : Nat) (s : State) : (planRead m l s).2.rings = s.rings := by
  unfold planRead; dsimp only; (repeat' split) <;> simp
@[simp] theorem planRead_banks (m : Maximum) (l : Nat) (s : State) : (planRead m l s).2.banks = s.banks := by
  unfold planRead; dsimp only; (repeat' split) <;> simp
@[simp] theorem planRead_det (m : Maximum) (l : Nat) (s : State) : (planRead m l s).2.det = s.det := by
  unfold planRead; dsimp only; (repeat' split) <;> simp

/-! `walkPlan` changes at most: line, cmd, tracker, scan, queue, store, capture, notice. -/
@[simp] theorem walkPlan_pending (m : Maximum) (c : CaptureParams) (ps : List (Nat × Nat)) (n : Nat) (s : State) : (walkPlan m c ps n s).2.pending = s.pending := by
  induction ps generalizing n s with
  | nil => rfl
  | cons p ps ih =>
    unfold walkPlan
    split
    · rfl
    · have h := planRead_pending m p.1 s
      rcases hr : planRead m p.1 s with ⟨d, t⟩
      rw [hr] at h
      cases d with
      | some d => simpa [ih] using h
      | none => dsimp only; split <;> simpa [ih] using h
@[simp] theorem walkPlan_resetHeld (m : Maximum) (c : CaptureParams) (ps : List (Nat × Nat)) (n : Nat) (s : State) : (walkPlan m c ps n s).2.resetHeld = s.resetHeld := by
  induction ps generalizing n s with
  | nil => rfl
  | cons p ps ih =>
    unfold walkPlan
    split
    · rfl
    · have h := planRead_resetHeld m p.1 s
      rcases hr : planRead m p.1 s with ⟨d, t⟩
      rw [hr] at h
      cases d with
      | some d => simpa [ih] using h
      | none => dsimp only; split <;> simpa [ih] using h
@[simp] theorem walkPlan_now (m : Maximum) (c : CaptureParams) (ps : List (Nat × Nat)) (n : Nat) (s : State) : (walkPlan m c ps n s).2.now = s.now := by
  induction ps generalizing n s with
  | nil => rfl
  | cons p ps ih =>
    unfold walkPlan
    split
    · rfl
    · have h := planRead_now m p.1 s
      rcases hr : planRead m p.1 s with ⟨d, t⟩
      rw [hr] at h
      cases d with
      | some d => simpa [ih] using h
      | none => dsimp only; split <;> simpa [ih] using h
@[simp] theorem walkPlan_params (m : Maximum) (c : CaptureParams) (ps : List (Nat × Nat)) (n : Nat) (s : State) : (walkPlan m c ps n s).2.params = s.params := by
  induction ps generalizing n s with
  | nil => rfl
  | cons p ps ih =>
    unfold walkPlan
    split
    · rfl
    · have h := planRead_params m p.1 s
      rcases hr : planRead m p.1 s with ⟨d, t⟩
      rw [hr] at h
      cases d with
      | some d => simpa [ih] using h
      | none => dsimp only; split <;> simpa [ih] using h
@[simp] theorem walkPlan_tracks (m : Maximum) (c : CaptureParams) (ps : List (Nat × Nat)) (n : Nat) (s : State) : (walkPlan m c ps n s).2.tracks = s.tracks := by
  induction ps generalizing n s with
  | nil => rfl
  | cons p ps ih =>
    unfold walkPlan
    split
    · rfl
    · have h := planRead_tracks m p.1 s
      rcases hr : planRead m p.1 s with ⟨d, t⟩
      rw [hr] at h
      cases d with
      | some d => simpa [ih] using h
      | none => dsimp only; split <;> simpa [ih] using h
@[simp] theorem walkPlan_rings (m : Maximum) (c : CaptureParams) (ps : List (Nat × Nat)) (n : Nat) (s : State) : (walkPlan m c ps n s).2.rings = s.rings := by
  induction ps generalizing n s with
  | nil => rfl
  | cons p ps ih =>
    unfold walkPlan
    split
    · rfl
    · have h := planRead_rings m p.1 s
      rcases hr : planRead m p.1 s with ⟨d, t⟩
      rw [hr] at h
      cases d with
      | some d => simpa [ih] using h
      | none => dsimp only; split <;> simpa [ih] using h
@[simp] theorem walkPlan_banks (m : Maximum) (c : CaptureParams) (ps : List (Nat × Nat)) (n : Nat) (s : State) : (walkPlan m c ps n s).2.banks = s.banks := by
  induction ps generalizing n s with
  | nil => rfl
  | cons p ps ih =>
    unfold walkPlan
    split
    · rfl
    · have h := planRead_banks m p.1 s
      rcases hr : planRead m p.1 s with ⟨d, t⟩
      rw [hr] at h
      cases d with
      | some d => simpa [ih] using h
      | none => dsimp only; split <;> simpa [ih] using h
@[simp] theorem walkPlan_det (m : Maximum) (c : CaptureParams) (ps : List (Nat × Nat)) (n : Nat) (s : State) : (walkPlan m c ps n s).2.det = s.det := by
  induction ps generalizing n s with
  | nil => rfl
  | cons p ps ih =>
    unfold walkPlan
    split
    · rfl
    · have h := planRead_det m p.1 s
      rcases hr : planRead m p.1 s with ⟨d, t⟩
      rw [hr] at h
      cases d with
      | some d => simpa [ih] using h
      | none => dsimp only; split <;> simpa [ih] using h

/-! `makePlan` changes at most: line, cmd, tracker, scan, queue, store, capture, notice. -/
@[simp] theorem makePlan_pending (c : Closing) (m : Maximum) (s : State) : (makePlan c m s).2.pending = s.pending := by
  unfold makePlan; (repeat' split) <;> simp
@[simp] theorem makePlan_resetHeld (c : Closing) (m : Maximum) (s : State) : (makePlan c m s).2.resetHeld = s.resetHeld := by
  unfold makePlan; (repeat' split) <;> simp
@[simp] theorem makePlan_now (c : Closing) (m : Maximum) (s : State) : (makePlan c m s).2.now = s.now := by
  unfold makePlan; (repeat' split) <;> simp
@[simp] theorem makePlan_params (c : Closing) (m : Maximum) (s : State) : (makePlan c m s).2.params = s.params := by
  unfold makePlan; (repeat' split) <;> simp
@[simp] theorem makePlan_tracks (c : Closing) (m : Maximum) (s : State) : (makePlan c m s).2.tracks = s.tracks := by
  unfold makePlan; (repeat' split) <;> simp
@[simp] theorem makePlan_rings (c : Closing) (m : Maximum) (s : State) : (makePlan c m s).2.rings = s.rings := by
  unfold makePlan; (repeat' split) <;> simp
@[simp] theorem makePlan_banks (c : Closing) (m : Maximum) (s : State) : (makePlan c m s).2.banks = s.banks := by
  unfold makePlan; (repeat' split) <;> simp
@[simp] theorem makePlan_det (c : Closing) (m : Maximum) (s : State) : (makePlan c m s).2.det = s.det := by
  unfold makePlan; (repeat' split) <;> simp

/-! `completeClose` changes at most: line, cmd, tracker, scan, queue, store, capture, notice, det. -/
@[simp] theorem completeClose_pending (c : Closing) (run : Running) (s : State) : (completeClose c run s).pending = s.pending := by
  simp [completeClose]
@[simp] theorem completeClose_resetHeld (c : Closing) (run : Running) (s : State) : (completeClose c run s).resetHeld = s.resetHeld := by
  simp [completeClose]
@[simp] theorem completeClose_now (c : Closing) (run : Running) (s : State) : (completeClose c run s).now = s.now := by
  simp [completeClose]
@[simp] theorem completeClose_params (c : Closing) (run : Running) (s : State) : (completeClose c run s).params = s.params := by
  simp [completeClose]
@[simp] theorem completeClose_tracks (c : Closing) (run : Running) (s : State) : (completeClose c run s).tracks = s.tracks := by
  simp [completeClose]
@[simp] theorem completeClose_rings (c : Closing) (run : Running) (s : State) : (completeClose c run s).rings = s.rings := by
  simp [completeClose]
@[simp] theorem completeClose_banks (c : Closing) (run : Running) (s : State) : (completeClose c run s).banks = s.banks := by
  simp [completeClose]

/-! `setTrack` changes at most: tracks. -/
@[simp] theorem setTrack_pending (s : State) (l : Nat) (t : Track) : (setTrack s l t).pending = s.pending := by
  simp [setTrack]
@[simp] theorem setTrack_resetHeld (s : State) (l : Nat) (t : Track) : (setTrack s l t).resetHeld = s.resetHeld := by
  simp [setTrack]
@[simp] theorem setTrack_now (s : State) (l : Nat) (t : Track) : (setTrack s l t).now = s.now := by
  simp [setTrack]
@[simp] theorem setTrack_line (s : State) (l : Nat) (t : Track) : (setTrack s l t).line = s.line := by
  simp [setTrack]
@[simp] theorem setTrack_cmd (s : State) (l : Nat) (t : Track) : (setTrack s l t).cmd = s.cmd := by
  simp [setTrack]
@[simp] theorem setTrack_params (s : State) (l : Nat) (t : Track) : (setTrack s l t).params = s.params := by
  simp [setTrack]
@[simp] theorem setTrack_tracker (s : State) (l : Nat) (t : Track) : (setTrack s l t).tracker = s.tracker := by
  simp [setTrack]
@[simp] theorem setTrack_rings (s : State) (l : Nat) (t : Track) : (setTrack s l t).rings = s.rings := by
  simp [setTrack]
@[simp] theorem setTrack_banks (s : State) (l : Nat) (t : Track) : (setTrack s l t).banks = s.banks := by
  simp [setTrack]
@[simp] theorem setTrack_scan (s : State) (l : Nat) (t : Track) : (setTrack s l t).scan = s.scan := by
  simp [setTrack]
@[simp] theorem setTrack_det (s : State) (l : Nat) (t : Track) : (setTrack s l t).det = s.det := by
  simp [setTrack]
@[simp] theorem setTrack_queue (s : State) (l : Nat) (t : Track) : (setTrack s l t).queue = s.queue := by
  simp [setTrack]
@[simp] theorem setTrack_store (s : State) (l : Nat) (t : Track) : (setTrack s l t).store = s.store := by
  simp [setTrack]
@[simp] theorem setTrack_capture (s : State) (l : Nat) (t : Track) : (setTrack s l t).capture = s.capture := by
  simp [setTrack]
@[simp] theorem setTrack_notice (s : State) (l : Nat) (t : Track) : (setTrack s l t).notice = s.notice := by
  simp [setTrack]

/-! `setRing` changes at most: rings. -/
@[simp] theorem setRing_pending (s : State) (l : Nat) (r : Ring) : (setRing s l r).pending = s.pending := by
  simp [setRing]
@[simp] theorem setRing_resetHeld (s : State) (l : Nat) (r : Ring) : (setRing s l r).resetHeld = s.resetHeld := by
  simp [setRing]
@[simp] theorem setRing_now (s : State) (l : Nat) (r : Ring) : (setRing s l r).now = s.now := by
  simp [setRing]
@[simp] theorem setRing_line (s : State) (l : Nat) (r : Ring) : (setRing s l r).line = s.line := by
  simp [setRing]
@[simp] theorem setRing_cmd (s : State) (l : Nat) (r : Ring) : (setRing s l r).cmd = s.cmd := by
  simp [setRing]
@[simp] theorem setRing_params (s : State) (l : Nat) (r : Ring) : (setRing s l r).params = s.params := by
  simp [setRing]
@[simp] theorem setRing_tracker (s : State) (l : Nat) (r : Ring) : (setRing s l r).tracker = s.tracker := by
  simp [setRing]
@[simp] theorem setRing_tracks (s : State) (l : Nat) (r : Ring) : (setRing s l r).tracks = s.tracks := by
  simp [setRing]
@[simp] theorem setRing_banks (s : State) (l : Nat) (r : Ring) : (setRing s l r).banks = s.banks := by
  simp [setRing]
@[simp] theorem setRing_scan (s : State) (l : Nat) (r : Ring) : (setRing s l r).scan = s.scan := by
  simp [setRing]
@[simp] theorem setRing_det (s : State) (l : Nat) (r : Ring) : (setRing s l r).det = s.det := by
  simp [setRing]
@[simp] theorem setRing_queue (s : State) (l : Nat) (r : Ring) : (setRing s l r).queue = s.queue := by
  simp [setRing]
@[simp] theorem setRing_store (s : State) (l : Nat) (r : Ring) : (setRing s l r).store = s.store := by
  simp [setRing]
@[simp] theorem setRing_capture (s : State) (l : Nat) (r : Ring) : (setRing s l r).capture = s.capture := by
  simp [setRing]
@[simp] theorem setRing_notice (s : State) (l : Nat) (r : Ring) : (setRing s l r).notice = s.notice := by
  simp [setRing]

/-! `updateBank` changes at most: banks. -/
@[simp] theorem updateBank_pending (s : State) (i : BankId) (f : Bank → Bank) : (updateBank s i f).pending = s.pending := by
  simp [updateBank]
@[simp] theorem updateBank_resetHeld (s : State) (i : BankId) (f : Bank → Bank) : (updateBank s i f).resetHeld = s.resetHeld := by
  simp [updateBank]
@[simp] theorem updateBank_now (s : State) (i : BankId) (f : Bank → Bank) : (updateBank s i f).now = s.now := by
  simp [updateBank]
@[simp] theorem updateBank_line (s : State) (i : BankId) (f : Bank → Bank) : (updateBank s i f).line = s.line := by
  simp [updateBank]
@[simp] theorem updateBank_cmd (s : State) (i : BankId) (f : Bank → Bank) : (updateBank s i f).cmd = s.cmd := by
  simp [updateBank]
@[simp] theorem updateBank_params (s : State) (i : BankId) (f : Bank → Bank) : (updateBank s i f).params = s.params := by
  simp [updateBank]
@[simp] theorem updateBank_tracker (s : State) (i : BankId) (f : Bank → Bank) : (updateBank s i f).tracker = s.tracker := by
  simp [updateBank]
@[simp] theorem updateBank_tracks (s : State) (i : BankId) (f : Bank → Bank) : (updateBank s i f).tracks = s.tracks := by
  simp [updateBank]
@[simp] theorem updateBank_rings (s : State) (i : BankId) (f : Bank → Bank) : (updateBank s i f).rings = s.rings := by
  simp [updateBank]
@[simp] theorem updateBank_scan (s : State) (i : BankId) (f : Bank → Bank) : (updateBank s i f).scan = s.scan := by
  simp [updateBank]
@[simp] theorem updateBank_det (s : State) (i : BankId) (f : Bank → Bank) : (updateBank s i f).det = s.det := by
  simp [updateBank]
@[simp] theorem updateBank_queue (s : State) (i : BankId) (f : Bank → Bank) : (updateBank s i f).queue = s.queue := by
  simp [updateBank]
@[simp] theorem updateBank_store (s : State) (i : BankId) (f : Bank → Bank) : (updateBank s i f).store = s.store := by
  simp [updateBank]
@[simp] theorem updateBank_capture (s : State) (i : BankId) (f : Bank → Bank) : (updateBank s i f).capture = s.capture := by
  simp [updateBank]
@[simp] theorem updateBank_notice (s : State) (i : BankId) (f : Bank → Bank) : (updateBank s i f).notice = s.notice := by
  simp [updateBank]

/-! `updateLane` changes at most: tracker. -/
@[simp] theorem updateLane_pending (l : Nat) (f : Lane → Lane) (s : State) : (updateLane l f s).pending = s.pending := by
  simp [updateLane]
@[simp] theorem updateLane_resetHeld (l : Nat) (f : Lane → Lane) (s : State) : (updateLane l f s).resetHeld = s.resetHeld := by
  simp [updateLane]
@[simp] theorem updateLane_now (l : Nat) (f : Lane → Lane) (s : State) : (updateLane l f s).now = s.now := by
  simp [updateLane]
@[simp] theorem updateLane_line (l : Nat) (f : Lane → Lane) (s : State) : (updateLane l f s).line = s.line := by
  simp [updateLane]
@[simp] theorem updateLane_cmd (l : Nat) (f : Lane → Lane) (s : State) : (updateLane l f s).cmd = s.cmd := by
  simp [updateLane]
@[simp] theorem updateLane_params (l : Nat) (f : Lane → Lane) (s : State) : (updateLane l f s).params = s.params := by
  simp [updateLane]
@[simp] theorem updateLane_tracks (l : Nat) (f : Lane → Lane) (s : State) : (updateLane l f s).tracks = s.tracks := by
  simp [updateLane]
@[simp] theorem updateLane_rings (l : Nat) (f : Lane → Lane) (s : State) : (updateLane l f s).rings = s.rings := by
  simp [updateLane]
@[simp] theorem updateLane_banks (l : Nat) (f : Lane → Lane) (s : State) : (updateLane l f s).banks = s.banks := by
  simp [updateLane]
@[simp] theorem updateLane_scan (l : Nat) (f : Lane → Lane) (s : State) : (updateLane l f s).scan = s.scan := by
  simp [updateLane]
@[simp] theorem updateLane_det (l : Nat) (f : Lane → Lane) (s : State) : (updateLane l f s).det = s.det := by
  simp [updateLane]
@[simp] theorem updateLane_queue (l : Nat) (f : Lane → Lane) (s : State) : (updateLane l f s).queue = s.queue := by
  simp [updateLane]
@[simp] theorem updateLane_store (l : Nat) (f : Lane → Lane) (s : State) : (updateLane l f s).store = s.store := by
  simp [updateLane]
@[simp] theorem updateLane_capture (l : Nat) (f : Lane → Lane) (s : State) : (updateLane l f s).capture = s.capture := by
  simp [updateLane]
@[simp] theorem updateLane_notice (l : Nat) (f : Lane → Lane) (s : State) : (updateLane l f s).notice = s.notice := by
  simp [updateLane]

/-! `applyLaneChange` changes at most: tracker, tracks, rings, queue, store, capture, notice. -/
@[simp] theorem applyLaneChange_pending (c : LaneChange) (s : State) : (applyLaneChange c s).pending = s.pending := by
  unfold applyLaneChange; dsimp only; (repeat' split) <;> simp
@[simp] theorem applyLaneChange_resetHeld (c : LaneChange) (s : State) : (applyLaneChange c s).resetHeld = s.resetHeld := by
  unfold applyLaneChange; dsimp only; (repeat' split) <;> simp
@[simp] theorem applyLaneChange_now (c : LaneChange) (s : State) : (applyLaneChange c s).now = s.now := by
  unfold applyLaneChange; dsimp only; (repeat' split) <;> simp
@[simp] theorem applyLaneChange_line (c : LaneChange) (s : State) : (applyLaneChange c s).line = s.line := by
  unfold applyLaneChange; dsimp only; (repeat' split) <;> simp
@[simp] theorem applyLaneChange_cmd (c : LaneChange) (s : State) : (applyLaneChange c s).cmd = s.cmd := by
  unfold applyLaneChange; dsimp only; (repeat' split) <;> simp
@[simp] theorem applyLaneChange_params (c : LaneChange) (s : State) : (applyLaneChange c s).params = s.params := by
  unfold applyLaneChange; dsimp only; (repeat' split) <;> simp
@[simp] theorem applyLaneChange_banks (c : LaneChange) (s : State) : (applyLaneChange c s).banks = s.banks := by
  unfold applyLaneChange; dsimp only; (repeat' split) <;> simp
@[simp] theorem applyLaneChange_scan (c : LaneChange) (s : State) : (applyLaneChange c s).scan = s.scan := by
  unfold applyLaneChange; dsimp only; (repeat' split) <;> simp
@[simp] theorem applyLaneChange_det (c : LaneChange) (s : State) : (applyLaneChange c s).det = s.det := by
  unfold applyLaneChange; dsimp only; (repeat' split) <;> simp

/-! `applyWaitingChange` changes at most: line, cmd, tracker, tracks, rings, queue, store, capture, notice. -/
@[simp] theorem applyWaitingChange_pending (s : State) : (applyWaitingChange s).pending = s.pending := by
  unfold applyWaitingChange; (repeat' split) <;> simp
@[simp] theorem applyWaitingChange_resetHeld (s : State) : (applyWaitingChange s).resetHeld = s.resetHeld := by
  unfold applyWaitingChange; (repeat' split) <;> simp
@[simp] theorem applyWaitingChange_now (s : State) : (applyWaitingChange s).now = s.now := by
  unfold applyWaitingChange; (repeat' split) <;> simp
@[simp] theorem applyWaitingChange_params (s : State) : (applyWaitingChange s).params = s.params := by
  unfold applyWaitingChange; (repeat' split) <;> simp
@[simp] theorem applyWaitingChange_banks (s : State) : (applyWaitingChange s).banks = s.banks := by
  unfold applyWaitingChange; (repeat' split) <;> simp
@[simp] theorem applyWaitingChange_scan (s : State) : (applyWaitingChange s).scan = s.scan := by
  unfold applyWaitingChange; (repeat' split) <;> simp
@[simp] theorem applyWaitingChange_det (s : State) : (applyWaitingChange s).det = s.det := by
  unfold applyWaitingChange; (repeat' split) <;> simp

/-! `jumpCursor` changes at most: scan, det, queue, notice. -/
@[simp] theorem jumpCursor_pending (t u : Nat) (s : State) : (jumpCursor t u s).pending = s.pending := by
  simp [jumpCursor]
@[simp] theorem jumpCursor_resetHeld (t u : Nat) (s : State) : (jumpCursor t u s).resetHeld = s.resetHeld := by
  simp [jumpCursor]
@[simp] theorem jumpCursor_now (t u : Nat) (s : State) : (jumpCursor t u s).now = s.now := by
  simp [jumpCursor]
@[simp] theorem jumpCursor_line (t u : Nat) (s : State) : (jumpCursor t u s).line = s.line := by
  simp [jumpCursor]
@[simp] theorem jumpCursor_cmd (t u : Nat) (s : State) : (jumpCursor t u s).cmd = s.cmd := by
  simp [jumpCursor]
@[simp] theorem jumpCursor_params (t u : Nat) (s : State) : (jumpCursor t u s).params = s.params := by
  simp [jumpCursor]
@[simp] theorem jumpCursor_tracker (t u : Nat) (s : State) : (jumpCursor t u s).tracker = s.tracker := by
  simp [jumpCursor]
@[simp] theorem jumpCursor_tracks (t u : Nat) (s : State) : (jumpCursor t u s).tracks = s.tracks := by
  simp [jumpCursor]
@[simp] theorem jumpCursor_rings (t u : Nat) (s : State) : (jumpCursor t u s).rings = s.rings := by
  simp [jumpCursor]
@[simp] theorem jumpCursor_banks (t u : Nat) (s : State) : (jumpCursor t u s).banks = s.banks := by
  simp [jumpCursor]
@[simp] theorem jumpCursor_store (t u : Nat) (s : State) : (jumpCursor t u s).store = s.store := by
  simp [jumpCursor]
@[simp] theorem jumpCursor_capture (t u : Nat) (s : State) : (jumpCursor t u s).capture = s.capture := by
  simp [jumpCursor]

/-! `fallBehind` changes at most: scan, det, queue, notice. -/
@[simp] theorem fallBehind_pending (s : State) : (fallBehind s).pending = s.pending := by
  unfold fallBehind; dsimp only; (repeat' split) <;> simp
@[simp] theorem fallBehind_resetHeld (s : State) : (fallBehind s).resetHeld = s.resetHeld := by
  unfold fallBehind; dsimp only; (repeat' split) <;> simp
@[simp] theorem fallBehind_now (s : State) : (fallBehind s).now = s.now := by
  unfold fallBehind; dsimp only; (repeat' split) <;> simp
@[simp] theorem fallBehind_line (s : State) : (fallBehind s).line = s.line := by
  unfold fallBehind; dsimp only; (repeat' split) <;> simp
@[simp] theorem fallBehind_cmd (s : State) : (fallBehind s).cmd = s.cmd := by
  unfold fallBehind; dsimp only; (repeat' split) <;> simp
@[simp] theorem fallBehind_params (s : State) : (fallBehind s).params = s.params := by
  unfold fallBehind; dsimp only; (repeat' split) <;> simp
@[simp] theorem fallBehind_tracker (s : State) : (fallBehind s).tracker = s.tracker := by
  unfold fallBehind; dsimp only; (repeat' split) <;> simp
@[simp] theorem fallBehind_tracks (s : State) : (fallBehind s).tracks = s.tracks := by
  unfold fallBehind; dsimp only; (repeat' split) <;> simp
@[simp] theorem fallBehind_rings (s : State) : (fallBehind s).rings = s.rings := by
  unfold fallBehind; dsimp only; (repeat' split) <;> simp
@[simp] theorem fallBehind_banks (s : State) : (fallBehind s).banks = s.banks := by
  unfold fallBehind; dsimp only; (repeat' split) <;> simp
@[simp] theorem fallBehind_store (s : State) : (fallBehind s).store = s.store := by
  unfold fallBehind; dsimp only; (repeat' split) <;> simp
@[simp] theorem fallBehind_capture (s : State) : (fallBehind s).capture = s.capture := by
  unfold fallBehind; dsimp only; (repeat' split) <;> simp

/-! `retest` changes at most: scan, det, queue, notice. -/
@[simp] theorem retest_pending (s : State) : (retest s).pending = s.pending := by
  unfold retest; (repeat' split) <;> simp
@[simp] theorem retest_resetHeld (s : State) : (retest s).resetHeld = s.resetHeld := by
  unfold retest; (repeat' split) <;> simp
@[simp] theorem retest_now (s : State) : (retest s).now = s.now := by
  unfold retest; (repeat' split) <;> simp
@[simp] theorem retest_line (s : State) : (retest s).line = s.line := by
  unfold retest; (repeat' split) <;> simp
@[simp] theorem retest_cmd (s : State) : (retest s).cmd = s.cmd := by
  unfold retest; (repeat' split) <;> simp
@[simp] theorem retest_params (s : State) : (retest s).params = s.params := by
  unfold retest; (repeat' split) <;> simp
@[simp] theorem retest_tracker (s : State) : (retest s).tracker = s.tracker := by
  unfold retest; (repeat' split) <;> simp
@[simp] theorem retest_tracks (s : State) : (retest s).tracks = s.tracks := by
  unfold retest; (repeat' split) <;> simp
@[simp] theorem retest_rings (s : State) : (retest s).rings = s.rings := by
  unfold retest; (repeat' split) <;> simp
@[simp] theorem retest_banks (s : State) : (retest s).banks = s.banks := by
  unfold retest; (repeat' split) <;> simp
@[simp] theorem retest_store (s : State) : (retest s).store = s.store := by
  unfold retest; (repeat' split) <;> simp
@[simp] theorem retest_capture (s : State) : (retest s).capture = s.capture := by
  unfold retest; (repeat' split) <;> simp

/-! `takeSwitch` changes at most: banks, notice. -/
@[simp] theorem takeSwitch_pending (s : State) : (takeSwitch s).pending = s.pending := by
  unfold takeSwitch; (repeat' split) <;> simp
@[simp] theorem takeSwitch_resetHeld (s : State) : (takeSwitch s).resetHeld = s.resetHeld := by
  unfold takeSwitch; (repeat' split) <;> simp
@[simp] theorem takeSwitch_now (s : State) : (takeSwitch s).now = s.now := by
  unfold takeSwitch; (repeat' split) <;> simp
@[simp] theorem takeSwitch_line (s : State) : (takeSwitch s).line = s.line := by
  unfold takeSwitch; (repeat' split) <;> simp
@[simp] theorem takeSwitch_cmd (s : State) : (takeSwitch s).cmd = s.cmd := by
  unfold takeSwitch; (repeat' split) <;> simp
@[simp] theorem takeSwitch_params (s : State) : (takeSwitch s).params = s.params := by
  unfold takeSwitch; (repeat' split) <;> simp
@[simp] theorem takeSwitch_tracker (s : State) : (takeSwitch s).tracker = s.tracker := by
  unfold takeSwitch; (repeat' split) <;> simp
@[simp] theorem takeSwitch_tracks (s : State) : (takeSwitch s).tracks = s.tracks := by
  unfold takeSwitch; (repeat' split) <;> simp
@[simp] theorem takeSwitch_rings (s : State) : (takeSwitch s).rings = s.rings := by
  unfold takeSwitch; (repeat' split) <;> simp
@[simp] theorem takeSwitch_scan (s : State) : (takeSwitch s).scan = s.scan := by
  unfold takeSwitch; (repeat' split) <;> simp
@[simp] theorem takeSwitch_det (s : State) : (takeSwitch s).det = s.det := by
  unfold takeSwitch; (repeat' split) <;> simp
@[simp] theorem takeSwitch_queue (s : State) : (takeSwitch s).queue = s.queue := by
  unfold takeSwitch; (repeat' split) <;> simp
@[simp] theorem takeSwitch_store (s : State) : (takeSwitch s).store = s.store := by
  unfold takeSwitch; (repeat' split) <;> simp
@[simp] theorem takeSwitch_capture (s : State) : (takeSwitch s).capture = s.capture := by
  unfold takeSwitch; (repeat' split) <;> simp

/-! `endHalting` changes at most: banks, scan, det, notice. -/
@[simp] theorem endHalting_pending (s : State) : (endHalting s).pending = s.pending := by
  simp [endHalting]
@[simp] theorem endHalting_resetHeld (s : State) : (endHalting s).resetHeld = s.resetHeld := by
  simp [endHalting]
@[simp] theorem endHalting_now (s : State) : (endHalting s).now = s.now := by
  simp [endHalting]
@[simp] theorem endHalting_line (s : State) : (endHalting s).line = s.line := by
  simp [endHalting]
@[simp] theorem endHalting_cmd (s : State) : (endHalting s).cmd = s.cmd := by
  simp [endHalting]
@[simp] theorem endHalting_params (s : State) : (endHalting s).params = s.params := by
  simp [endHalting]
@[simp] theorem endHalting_tracker (s : State) : (endHalting s).tracker = s.tracker := by
  simp [endHalting]
@[simp] theorem endHalting_tracks (s : State) : (endHalting s).tracks = s.tracks := by
  simp [endHalting]
@[simp] theorem endHalting_rings (s : State) : (endHalting s).rings = s.rings := by
  simp [endHalting]
@[simp] theorem endHalting_queue (s : State) : (endHalting s).queue = s.queue := by
  simp [endHalting]
@[simp] theorem endHalting_store (s : State) : (endHalting s).store = s.store := by
  simp [endHalting]
@[simp] theorem endHalting_capture (s : State) : (endHalting s).capture = s.capture := by
  simp [endHalting]

/-! `tickBoundary` changes at most: line, cmd, tracker, tracks, rings, banks, scan, det, queue, store, capture, notice. -/
@[simp] theorem tickBoundary_pending (s : State) : (tickBoundary s).pending = s.pending := by
  unfold tickBoundary; (repeat' split) <;> simp
@[simp] theorem tickBoundary_resetHeld (s : State) : (tickBoundary s).resetHeld = s.resetHeld := by
  unfold tickBoundary; (repeat' split) <;> simp
@[simp] theorem tickBoundary_now (s : State) : (tickBoundary s).now = s.now := by
  unfold tickBoundary; (repeat' split) <;> simp
@[simp] theorem tickBoundary_params (s : State) : (tickBoundary s).params = s.params := by
  unfold tickBoundary; (repeat' split) <;> simp

/-! `beginTick` changes at most: scan, det. -/
@[simp] theorem beginTick_pending (t : Nat) (bank : BankId) (s : State) : (beginTick t bank s).pending = s.pending := by
  simp [beginTick]
@[simp] theorem beginTick_resetHeld (t : Nat) (bank : BankId) (s : State) : (beginTick t bank s).resetHeld = s.resetHeld := by
  simp [beginTick]
@[simp] theorem beginTick_now (t : Nat) (bank : BankId) (s : State) : (beginTick t bank s).now = s.now := by
  simp [beginTick]
@[simp] theorem beginTick_line (t : Nat) (bank : BankId) (s : State) : (beginTick t bank s).line = s.line := by
  simp [beginTick]
@[simp] theorem beginTick_cmd (t : Nat) (bank : BankId) (s : State) : (beginTick t bank s).cmd = s.cmd := by
  simp [beginTick]
@[simp] theorem beginTick_params (t : Nat) (bank : BankId) (s : State) : (beginTick t bank s).params = s.params := by
  simp [beginTick]
@[simp] theorem beginTick_tracker (t : Nat) (bank : BankId) (s : State) : (beginTick t bank s).tracker = s.tracker := by
  simp [beginTick]
@[simp] theorem beginTick_tracks (t : Nat) (bank : BankId) (s : State) : (beginTick t bank s).tracks = s.tracks := by
  simp [beginTick]
@[simp] theorem beginTick_rings (t : Nat) (bank : BankId) (s : State) : (beginTick t bank s).rings = s.rings := by
  simp [beginTick]
@[simp] theorem beginTick_banks (t : Nat) (bank : BankId) (s : State) : (beginTick t bank s).banks = s.banks := by
  simp [beginTick]
@[simp] theorem beginTick_queue (t : Nat) (bank : BankId) (s : State) : (beginTick t bank s).queue = s.queue := by
  simp [beginTick]
@[simp] theorem beginTick_store (t : Nat) (bank : BankId) (s : State) : (beginTick t bank s).store = s.store := by
  simp [beginTick]
@[simp] theorem beginTick_capture (t : Nat) (bank : BankId) (s : State) : (beginTick t bank s).capture = s.capture := by
  simp [beginTick]
@[simp] theorem beginTick_notice (t : Nat) (bank : BankId) (s : State) : (beginTick t bank s).notice = s.notice := by
  simp [beginTick]

/-! `updateTick` changes at most: scan. -/
@[simp] theorem updateTick_pending (f : TickScan → TickScan) (s : State) : (updateTick f s).pending = s.pending := by
  simp [updateTick]
@[simp] theorem updateTick_resetHeld (f : TickScan → TickScan) (s : State) : (updateTick f s).resetHeld = s.resetHeld := by
  simp [updateTick]
@[simp] theorem updateTick_now (f : TickScan → TickScan) (s : State) : (updateTick f s).now = s.now := by
  simp [updateTick]
@[simp] theorem updateTick_line (f : TickScan → TickScan) (s : State) : (updateTick f s).line = s.line := by
  simp [updateTick]
@[simp] theorem updateTick_cmd (f : TickScan → TickScan) (s : State) : (updateTick f s).cmd = s.cmd := by
  simp [updateTick]
@[simp] theorem updateTick_params (f : TickScan → TickScan) (s : State) : (updateTick f s).params = s.params := by
  simp [updateTick]
@[simp] theorem updateTick_tracker (f : TickScan → TickScan) (s : State) : (updateTick f s).tracker = s.tracker := by
  simp [updateTick]
@[simp] theorem updateTick_tracks (f : TickScan → TickScan) (s : State) : (updateTick f s).tracks = s.tracks := by
  simp [updateTick]
@[simp] theorem updateTick_rings (f : TickScan → TickScan) (s : State) : (updateTick f s).rings = s.rings := by
  simp [updateTick]
@[simp] theorem updateTick_banks (f : TickScan → TickScan) (s : State) : (updateTick f s).banks = s.banks := by
  simp [updateTick]
@[simp] theorem updateTick_det (f : TickScan → TickScan) (s : State) : (updateTick f s).det = s.det := by
  simp [updateTick]
@[simp] theorem updateTick_queue (f : TickScan → TickScan) (s : State) : (updateTick f s).queue = s.queue := by
  simp [updateTick]
@[simp] theorem updateTick_store (f : TickScan → TickScan) (s : State) : (updateTick f s).store = s.store := by
  simp [updateTick]
@[simp] theorem updateTick_capture (f : TickScan → TickScan) (s : State) : (updateTick f s).capture = s.capture := by
  simp [updateTick]
@[simp] theorem updateTick_notice (f : TickScan → TickScan) (s : State) : (updateTick f s).notice = s.notice := by
  simp [updateTick]

/-! `meetTrackParity` changes at most: line, cmd, tracker, scan, det, queue, store, capture, notice. -/
@[simp] theorem meetTrackParity_pending (l u : Nat) (s : State) : (meetTrackParity l u s).pending = s.pending := by
  unfold meetTrackParity; (repeat' split) <;> simp
@[simp] theorem meetTrackParity_resetHeld (l u : Nat) (s : State) : (meetTrackParity l u s).resetHeld = s.resetHeld := by
  unfold meetTrackParity; (repeat' split) <;> simp
@[simp] theorem meetTrackParity_now (l u : Nat) (s : State) : (meetTrackParity l u s).now = s.now := by
  unfold meetTrackParity; (repeat' split) <;> simp
@[simp] theorem meetTrackParity_params (l u : Nat) (s : State) : (meetTrackParity l u s).params = s.params := by
  unfold meetTrackParity; (repeat' split) <;> simp
@[simp] theorem meetTrackParity_tracks (l u : Nat) (s : State) : (meetTrackParity l u s).tracks = s.tracks := by
  unfold meetTrackParity; (repeat' split) <;> simp
@[simp] theorem meetTrackParity_rings (l u : Nat) (s : State) : (meetTrackParity l u s).rings = s.rings := by
  unfold meetTrackParity; (repeat' split) <;> simp
@[simp] theorem meetTrackParity_banks (l u : Nat) (s : State) : (meetTrackParity l u s).banks = s.banks := by
  unfold meetTrackParity; (repeat' split) <;> simp

/-! `stackLanes` changes at most: line, cmd, tracker, scan, det, queue, store, capture, notice. -/
@[simp] theorem stackLanes_pending (bank : BankId) (v t : Nat) (c : List (Nat × Nat)) (k : Stack) (s : State) : (stackLanes bank v t c k s).2.pending = s.pending := by
  induction c generalizing k s with
  | nil => rfl
  | cons p rest ih =>
    obtain ⟨lane, w⟩ := p
    unfold stackLanes
    dsimp only
    (repeat' split) <;> simp [ih]
@[simp] theorem stackLanes_resetHeld (bank : BankId) (v t : Nat) (c : List (Nat × Nat)) (k : Stack) (s : State) : (stackLanes bank v t c k s).2.resetHeld = s.resetHeld := by
  induction c generalizing k s with
  | nil => rfl
  | cons p rest ih =>
    obtain ⟨lane, w⟩ := p
    unfold stackLanes
    dsimp only
    (repeat' split) <;> simp [ih]
@[simp] theorem stackLanes_now (bank : BankId) (v t : Nat) (c : List (Nat × Nat)) (k : Stack) (s : State) : (stackLanes bank v t c k s).2.now = s.now := by
  induction c generalizing k s with
  | nil => rfl
  | cons p rest ih =>
    obtain ⟨lane, w⟩ := p
    unfold stackLanes
    dsimp only
    (repeat' split) <;> simp [ih]
@[simp] theorem stackLanes_params (bank : BankId) (v t : Nat) (c : List (Nat × Nat)) (k : Stack) (s : State) : (stackLanes bank v t c k s).2.params = s.params := by
  induction c generalizing k s with
  | nil => rfl
  | cons p rest ih =>
    obtain ⟨lane, w⟩ := p
    unfold stackLanes
    dsimp only
    (repeat' split) <;> simp [ih]
@[simp] theorem stackLanes_tracks (bank : BankId) (v t : Nat) (c : List (Nat × Nat)) (k : Stack) (s : State) : (stackLanes bank v t c k s).2.tracks = s.tracks := by
  induction c generalizing k s with
  | nil => rfl
  | cons p rest ih =>
    obtain ⟨lane, w⟩ := p
    unfold stackLanes
    dsimp only
    (repeat' split) <;> simp [ih]
@[simp] theorem stackLanes_rings (bank : BankId) (v t : Nat) (c : List (Nat × Nat)) (k : Stack) (s : State) : (stackLanes bank v t c k s).2.rings = s.rings := by
  induction c generalizing k s with
  | nil => rfl
  | cons p rest ih =>
    obtain ⟨lane, w⟩ := p
    unfold stackLanes
    dsimp only
    (repeat' split) <;> simp [ih]
@[simp] theorem stackLanes_banks (bank : BankId) (v t : Nat) (c : List (Nat × Nat)) (k : Stack) (s : State) : (stackLanes bank v t c k s).2.banks = s.banks := by
  induction c generalizing k s with
  | nil => rfl
  | cons p rest ih =>
    obtain ⟨lane, w⟩ := p
    unfold stackLanes
    dsimp only
    (repeat' split) <;> simp [ih]

/-! `takeVoxel` changes at most: scan. -/
@[simp] theorem takeVoxel_pending (n : Bool) (x : Option Stack) (s : State) : (takeVoxel n x s).pending = s.pending := by
  unfold takeVoxel; (repeat' split) <;> simp
@[simp] theorem takeVoxel_resetHeld (n : Bool) (x : Option Stack) (s : State) : (takeVoxel n x s).resetHeld = s.resetHeld := by
  unfold takeVoxel; (repeat' split) <;> simp
@[simp] theorem takeVoxel_now (n : Bool) (x : Option Stack) (s : State) : (takeVoxel n x s).now = s.now := by
  unfold takeVoxel; (repeat' split) <;> simp
@[simp] theorem takeVoxel_line (n : Bool) (x : Option Stack) (s : State) : (takeVoxel n x s).line = s.line := by
  unfold takeVoxel; (repeat' split) <;> simp
@[simp] theorem takeVoxel_cmd (n : Bool) (x : Option Stack) (s : State) : (takeVoxel n x s).cmd = s.cmd := by
  unfold takeVoxel; (repeat' split) <;> simp
@[simp] theorem takeVoxel_params (n : Bool) (x : Option Stack) (s : State) : (takeVoxel n x s).params = s.params := by
  unfold takeVoxel; (repeat' split) <;> simp
@[simp] theorem takeVoxel_tracker (n : Bool) (x : Option Stack) (s : State) : (takeVoxel n x s).tracker = s.tracker := by
  unfold takeVoxel; (repeat' split) <;> simp
@[simp] theorem takeVoxel_tracks (n : Bool) (x : Option Stack) (s : State) : (takeVoxel n x s).tracks = s.tracks := by
  unfold takeVoxel; (repeat' split) <;> simp
@[simp] theorem takeVoxel_rings (n : Bool) (x : Option Stack) (s : State) : (takeVoxel n x s).rings = s.rings := by
  unfold takeVoxel; (repeat' split) <;> simp
@[simp] theorem takeVoxel_banks (n : Bool) (x : Option Stack) (s : State) : (takeVoxel n x s).banks = s.banks := by
  unfold takeVoxel; (repeat' split) <;> simp
@[simp] theorem takeVoxel_det (n : Bool) (x : Option Stack) (s : State) : (takeVoxel n x s).det = s.det := by
  unfold takeVoxel; (repeat' split) <;> simp
@[simp] theorem takeVoxel_queue (n : Bool) (x : Option Stack) (s : State) : (takeVoxel n x s).queue = s.queue := by
  unfold takeVoxel; (repeat' split) <;> simp
@[simp] theorem takeVoxel_store (n : Bool) (x : Option Stack) (s : State) : (takeVoxel n x s).store = s.store := by
  unfold takeVoxel; (repeat' split) <;> simp
@[simp] theorem takeVoxel_capture (n : Bool) (x : Option Stack) (s : State) : (takeVoxel n x s).capture = s.capture := by
  unfold takeVoxel; (repeat' split) <;> simp
@[simp] theorem takeVoxel_notice (n : Bool) (x : Option Stack) (s : State) : (takeVoxel n x s).notice = s.notice := by
  unfold takeVoxel; (repeat' split) <;> simp

/-! `nextVoxel` changes at most: scan. -/
@[simp] theorem nextVoxel_pending (s : State) : (nextVoxel s).pending = s.pending := by
  simp [nextVoxel]
@[simp] theorem nextVoxel_resetHeld (s : State) : (nextVoxel s).resetHeld = s.resetHeld := by
  simp [nextVoxel]
@[simp] theorem nextVoxel_now (s : State) : (nextVoxel s).now = s.now := by
  simp [nextVoxel]
@[simp] theorem nextVoxel_line (s : State) : (nextVoxel s).line = s.line := by
  simp [nextVoxel]
@[simp] theorem nextVoxel_cmd (s : State) : (nextVoxel s).cmd = s.cmd := by
  simp [nextVoxel]
@[simp] theorem nextVoxel_params (s : State) : (nextVoxel s).params = s.params := by
  simp [nextVoxel]
@[simp] theorem nextVoxel_tracker (s : State) : (nextVoxel s).tracker = s.tracker := by
  simp [nextVoxel]
@[simp] theorem nextVoxel_tracks (s : State) : (nextVoxel s).tracks = s.tracks := by
  simp [nextVoxel]
@[simp] theorem nextVoxel_rings (s : State) : (nextVoxel s).rings = s.rings := by
  simp [nextVoxel]
@[simp] theorem nextVoxel_banks (s : State) : (nextVoxel s).banks = s.banks := by
  simp [nextVoxel]
@[simp] theorem nextVoxel_det (s : State) : (nextVoxel s).det = s.det := by
  simp [nextVoxel]
@[simp] theorem nextVoxel_queue (s : State) : (nextVoxel s).queue = s.queue := by
  simp [nextVoxel]
@[simp] theorem nextVoxel_store (s : State) : (nextVoxel s).store = s.store := by
  simp [nextVoxel]
@[simp] theorem nextVoxel_capture (s : State) : (nextVoxel s).capture = s.capture := by
  simp [nextVoxel]
@[simp] theorem nextVoxel_notice (s : State) : (nextVoxel s).notice = s.notice := by
  simp [nextVoxel]

/-! `evaluateVoxel` changes at most: line, cmd, tracker, scan, det, queue, store, capture, notice. -/
@[simp] theorem evaluateVoxel_pending (k : TickScan) (s : State) : (evaluateVoxel k s).pending = s.pending := by
  unfold evaluateVoxel; dsimp only; (repeat' split) <;> simp
@[simp] theorem evaluateVoxel_resetHeld (k : TickScan) (s : State) : (evaluateVoxel k s).resetHeld = s.resetHeld := by
  unfold evaluateVoxel; dsimp only; (repeat' split) <;> simp
@[simp] theorem evaluateVoxel_now (k : TickScan) (s : State) : (evaluateVoxel k s).now = s.now := by
  unfold evaluateVoxel; dsimp only; (repeat' split) <;> simp
@[simp] theorem evaluateVoxel_params (k : TickScan) (s : State) : (evaluateVoxel k s).params = s.params := by
  unfold evaluateVoxel; dsimp only; (repeat' split) <;> simp
@[simp] theorem evaluateVoxel_tracks (k : TickScan) (s : State) : (evaluateVoxel k s).tracks = s.tracks := by
  unfold evaluateVoxel; dsimp only; (repeat' split) <;> simp
@[simp] theorem evaluateVoxel_rings (k : TickScan) (s : State) : (evaluateVoxel k s).rings = s.rings := by
  unfold evaluateVoxel; dsimp only; (repeat' split) <;> simp
@[simp] theorem evaluateVoxel_banks (k : TickScan) (s : State) : (evaluateVoxel k s).banks = s.banks := by
  unfold evaluateVoxel; dsimp only; (repeat' split) <;> simp

/-! `deliver` changes at most: scan, det, queue, notice. -/
@[simp] theorem deliver_pending (r : TickResult) (s : State) : (deliver r s).pending = s.pending := by
  simp [deliver]
@[simp] theorem deliver_resetHeld (r : TickResult) (s : State) : (deliver r s).resetHeld = s.resetHeld := by
  simp [deliver]
@[simp] theorem deliver_now (r : TickResult) (s : State) : (deliver r s).now = s.now := by
  simp [deliver]
@[simp] theorem deliver_line (r : TickResult) (s : State) : (deliver r s).line = s.line := by
  simp [deliver]
@[simp] theorem deliver_cmd (r : TickResult) (s : State) : (deliver r s).cmd = s.cmd := by
  simp [deliver]
@[simp] theorem deliver_params (r : TickResult) (s : State) : (deliver r s).params = s.params := by
  simp [deliver]
@[simp] theorem deliver_tracker (r : TickResult) (s : State) : (deliver r s).tracker = s.tracker := by
  simp [deliver]
@[simp] theorem deliver_tracks (r : TickResult) (s : State) : (deliver r s).tracks = s.tracks := by
  simp [deliver]
@[simp] theorem deliver_rings (r : TickResult) (s : State) : (deliver r s).rings = s.rings := by
  simp [deliver]
@[simp] theorem deliver_banks (r : TickResult) (s : State) : (deliver r s).banks = s.banks := by
  simp [deliver]
@[simp] theorem deliver_store (r : TickResult) (s : State) : (deliver r s).store = s.store := by
  simp [deliver]
@[simp] theorem deliver_capture (r : TickResult) (s : State) : (deliver r s).capture = s.capture := by
  simp [deliver]

/-! `clearScanEffect` changes at most: banks, scan, det, notice. -/
@[simp] theorem clearScanEffect_pending (s : State) : (clearScanEffect s).pending = s.pending := by
  unfold clearScanEffect; (repeat' split) <;> simp
@[simp] theorem clearScanEffect_resetHeld (s : State) : (clearScanEffect s).resetHeld = s.resetHeld := by
  unfold clearScanEffect; (repeat' split) <;> simp
@[simp] theorem clearScanEffect_now (s : State) : (clearScanEffect s).now = s.now := by
  unfold clearScanEffect; (repeat' split) <;> simp
@[simp] theorem clearScanEffect_line (s : State) : (clearScanEffect s).line = s.line := by
  unfold clearScanEffect; (repeat' split) <;> simp
@[simp] theorem clearScanEffect_cmd (s : State) : (clearScanEffect s).cmd = s.cmd := by
  unfold clearScanEffect; (repeat' split) <;> simp
@[simp] theorem clearScanEffect_params (s : State) : (clearScanEffect s).params = s.params := by
  unfold clearScanEffect; (repeat' split) <;> simp
@[simp] theorem clearScanEffect_tracker (s : State) : (clearScanEffect s).tracker = s.tracker := by
  unfold clearScanEffect; (repeat' split) <;> simp
@[simp] theorem clearScanEffect_tracks (s : State) : (clearScanEffect s).tracks = s.tracks := by
  unfold clearScanEffect; (repeat' split) <;> simp
@[simp] theorem clearScanEffect_rings (s : State) : (clearScanEffect s).rings = s.rings := by
  unfold clearScanEffect; (repeat' split) <;> simp
@[simp] theorem clearScanEffect_queue (s : State) : (clearScanEffect s).queue = s.queue := by
  unfold clearScanEffect; (repeat' split) <;> simp
@[simp] theorem clearScanEffect_store (s : State) : (clearScanEffect s).store = s.store := by
  unfold clearScanEffect; (repeat' split) <;> simp
@[simp] theorem clearScanEffect_capture (s : State) : (clearScanEffect s).capture = s.capture := by
  unfold clearScanEffect; (repeat' split) <;> simp

/-! `afterCompletion` changes at most: line, cmd, tracker, tracks, rings, banks, scan, det, queue, store, capture, notice. -/
@[simp] theorem afterCompletion_pending (c : Bool) (s : State) : (afterCompletion c s).pending = s.pending := by
  unfold afterCompletion; (repeat' split) <;> simp
@[simp] theorem afterCompletion_resetHeld (c : Bool) (s : State) : (afterCompletion c s).resetHeld = s.resetHeld := by
  unfold afterCompletion; (repeat' split) <;> simp
@[simp] theorem afterCompletion_now (c : Bool) (s : State) : (afterCompletion c s).now = s.now := by
  unfold afterCompletion; (repeat' split) <;> simp
@[simp] theorem afterCompletion_params (c : Bool) (s : State) : (afterCompletion c s).params = s.params := by
  unfold afterCompletion; (repeat' split) <;> simp

/-! `countFormatDrop` changes at most: line. -/
@[simp] theorem countFormatDrop_pending (s : State) : (countFormatDrop s).pending = s.pending := by
  simp [countFormatDrop]
@[simp] theorem countFormatDrop_resetHeld (s : State) : (countFormatDrop s).resetHeld = s.resetHeld := by
  simp [countFormatDrop]
@[simp] theorem countFormatDrop_now (s : State) : (countFormatDrop s).now = s.now := by
  simp [countFormatDrop]
@[simp] theorem countFormatDrop_cmd (s : State) : (countFormatDrop s).cmd = s.cmd := by
  simp [countFormatDrop]
@[simp] theorem countFormatDrop_params (s : State) : (countFormatDrop s).params = s.params := by
  simp [countFormatDrop]
@[simp] theorem countFormatDrop_tracker (s : State) : (countFormatDrop s).tracker = s.tracker := by
  simp [countFormatDrop]
@[simp] theorem countFormatDrop_tracks (s : State) : (countFormatDrop s).tracks = s.tracks := by
  simp [countFormatDrop]
@[simp] theorem countFormatDrop_rings (s : State) : (countFormatDrop s).rings = s.rings := by
  simp [countFormatDrop]
@[simp] theorem countFormatDrop_banks (s : State) : (countFormatDrop s).banks = s.banks := by
  simp [countFormatDrop]
@[simp] theorem countFormatDrop_scan (s : State) : (countFormatDrop s).scan = s.scan := by
  simp [countFormatDrop]
@[simp] theorem countFormatDrop_det (s : State) : (countFormatDrop s).det = s.det := by
  simp [countFormatDrop]
@[simp] theorem countFormatDrop_queue (s : State) : (countFormatDrop s).queue = s.queue := by
  simp [countFormatDrop]
@[simp] theorem countFormatDrop_store (s : State) : (countFormatDrop s).store = s.store := by
  simp [countFormatDrop]
@[simp] theorem countFormatDrop_capture (s : State) : (countFormatDrop s).capture = s.capture := by
  simp [countFormatDrop]
@[simp] theorem countFormatDrop_notice (s : State) : (countFormatDrop s).notice = s.notice := by
  simp [countFormatDrop]

/-! `serveFrame` changes at most: tracker. -/
@[simp] theorem serveFrame_pending (f : Bytes) (s : State) : (serveFrame f s).pending = s.pending := by
  simp [serveFrame]
@[simp] theorem serveFrame_resetHeld (f : Bytes) (s : State) : (serveFrame f s).resetHeld = s.resetHeld := by
  simp [serveFrame]
@[simp] theorem serveFrame_now (f : Bytes) (s : State) : (serveFrame f s).now = s.now := by
  simp [serveFrame]
@[simp] theorem serveFrame_line (f : Bytes) (s : State) : (serveFrame f s).line = s.line := by
  simp [serveFrame]
@[simp] theorem serveFrame_cmd (f : Bytes) (s : State) : (serveFrame f s).cmd = s.cmd := by
  simp [serveFrame]
@[simp] theorem serveFrame_params (f : Bytes) (s : State) : (serveFrame f s).params = s.params := by
  simp [serveFrame]
@[simp] theorem serveFrame_tracks (f : Bytes) (s : State) : (serveFrame f s).tracks = s.tracks := by
  simp [serveFrame]
@[simp] theorem serveFrame_rings (f : Bytes) (s : State) : (serveFrame f s).rings = s.rings := by
  simp [serveFrame]
@[simp] theorem serveFrame_banks (f : Bytes) (s : State) : (serveFrame f s).banks = s.banks := by
  simp [serveFrame]
@[simp] theorem serveFrame_scan (f : Bytes) (s : State) : (serveFrame f s).scan = s.scan := by
  simp [serveFrame]
@[simp] theorem serveFrame_det (f : Bytes) (s : State) : (serveFrame f s).det = s.det := by
  simp [serveFrame]
@[simp] theorem serveFrame_queue (f : Bytes) (s : State) : (serveFrame f s).queue = s.queue := by
  simp [serveFrame]
@[simp] theorem serveFrame_store (f : Bytes) (s : State) : (serveFrame f s).store = s.store := by
  simp [serveFrame]
@[simp] theorem serveFrame_capture (f : Bytes) (s : State) : (serveFrame f s).capture = s.capture := by
  simp [serveFrame]
@[simp] theorem serveFrame_notice (f : Bytes) (s : State) : (serveFrame f s).notice = s.notice := by
  simp [serveFrame]

/-! `acceptBlock` changes at most: tracker, tracks, rings, scan, det, queue, store, capture, notice. -/
@[simp] theorem acceptBlock_pending (l : Nat) (k : Block) (x : Lane) (s : State) : (acceptBlock l k x s).pending = s.pending := by
  simp [acceptBlock]
@[simp] theorem acceptBlock_resetHeld (l : Nat) (k : Block) (x : Lane) (s : State) : (acceptBlock l k x s).resetHeld = s.resetHeld := by
  simp [acceptBlock]
@[simp] theorem acceptBlock_now (l : Nat) (k : Block) (x : Lane) (s : State) : (acceptBlock l k x s).now = s.now := by
  simp [acceptBlock]
@[simp] theorem acceptBlock_line (l : Nat) (k : Block) (x : Lane) (s : State) : (acceptBlock l k x s).line = s.line := by
  simp [acceptBlock]
@[simp] theorem acceptBlock_cmd (l : Nat) (k : Block) (x : Lane) (s : State) : (acceptBlock l k x s).cmd = s.cmd := by
  simp [acceptBlock]
@[simp] theorem acceptBlock_params (l : Nat) (k : Block) (x : Lane) (s : State) : (acceptBlock l k x s).params = s.params := by
  simp [acceptBlock]
@[simp] theorem acceptBlock_banks (l : Nat) (k : Block) (x : Lane) (s : State) : (acceptBlock l k x s).banks = s.banks := by
  simp [acceptBlock]

/-! `takeBlock` changes at most: tracker, tracks, rings, scan, det, queue, store, capture, notice. -/
@[simp] theorem takeBlock_pending (k : Block) (s : State) : (takeBlock k s).pending = s.pending := by
  unfold takeBlock; (repeat' split) <;> simp
@[simp] theorem takeBlock_resetHeld (k : Block) (s : State) : (takeBlock k s).resetHeld = s.resetHeld := by
  unfold takeBlock; (repeat' split) <;> simp
@[simp] theorem takeBlock_now (k : Block) (s : State) : (takeBlock k s).now = s.now := by
  unfold takeBlock; (repeat' split) <;> simp
@[simp] theorem takeBlock_line (k : Block) (s : State) : (takeBlock k s).line = s.line := by
  unfold takeBlock; (repeat' split) <;> simp
@[simp] theorem takeBlock_cmd (k : Block) (s : State) : (takeBlock k s).cmd = s.cmd := by
  unfold takeBlock; (repeat' split) <;> simp
@[simp] theorem takeBlock_params (k : Block) (s : State) : (takeBlock k s).params = s.params := by
  unfold takeBlock; (repeat' split) <;> simp
@[simp] theorem takeBlock_banks (k : Block) (s : State) : (takeBlock k s).banks = s.banks := by
  unfold takeBlock; (repeat' split) <;> simp

/-! `copyWord` changes at most: line, cmd, tracker, scan, det, queue, store, capture, notice. -/
@[simp] theorem copyWord_pending (l i w : Nat) (p : CopyProgress) : (copyWord l i w p).state.pending = p.state.pending := by
  unfold copyWord; (repeat' split) <;> simp
@[simp] theorem copyWord_resetHeld (l i w : Nat) (p : CopyProgress) : (copyWord l i w p).state.resetHeld = p.state.resetHeld := by
  unfold copyWord; (repeat' split) <;> simp
@[simp] theorem copyWord_now (l i w : Nat) (p : CopyProgress) : (copyWord l i w p).state.now = p.state.now := by
  unfold copyWord; (repeat' split) <;> simp
@[simp] theorem copyWord_params (l i w : Nat) (p : CopyProgress) : (copyWord l i w p).state.params = p.state.params := by
  unfold copyWord; (repeat' split) <;> simp
@[simp] theorem copyWord_tracks (l i w : Nat) (p : CopyProgress) : (copyWord l i w p).state.tracks = p.state.tracks := by
  unfold copyWord; (repeat' split) <;> simp
@[simp] theorem copyWord_rings (l i w : Nat) (p : CopyProgress) : (copyWord l i w p).state.rings = p.state.rings := by
  unfold copyWord; (repeat' split) <;> simp
@[simp] theorem copyWord_banks (l i w : Nat) (p : CopyProgress) : (copyWord l i w p).state.banks = p.state.banks := by
  unfold copyWord; (repeat' split) <;> simp

/-! `copyWords` changes at most: line, cmd, tracker, scan, det, queue, store, capture, notice. -/
@[simp] theorem copyWords_pending (l n i w : Nat) (p : CopyProgress) : (copyWords l n i w p).state.pending = p.state.pending := by
  induction n generalizing i w p with
  | zero => rfl
  | succ n ih => (unfold copyWords; dsimp only; split <;> simp [ih])
@[simp] theorem copyWords_resetHeld (l n i w : Nat) (p : CopyProgress) : (copyWords l n i w p).state.resetHeld = p.state.resetHeld := by
  induction n generalizing i w p with
  | zero => rfl
  | succ n ih => (unfold copyWords; dsimp only; split <;> simp [ih])
@[simp] theorem copyWords_now (l n i w : Nat) (p : CopyProgress) : (copyWords l n i w p).state.now = p.state.now := by
  induction n generalizing i w p with
  | zero => rfl
  | succ n ih => (unfold copyWords; dsimp only; split <;> simp [ih])
@[simp] theorem copyWords_params (l n i w : Nat) (p : CopyProgress) : (copyWords l n i w p).state.params = p.state.params := by
  induction n generalizing i w p with
  | zero => rfl
  | succ n ih => (unfold copyWords; dsimp only; split <;> simp [ih])
@[simp] theorem copyWords_tracks (l n i w : Nat) (p : CopyProgress) : (copyWords l n i w p).state.tracks = p.state.tracks := by
  induction n generalizing i w p with
  | zero => rfl
  | succ n ih => (unfold copyWords; dsimp only; split <;> simp [ih])
@[simp] theorem copyWords_rings (l n i w : Nat) (p : CopyProgress) : (copyWords l n i w p).state.rings = p.state.rings := by
  induction n generalizing i w p with
  | zero => rfl
  | succ n ih => (unfold copyWords; dsimp only; split <;> simp [ih])
@[simp] theorem copyWords_banks (l n i w : Nat) (p : CopyProgress) : (copyWords l n i w p).state.banks = p.state.banks := by
  induction n generalizing i w p with
  | zero => rfl
  | succ n ih => (unfold copyWords; dsimp only; split <;> simp [ih])

/-! `copyStep` changes at most: line, cmd, tracker, scan, det, queue, store, capture, notice. -/
@[simp] theorem copyStep_pending (s : State) : (copyStep s).pending = s.pending := by
  unfold copyStep; dsimp only; (repeat' split) <;> simp
@[simp] theorem copyStep_resetHeld (s : State) : (copyStep s).resetHeld = s.resetHeld := by
  unfold copyStep; dsimp only; (repeat' split) <;> simp
@[simp] theorem copyStep_now (s : State) : (copyStep s).now = s.now := by
  unfold copyStep; dsimp only; (repeat' split) <;> simp
@[simp] theorem copyStep_params (s : State) : (copyStep s).params = s.params := by
  unfold copyStep; dsimp only; (repeat' split) <;> simp
@[simp] theorem copyStep_tracks (s : State) : (copyStep s).tracks = s.tracks := by
  unfold copyStep; dsimp only; (repeat' split) <;> simp
@[simp] theorem copyStep_rings (s : State) : (copyStep s).rings = s.rings := by
  unfold copyStep; dsimp only; (repeat' split) <;> simp
@[simp] theorem copyStep_banks (s : State) : (copyStep s).banks = s.banks := by
  unfold copyStep; dsimp only; (repeat' split) <;> simp

end Sys2Proof.Machine
end

