-- ==== Sys2Proof/Laws/RowFrames.lean ====
section
/-! SUPPORT. The frame of each row's own part: the fields of State that it leaves as they are. A field of State that has no
lemma here for a row's part is one that it may change. -/

namespace Sys2Proof.Machine

set_option Elab.async false
set_option linter.unusedTactic false
set_option linter.unreachableTactic false
set_option linter.unnecessarySeqFocus false

/-! `upstreamFrame` changes at most: line, tracker. -/
@[simp] theorem upstreamFrame_pending (f : Bytes) (s : State) : (upstreamFrame f s).pending = s.pending := by
  unfold upstreamFrame; (try dsimp only); (repeat' split) <;> simp
@[simp] theorem upstreamFrame_resetHeld (f : Bytes) (s : State) : (upstreamFrame f s).resetHeld = s.resetHeld := by
  unfold upstreamFrame; (try dsimp only); (repeat' split) <;> simp
@[simp] theorem upstreamFrame_now (f : Bytes) (s : State) : (upstreamFrame f s).now = s.now := by
  unfold upstreamFrame; (try dsimp only); (repeat' split) <;> simp
@[simp] theorem upstreamFrame_cmd (f : Bytes) (s : State) : (upstreamFrame f s).cmd = s.cmd := by
  unfold upstreamFrame; (try dsimp only); (repeat' split) <;> simp
@[simp] theorem upstreamFrame_params (f : Bytes) (s : State) : (upstreamFrame f s).params = s.params := by
  unfold upstreamFrame; (try dsimp only); (repeat' split) <;> simp
@[simp] theorem upstreamFrame_tracks (f : Bytes) (s : State) : (upstreamFrame f s).tracks = s.tracks := by
  unfold upstreamFrame; (try dsimp only); (repeat' split) <;> simp
@[simp] theorem upstreamFrame_rings (f : Bytes) (s : State) : (upstreamFrame f s).rings = s.rings := by
  unfold upstreamFrame; (try dsimp only); (repeat' split) <;> simp
@[simp] theorem upstreamFrame_banks (f : Bytes) (s : State) : (upstreamFrame f s).banks = s.banks := by
  unfold upstreamFrame; (try dsimp only); (repeat' split) <;> simp
@[simp] theorem upstreamFrame_scan (f : Bytes) (s : State) : (upstreamFrame f s).scan = s.scan := by
  unfold upstreamFrame; (try dsimp only); (repeat' split) <;> simp
@[simp] theorem upstreamFrame_det (f : Bytes) (s : State) : (upstreamFrame f s).det = s.det := by
  unfold upstreamFrame; (try dsimp only); (repeat' split) <;> simp
@[simp] theorem upstreamFrame_queue (f : Bytes) (s : State) : (upstreamFrame f s).queue = s.queue := by
  unfold upstreamFrame; (try dsimp only); (repeat' split) <;> simp
@[simp] theorem upstreamFrame_store (f : Bytes) (s : State) : (upstreamFrame f s).store = s.store := by
  unfold upstreamFrame; (try dsimp only); (repeat' split) <;> simp
@[simp] theorem upstreamFrame_capture (f : Bytes) (s : State) : (upstreamFrame f s).capture = s.capture := by
  unfold upstreamFrame; (try dsimp only); (repeat' split) <;> simp
@[simp] theorem upstreamFrame_notice (f : Bytes) (s : State) : (upstreamFrame f s).notice = s.notice := by
  unfold upstreamFrame; (try dsimp only); (repeat' split) <;> simp

/-! `downstreamFrame` changes at most: line, cmd, notice. -/
@[simp] theorem downstreamFrame_pending (f : Bytes) (s : State) : (downstreamFrame f s).pending = s.pending := by
  unfold downstreamFrame; (try dsimp only); (repeat' split) <;> simp
@[simp] theorem downstreamFrame_resetHeld (f : Bytes) (s : State) : (downstreamFrame f s).resetHeld = s.resetHeld := by
  unfold downstreamFrame; (try dsimp only); (repeat' split) <;> simp
@[simp] theorem downstreamFrame_now (f : Bytes) (s : State) : (downstreamFrame f s).now = s.now := by
  unfold downstreamFrame; (try dsimp only); (repeat' split) <;> simp
@[simp] theorem downstreamFrame_params (f : Bytes) (s : State) : (downstreamFrame f s).params = s.params := by
  unfold downstreamFrame; (try dsimp only); (repeat' split) <;> simp
@[simp] theorem downstreamFrame_tracker (f : Bytes) (s : State) : (downstreamFrame f s).tracker = s.tracker := by
  unfold downstreamFrame; (try dsimp only); (repeat' split) <;> simp
@[simp] theorem downstreamFrame_tracks (f : Bytes) (s : State) : (downstreamFrame f s).tracks = s.tracks := by
  unfold downstreamFrame; (try dsimp only); (repeat' split) <;> simp
@[simp] theorem downstreamFrame_rings (f : Bytes) (s : State) : (downstreamFrame f s).rings = s.rings := by
  unfold downstreamFrame; (try dsimp only); (repeat' split) <;> simp
@[simp] theorem downstreamFrame_banks (f : Bytes) (s : State) : (downstreamFrame f s).banks = s.banks := by
  unfold downstreamFrame; (try dsimp only); (repeat' split) <;> simp
@[simp] theorem downstreamFrame_scan (f : Bytes) (s : State) : (downstreamFrame f s).scan = s.scan := by
  unfold downstreamFrame; (try dsimp only); (repeat' split) <;> simp
@[simp] theorem downstreamFrame_det (f : Bytes) (s : State) : (downstreamFrame f s).det = s.det := by
  unfold downstreamFrame; (try dsimp only); (repeat' split) <;> simp
@[simp] theorem downstreamFrame_queue (f : Bytes) (s : State) : (downstreamFrame f s).queue = s.queue := by
  unfold downstreamFrame; (try dsimp only); (repeat' split) <;> simp
@[simp] theorem downstreamFrame_store (f : Bytes) (s : State) : (downstreamFrame f s).store = s.store := by
  unfold downstreamFrame; (try dsimp only); (repeat' split) <;> simp
@[simp] theorem downstreamFrame_capture (f : Bytes) (s : State) : (downstreamFrame f s).capture = s.capture := by
  unfold downstreamFrame; (try dsimp only); (repeat' split) <;> simp

/-! `placeNotice` changes at most: line, notice. -/
@[simp] theorem placeNotice_pending (s : State) : (placeNotice s).pending = s.pending := by
  unfold placeNotice; (repeat' split) <;> simp
@[simp] theorem placeNotice_resetHeld (s : State) : (placeNotice s).resetHeld = s.resetHeld := by
  unfold placeNotice; (repeat' split) <;> simp
@[simp] theorem placeNotice_now (s : State) : (placeNotice s).now = s.now := by
  unfold placeNotice; (repeat' split) <;> simp
@[simp] theorem placeNotice_cmd (s : State) : (placeNotice s).cmd = s.cmd := by
  unfold placeNotice; (repeat' split) <;> simp
@[simp] theorem placeNotice_params (s : State) : (placeNotice s).params = s.params := by
  unfold placeNotice; (repeat' split) <;> simp
@[simp] theorem placeNotice_tracker (s : State) : (placeNotice s).tracker = s.tracker := by
  unfold placeNotice; (repeat' split) <;> simp
@[simp] theorem placeNotice_tracks (s : State) : (placeNotice s).tracks = s.tracks := by
  unfold placeNotice; (repeat' split) <;> simp
@[simp] theorem placeNotice_rings (s : State) : (placeNotice s).rings = s.rings := by
  unfold placeNotice; (repeat' split) <;> simp
@[simp] theorem placeNotice_banks (s : State) : (placeNotice s).banks = s.banks := by
  unfold placeNotice; (repeat' split) <;> simp
@[simp] theorem placeNotice_scan (s : State) : (placeNotice s).scan = s.scan := by
  unfold placeNotice; (repeat' split) <;> simp
@[simp] theorem placeNotice_det (s : State) : (placeNotice s).det = s.det := by
  unfold placeNotice; (repeat' split) <;> simp
@[simp] theorem placeNotice_queue (s : State) : (placeNotice s).queue = s.queue := by
  unfold placeNotice; (repeat' split) <;> simp
@[simp] theorem placeNotice_store (s : State) : (placeNotice s).store = s.store := by
  unfold placeNotice; (repeat' split) <;> simp
@[simp] theorem placeNotice_capture (s : State) : (placeNotice s).capture = s.capture := by
  unfold placeNotice; (repeat' split) <;> simp

/-! `processFrame` changes at most: line, tracker. -/
@[simp] theorem processFrame_pending (s : State) : (processFrame s).pending = s.pending := by
  unfold processFrame; (repeat' split) <;> simp
@[simp] theorem processFrame_resetHeld (s : State) : (processFrame s).resetHeld = s.resetHeld := by
  unfold processFrame; (repeat' split) <;> simp
@[simp] theorem processFrame_now (s : State) : (processFrame s).now = s.now := by
  unfold processFrame; (repeat' split) <;> simp
@[simp] theorem processFrame_cmd (s : State) : (processFrame s).cmd = s.cmd := by
  unfold processFrame; (repeat' split) <;> simp
@[simp] theorem processFrame_params (s : State) : (processFrame s).params = s.params := by
  unfold processFrame; (repeat' split) <;> simp
@[simp] theorem processFrame_tracks (s : State) : (processFrame s).tracks = s.tracks := by
  unfold processFrame; (repeat' split) <;> simp
@[simp] theorem processFrame_rings (s : State) : (processFrame s).rings = s.rings := by
  unfold processFrame; (repeat' split) <;> simp
@[simp] theorem processFrame_banks (s : State) : (processFrame s).banks = s.banks := by
  unfold processFrame; (repeat' split) <;> simp
@[simp] theorem processFrame_scan (s : State) : (processFrame s).scan = s.scan := by
  unfold processFrame; (repeat' split) <;> simp
@[simp] theorem processFrame_det (s : State) : (processFrame s).det = s.det := by
  unfold processFrame; (repeat' split) <;> simp
@[simp] theorem processFrame_queue (s : State) : (processFrame s).queue = s.queue := by
  unfold processFrame; (repeat' split) <;> simp
@[simp] theorem processFrame_store (s : State) : (processFrame s).store = s.store := by
  unfold processFrame; (repeat' split) <;> simp
@[simp] theorem processFrame_capture (s : State) : (processFrame s).capture = s.capture := by
  unfold processFrame; (repeat' split) <;> simp
@[simp] theorem processFrame_notice (s : State) : (processFrame s).notice = s.notice := by
  unfold processFrame; (repeat' split) <;> simp

/-! `acceptedBlock` changes at most: tracker, tracks, rings, scan, det, queue, store, capture, notice. -/
@[simp] theorem acceptedBlock_pending (l : Nat) (s : State) : (acceptedBlock l s).pending = s.pending := by
  unfold acceptedBlock; (repeat' split) <;> simp
@[simp] theorem acceptedBlock_resetHeld (l : Nat) (s : State) : (acceptedBlock l s).resetHeld = s.resetHeld := by
  unfold acceptedBlock; (repeat' split) <;> simp
@[simp] theorem acceptedBlock_now (l : Nat) (s : State) : (acceptedBlock l s).now = s.now := by
  unfold acceptedBlock; (repeat' split) <;> simp
@[simp] theorem acceptedBlock_line (l : Nat) (s : State) : (acceptedBlock l s).line = s.line := by
  unfold acceptedBlock; (repeat' split) <;> simp
@[simp] theorem acceptedBlock_cmd (l : Nat) (s : State) : (acceptedBlock l s).cmd = s.cmd := by
  unfold acceptedBlock; (repeat' split) <;> simp
@[simp] theorem acceptedBlock_params (l : Nat) (s : State) : (acceptedBlock l s).params = s.params := by
  unfold acceptedBlock; (repeat' split) <;> simp
@[simp] theorem acceptedBlock_banks (l : Nat) (s : State) : (acceptedBlock l s).banks = s.banks := by
  unfold acceptedBlock; (repeat' split) <;> simp

/-! `laneTimerExpiry` changes at most: now, tracker, tracks, rings, scan, det, queue, store, capture, notice. -/
@[simp] theorem laneTimerExpiry_pending (l : Nat) (s : State) : (laneTimerExpiry l s).pending = s.pending := by
  unfold laneTimerExpiry; (repeat' split) <;> simp
@[simp] theorem laneTimerExpiry_resetHeld (l : Nat) (s : State) : (laneTimerExpiry l s).resetHeld = s.resetHeld := by
  unfold laneTimerExpiry; (repeat' split) <;> simp
@[simp] theorem laneTimerExpiry_line (l : Nat) (s : State) : (laneTimerExpiry l s).line = s.line := by
  unfold laneTimerExpiry; (repeat' split) <;> simp
@[simp] theorem laneTimerExpiry_cmd (l : Nat) (s : State) : (laneTimerExpiry l s).cmd = s.cmd := by
  unfold laneTimerExpiry; (repeat' split) <;> simp
@[simp] theorem laneTimerExpiry_params (l : Nat) (s : State) : (laneTimerExpiry l s).params = s.params := by
  unfold laneTimerExpiry; (repeat' split) <;> simp
@[simp] theorem laneTimerExpiry_banks (l : Nat) (s : State) : (laneTimerExpiry l s).banks = s.banks := by
  unfold laneTimerExpiry; (repeat' split) <;> simp

/-! `lineSilenceExpiry` changes at most: now, tracker, det, queue, notice. -/
@[simp] theorem lineSilenceExpiry_pending (s : State) : (lineSilenceExpiry s).pending = s.pending := by
  unfold lineSilenceExpiry; (repeat' split) <;> simp
@[simp] theorem lineSilenceExpiry_resetHeld (s : State) : (lineSilenceExpiry s).resetHeld = s.resetHeld := by
  unfold lineSilenceExpiry; (repeat' split) <;> simp
@[simp] theorem lineSilenceExpiry_line (s : State) : (lineSilenceExpiry s).line = s.line := by
  unfold lineSilenceExpiry; (repeat' split) <;> simp
@[simp] theorem lineSilenceExpiry_cmd (s : State) : (lineSilenceExpiry s).cmd = s.cmd := by
  unfold lineSilenceExpiry; (repeat' split) <;> simp
@[simp] theorem lineSilenceExpiry_params (s : State) : (lineSilenceExpiry s).params = s.params := by
  unfold lineSilenceExpiry; (repeat' split) <;> simp
@[simp] theorem lineSilenceExpiry_tracks (s : State) : (lineSilenceExpiry s).tracks = s.tracks := by
  unfold lineSilenceExpiry; (repeat' split) <;> simp
@[simp] theorem lineSilenceExpiry_rings (s : State) : (lineSilenceExpiry s).rings = s.rings := by
  unfold lineSilenceExpiry; (repeat' split) <;> simp
@[simp] theorem lineSilenceExpiry_banks (s : State) : (lineSilenceExpiry s).banks = s.banks := by
  unfold lineSilenceExpiry; (repeat' split) <;> simp
@[simp] theorem lineSilenceExpiry_scan (s : State) : (lineSilenceExpiry s).scan = s.scan := by
  unfold lineSilenceExpiry; (repeat' split) <;> simp
@[simp] theorem lineSilenceExpiry_store (s : State) : (lineSilenceExpiry s).store = s.store := by
  unfold lineSilenceExpiry; (repeat' split) <;> simp
@[simp] theorem lineSilenceExpiry_capture (s : State) : (lineSilenceExpiry s).capture = s.capture := by
  unfold lineSilenceExpiry; (repeat' split) <;> simp

/-! `waitTimerExpiry` changes at most: now, queue, store, capture, notice. -/
@[simp] theorem waitTimerExpiry_pending (s : State) : (waitTimerExpiry s).pending = s.pending := by
  unfold waitTimerExpiry; (repeat' split) <;> simp
@[simp] theorem waitTimerExpiry_resetHeld (s : State) : (waitTimerExpiry s).resetHeld = s.resetHeld := by
  unfold waitTimerExpiry; (repeat' split) <;> simp
@[simp] theorem waitTimerExpiry_line (s : State) : (waitTimerExpiry s).line = s.line := by
  unfold waitTimerExpiry; (repeat' split) <;> simp
@[simp] theorem waitTimerExpiry_cmd (s : State) : (waitTimerExpiry s).cmd = s.cmd := by
  unfold waitTimerExpiry; (repeat' split) <;> simp
@[simp] theorem waitTimerExpiry_params (s : State) : (waitTimerExpiry s).params = s.params := by
  unfold waitTimerExpiry; (repeat' split) <;> simp
@[simp] theorem waitTimerExpiry_tracker (s : State) : (waitTimerExpiry s).tracker = s.tracker := by
  unfold waitTimerExpiry; (repeat' split) <;> simp
@[simp] theorem waitTimerExpiry_tracks (s : State) : (waitTimerExpiry s).tracks = s.tracks := by
  unfold waitTimerExpiry; (repeat' split) <;> simp
@[simp] theorem waitTimerExpiry_rings (s : State) : (waitTimerExpiry s).rings = s.rings := by
  unfold waitTimerExpiry; (repeat' split) <;> simp
@[simp] theorem waitTimerExpiry_banks (s : State) : (waitTimerExpiry s).banks = s.banks := by
  unfold waitTimerExpiry; (repeat' split) <;> simp
@[simp] theorem waitTimerExpiry_scan (s : State) : (waitTimerExpiry s).scan = s.scan := by
  unfold waitTimerExpiry; (repeat' split) <;> simp
@[simp] theorem waitTimerExpiry_det (s : State) : (waitTimerExpiry s).det = s.det := by
  unfold waitTimerExpiry; (repeat' split) <;> simp

/-! `tickScanBegin` changes at most: scan, det. -/
@[simp] theorem tickScanBegin_pending (s : State) : (tickScanBegin s).pending = s.pending := by
  unfold tickScanBegin; (repeat' split) <;> simp
@[simp] theorem tickScanBegin_resetHeld (s : State) : (tickScanBegin s).resetHeld = s.resetHeld := by
  unfold tickScanBegin; (repeat' split) <;> simp
@[simp] theorem tickScanBegin_now (s : State) : (tickScanBegin s).now = s.now := by
  unfold tickScanBegin; (repeat' split) <;> simp
@[simp] theorem tickScanBegin_line (s : State) : (tickScanBegin s).line = s.line := by
  unfold tickScanBegin; (repeat' split) <;> simp
@[simp] theorem tickScanBegin_cmd (s : State) : (tickScanBegin s).cmd = s.cmd := by
  unfold tickScanBegin; (repeat' split) <;> simp
@[simp] theorem tickScanBegin_params (s : State) : (tickScanBegin s).params = s.params := by
  unfold tickScanBegin; (repeat' split) <;> simp
@[simp] theorem tickScanBegin_tracker (s : State) : (tickScanBegin s).tracker = s.tracker := by
  unfold tickScanBegin; (repeat' split) <;> simp
@[simp] theorem tickScanBegin_tracks (s : State) : (tickScanBegin s).tracks = s.tracks := by
  unfold tickScanBegin; (repeat' split) <;> simp
@[simp] theorem tickScanBegin_rings (s : State) : (tickScanBegin s).rings = s.rings := by
  unfold tickScanBegin; (repeat' split) <;> simp
@[simp] theorem tickScanBegin_banks (s : State) : (tickScanBegin s).banks = s.banks := by
  unfold tickScanBegin; (repeat' split) <;> simp
@[simp] theorem tickScanBegin_queue (s : State) : (tickScanBegin s).queue = s.queue := by
  unfold tickScanBegin; (repeat' split) <;> simp
@[simp] theorem tickScanBegin_store (s : State) : (tickScanBegin s).store = s.store := by
  unfold tickScanBegin; (repeat' split) <;> simp
@[simp] theorem tickScanBegin_capture (s : State) : (tickScanBegin s).capture = s.capture := by
  unfold tickScanBegin; (repeat' split) <;> simp
@[simp] theorem tickScanBegin_notice (s : State) : (tickScanBegin s).notice = s.notice := by
  unfold tickScanBegin; (repeat' split) <;> simp

/-! `voxelEvaluation` changes at most: line, cmd, tracker, scan, det, queue, store, capture, notice. -/
@[simp] theorem voxelEvaluation_pending (s : State) : (voxelEvaluation s).pending = s.pending := by
  unfold voxelEvaluation; (repeat' split) <;> simp
@[simp] theorem voxelEvaluation_resetHeld (s : State) : (voxelEvaluation s).resetHeld = s.resetHeld := by
  unfold voxelEvaluation; (repeat' split) <;> simp
@[simp] theorem voxelEvaluation_now (s : State) : (voxelEvaluation s).now = s.now := by
  unfold voxelEvaluation; (repeat' split) <;> simp
@[simp] theorem voxelEvaluation_params (s : State) : (voxelEvaluation s).params = s.params := by
  unfold voxelEvaluation; (repeat' split) <;> simp
@[simp] theorem voxelEvaluation_tracks (s : State) : (voxelEvaluation s).tracks = s.tracks := by
  unfold voxelEvaluation; (repeat' split) <;> simp
@[simp] theorem voxelEvaluation_rings (s : State) : (voxelEvaluation s).rings = s.rings := by
  unfold voxelEvaluation; (repeat' split) <;> simp
@[simp] theorem voxelEvaluation_banks (s : State) : (voxelEvaluation s).banks = s.banks := by
  unfold voxelEvaluation; (repeat' split) <;> simp

/-! `tickResultDelivery` changes at most: line, cmd, tracker, tracks, rings, banks, scan, det, queue, store, capture, notice. -/
@[simp] theorem tickResultDelivery_pending (s : State) : (tickResultDelivery s).pending = s.pending := by
  unfold tickResultDelivery; (try dsimp only); (repeat' split) <;> simp
@[simp] theorem tickResultDelivery_resetHeld (s : State) : (tickResultDelivery s).resetHeld = s.resetHeld := by
  unfold tickResultDelivery; (try dsimp only); (repeat' split) <;> simp
@[simp] theorem tickResultDelivery_now (s : State) : (tickResultDelivery s).now = s.now := by
  unfold tickResultDelivery; (try dsimp only); (repeat' split) <;> simp
@[simp] theorem tickResultDelivery_params (s : State) : (tickResultDelivery s).params = s.params := by
  unfold tickResultDelivery; (try dsimp only); (repeat' split) <;> simp

/-! `closeCompletion` changes at most: line, cmd, tracker, tracks, rings, banks, scan, det, queue, store, capture, notice. -/
@[simp] theorem closeCompletion_pending (s : State) : (closeCompletion s).pending = s.pending := by
  unfold closeCompletion; (repeat' split) <;> simp
@[simp] theorem closeCompletion_resetHeld (s : State) : (closeCompletion s).resetHeld = s.resetHeld := by
  unfold closeCompletion; (repeat' split) <;> simp
@[simp] theorem closeCompletion_now (s : State) : (closeCompletion s).now = s.now := by
  unfold closeCompletion; (repeat' split) <;> simp
@[simp] theorem closeCompletion_params (s : State) : (closeCompletion s).params = s.params := by
  unfold closeCompletion; (repeat' split) <;> simp

/-! `endValidation` changes at most: line, cmd, tracker, scan, det, queue, store, capture, notice, banks. -/
@[simp] theorem endValidation_pending (bank : BankId) (s : State) : (endValidation bank s).pending = s.pending := by
  unfold endValidation; (try dsimp only); (repeat' split) <;> simp
@[simp] theorem endValidation_resetHeld (bank : BankId) (s : State) : (endValidation bank s).resetHeld = s.resetHeld := by
  unfold endValidation; (try dsimp only); (repeat' split) <;> simp
@[simp] theorem endValidation_now (bank : BankId) (s : State) : (endValidation bank s).now = s.now := by
  unfold endValidation; (try dsimp only); (repeat' split) <;> simp
@[simp] theorem endValidation_params (bank : BankId) (s : State) : (endValidation bank s).params = s.params := by
  unfold endValidation; (try dsimp only); (repeat' split) <;> simp
@[simp] theorem endValidation_tracks (bank : BankId) (s : State) : (endValidation bank s).tracks = s.tracks := by
  unfold endValidation; (try dsimp only); (repeat' split) <;> simp
@[simp] theorem endValidation_rings (bank : BankId) (s : State) : (endValidation bank s).rings = s.rings := by
  unfold endValidation; (try dsimp only); (repeat' split) <;> simp

/-! `endOfValidation` changes at most: line, cmd, tracker, scan, det, queue, store, capture, notice, banks. -/
@[simp] theorem endOfValidation_pending (s : State) : (endOfValidation s).pending = s.pending := by
  unfold endOfValidation; (repeat' split) <;> simp
@[simp] theorem endOfValidation_resetHeld (s : State) : (endOfValidation s).resetHeld = s.resetHeld := by
  unfold endOfValidation; (repeat' split) <;> simp
@[simp] theorem endOfValidation_now (s : State) : (endOfValidation s).now = s.now := by
  unfold endOfValidation; (repeat' split) <;> simp
@[simp] theorem endOfValidation_params (s : State) : (endOfValidation s).params = s.params := by
  unfold endOfValidation; (repeat' split) <;> simp
@[simp] theorem endOfValidation_tracks (s : State) : (endOfValidation s).tracks = s.tracks := by
  unfold endOfValidation; (repeat' split) <;> simp
@[simp] theorem endOfValidation_rings (s : State) : (endOfValidation s).rings = s.rings := by
  unfold endOfValidation; (repeat' split) <;> simp

/-! `meetStoreFailure` changes at most: line, cmd, tracker, scan, det, queue, store, capture, notice. -/
@[simp] theorem meetStoreFailure_pending (w : Nat) (st : Stream) (s : State) : (meetStoreFailure w st s).2.pending = s.pending := by
  unfold meetStoreFailure; (try dsimp only); (repeat' split) <;> simp
@[simp] theorem meetStoreFailure_resetHeld (w : Nat) (st : Stream) (s : State) : (meetStoreFailure w st s).2.resetHeld = s.resetHeld := by
  unfold meetStoreFailure; (try dsimp only); (repeat' split) <;> simp
@[simp] theorem meetStoreFailure_now (w : Nat) (st : Stream) (s : State) : (meetStoreFailure w st s).2.now = s.now := by
  unfold meetStoreFailure; (try dsimp only); (repeat' split) <;> simp
@[simp] theorem meetStoreFailure_params (w : Nat) (st : Stream) (s : State) : (meetStoreFailure w st s).2.params = s.params := by
  unfold meetStoreFailure; (try dsimp only); (repeat' split) <;> simp
@[simp] theorem meetStoreFailure_tracks (w : Nat) (st : Stream) (s : State) : (meetStoreFailure w st s).2.tracks = s.tracks := by
  unfold meetStoreFailure; (try dsimp only); (repeat' split) <;> simp
@[simp] theorem meetStoreFailure_rings (w : Nat) (st : Stream) (s : State) : (meetStoreFailure w st s).2.rings = s.rings := by
  unfold meetStoreFailure; (try dsimp only); (repeat' split) <;> simp
@[simp] theorem meetStoreFailure_banks (w : Nat) (st : Stream) (s : State) : (meetStoreFailure w st s).2.banks = s.banks := by
  unfold meetStoreFailure; (try dsimp only); (repeat' split) <;> simp

/-! `readWords` changes at most: line, cmd, tracker, scan, det, queue, store, capture, notice. -/
@[simp] theorem readWords_pending (n w : Nat) (st : Stream) (s : State) : (readWords n w st s).2.2.pending = s.pending := by
  induction n generalizing w st s with
  | zero => rfl
  | succ n ih => (unfold readWords; dsimp only; split <;> simp [ih])
@[simp] theorem readWords_resetHeld (n w : Nat) (st : Stream) (s : State) : (readWords n w st s).2.2.resetHeld = s.resetHeld := by
  induction n generalizing w st s with
  | zero => rfl
  | succ n ih => (unfold readWords; dsimp only; split <;> simp [ih])
@[simp] theorem readWords_now (n w : Nat) (st : Stream) (s : State) : (readWords n w st s).2.2.now = s.now := by
  induction n generalizing w st s with
  | zero => rfl
  | succ n ih => (unfold readWords; dsimp only; split <;> simp [ih])
@[simp] theorem readWords_params (n w : Nat) (st : Stream) (s : State) : (readWords n w st s).2.2.params = s.params := by
  induction n generalizing w st s with
  | zero => rfl
  | succ n ih => (unfold readWords; dsimp only; split <;> simp [ih])
@[simp] theorem readWords_tracks (n w : Nat) (st : Stream) (s : State) : (readWords n w st s).2.2.tracks = s.tracks := by
  induction n generalizing w st s with
  | zero => rfl
  | succ n ih => (unfold readWords; dsimp only; split <;> simp [ih])
@[simp] theorem readWords_rings (n w : Nat) (st : Stream) (s : State) : (readWords n w st s).2.2.rings = s.rings := by
  induction n generalizing w st s with
  | zero => rfl
  | succ n ih => (unfold readWords; dsimp only; split <;> simp [ih])
@[simp] theorem readWords_banks (n w : Nat) (st : Stream) (s : State) : (readWords n w st s).2.2.banks = s.banks := by
  induction n generalizing w st s with
  | zero => rfl
  | succ n ih => (unfold readWords; dsimp only; split <;> simp [ih])

/-! `placeSnippet` changes at most: line, cmd, tracker, scan, det, queue, store, capture, notice. -/
@[simp] theorem placeSnippet_pending (st : Stream) (e : PlanEntry) (w : Nat) (s : State) : (placeSnippet st e w s).pending = s.pending := by
  unfold placeSnippet; dsimp only; split <;> simp [streamReply]
@[simp] theorem placeSnippet_resetHeld (st : Stream) (e : PlanEntry) (w : Nat) (s : State) : (placeSnippet st e w s).resetHeld = s.resetHeld := by
  unfold placeSnippet; dsimp only; split <;> simp [streamReply]
@[simp] theorem placeSnippet_now (st : Stream) (e : PlanEntry) (w : Nat) (s : State) : (placeSnippet st e w s).now = s.now := by
  unfold placeSnippet; dsimp only; split <;> simp [streamReply]
@[simp] theorem placeSnippet_params (st : Stream) (e : PlanEntry) (w : Nat) (s : State) : (placeSnippet st e w s).params = s.params := by
  unfold placeSnippet; dsimp only; split <;> simp [streamReply]
@[simp] theorem placeSnippet_tracks (st : Stream) (e : PlanEntry) (w : Nat) (s : State) : (placeSnippet st e w s).tracks = s.tracks := by
  unfold placeSnippet; dsimp only; split <;> simp [streamReply]
@[simp] theorem placeSnippet_rings (st : Stream) (e : PlanEntry) (w : Nat) (s : State) : (placeSnippet st e w s).rings = s.rings := by
  unfold placeSnippet; dsimp only; split <;> simp [streamReply]
@[simp] theorem placeSnippet_banks (st : Stream) (e : PlanEntry) (w : Nat) (s : State) : (placeSnippet st e w s).banks = s.banks := by
  unfold placeSnippet; dsimp only; split <;> simp [streamReply]

/-! `snippetFramePlaced` changes at most: line, cmd, tracker, scan, det, queue, store, capture, notice. -/
@[simp] theorem snippetFramePlaced_pending (s : State) : (snippetFramePlaced s).pending = s.pending := by
  unfold snippetFramePlaced streamWaits; (repeat' split) <;> simp
@[simp] theorem snippetFramePlaced_resetHeld (s : State) : (snippetFramePlaced s).resetHeld = s.resetHeld := by
  unfold snippetFramePlaced streamWaits; (repeat' split) <;> simp
@[simp] theorem snippetFramePlaced_now (s : State) : (snippetFramePlaced s).now = s.now := by
  unfold snippetFramePlaced streamWaits; (repeat' split) <;> simp
@[simp] theorem snippetFramePlaced_params (s : State) : (snippetFramePlaced s).params = s.params := by
  unfold snippetFramePlaced streamWaits; (repeat' split) <;> simp
@[simp] theorem snippetFramePlaced_tracks (s : State) : (snippetFramePlaced s).tracks = s.tracks := by
  unfold snippetFramePlaced streamWaits; (repeat' split) <;> simp
@[simp] theorem snippetFramePlaced_rings (s : State) : (snippetFramePlaced s).rings = s.rings := by
  unfold snippetFramePlaced streamWaits; (repeat' split) <;> simp
@[simp] theorem snippetFramePlaced_banks (s : State) : (snippetFramePlaced s).banks = s.banks := by
  unfold snippetFramePlaced streamWaits; (repeat' split) <;> simp

/-! `hotStartCompletion` changes at most: line, cmd. -/
@[simp] theorem hotStartCompletion_pending (s : State) : (hotStartCompletion s).pending = s.pending := by
  unfold hotStartCompletion; (repeat' split) <;> simp
@[simp] theorem hotStartCompletion_resetHeld (s : State) : (hotStartCompletion s).resetHeld = s.resetHeld := by
  unfold hotStartCompletion; (repeat' split) <;> simp
@[simp] theorem hotStartCompletion_now (s : State) : (hotStartCompletion s).now = s.now := by
  unfold hotStartCompletion; (repeat' split) <;> simp
@[simp] theorem hotStartCompletion_params (s : State) : (hotStartCompletion s).params = s.params := by
  unfold hotStartCompletion; (repeat' split) <;> simp
@[simp] theorem hotStartCompletion_tracker (s : State) : (hotStartCompletion s).tracker = s.tracker := by
  unfold hotStartCompletion; (repeat' split) <;> simp
@[simp] theorem hotStartCompletion_tracks (s : State) : (hotStartCompletion s).tracks = s.tracks := by
  unfold hotStartCompletion; (repeat' split) <;> simp
@[simp] theorem hotStartCompletion_rings (s : State) : (hotStartCompletion s).rings = s.rings := by
  unfold hotStartCompletion; (repeat' split) <;> simp
@[simp] theorem hotStartCompletion_banks (s : State) : (hotStartCompletion s).banks = s.banks := by
  unfold hotStartCompletion; (repeat' split) <;> simp
@[simp] theorem hotStartCompletion_scan (s : State) : (hotStartCompletion s).scan = s.scan := by
  unfold hotStartCompletion; (repeat' split) <;> simp
@[simp] theorem hotStartCompletion_det (s : State) : (hotStartCompletion s).det = s.det := by
  unfold hotStartCompletion; (repeat' split) <;> simp
@[simp] theorem hotStartCompletion_queue (s : State) : (hotStartCompletion s).queue = s.queue := by
  unfold hotStartCompletion; (repeat' split) <;> simp
@[simp] theorem hotStartCompletion_store (s : State) : (hotStartCompletion s).store = s.store := by
  unfold hotStartCompletion; (repeat' split) <;> simp
@[simp] theorem hotStartCompletion_capture (s : State) : (hotStartCompletion s).capture = s.capture := by
  unfold hotStartCompletion; (repeat' split) <;> simp
@[simp] theorem hotStartCompletion_notice (s : State) : (hotStartCompletion s).notice = s.notice := by
  unfold hotStartCompletion; (repeat' split) <;> simp

/-! `setAddress` changes at most: line, cmd, notice. -/
@[simp] theorem setAddress_pending (c : Held) (s : State) : (setAddress c s).pending = s.pending := by
  unfold setAddress; (try dsimp only); (repeat' split) <;> simp
@[simp] theorem setAddress_resetHeld (c : Held) (s : State) : (setAddress c s).resetHeld = s.resetHeld := by
  unfold setAddress; (try dsimp only); (repeat' split) <;> simp
@[simp] theorem setAddress_now (c : Held) (s : State) : (setAddress c s).now = s.now := by
  unfold setAddress; (try dsimp only); (repeat' split) <;> simp
@[simp] theorem setAddress_params (c : Held) (s : State) : (setAddress c s).params = s.params := by
  unfold setAddress; (try dsimp only); (repeat' split) <;> simp
@[simp] theorem setAddress_tracker (c : Held) (s : State) : (setAddress c s).tracker = s.tracker := by
  unfold setAddress; (try dsimp only); (repeat' split) <;> simp
@[simp] theorem setAddress_tracks (c : Held) (s : State) : (setAddress c s).tracks = s.tracks := by
  unfold setAddress; (try dsimp only); (repeat' split) <;> simp
@[simp] theorem setAddress_rings (c : Held) (s : State) : (setAddress c s).rings = s.rings := by
  unfold setAddress; (try dsimp only); (repeat' split) <;> simp
@[simp] theorem setAddress_banks (c : Held) (s : State) : (setAddress c s).banks = s.banks := by
  unfold setAddress; (try dsimp only); (repeat' split) <;> simp
@[simp] theorem setAddress_scan (c : Held) (s : State) : (setAddress c s).scan = s.scan := by
  unfold setAddress; (try dsimp only); (repeat' split) <;> simp
@[simp] theorem setAddress_det (c : Held) (s : State) : (setAddress c s).det = s.det := by
  unfold setAddress; (try dsimp only); (repeat' split) <;> simp
@[simp] theorem setAddress_queue (c : Held) (s : State) : (setAddress c s).queue = s.queue := by
  unfold setAddress; (try dsimp only); (repeat' split) <;> simp
@[simp] theorem setAddress_store (c : Held) (s : State) : (setAddress c s).store = s.store := by
  unfold setAddress; (try dsimp only); (repeat' split) <;> simp
@[simp] theorem setAddress_capture (c : Held) (s : State) : (setAddress c s).capture = s.capture := by
  unfold setAddress; (try dsimp only); (repeat' split) <;> simp

/-! `readPortCounters` changes at most: line, cmd. -/
@[simp] theorem readPortCounters_pending (c : Held) (s : State) : (readPortCounters c s).pending = s.pending := by
  unfold readPortCounters; (try dsimp only); (repeat' split) <;> simp
@[simp] theorem readPortCounters_resetHeld (c : Held) (s : State) : (readPortCounters c s).resetHeld = s.resetHeld := by
  unfold readPortCounters; (try dsimp only); (repeat' split) <;> simp
@[simp] theorem readPortCounters_now (c : Held) (s : State) : (readPortCounters c s).now = s.now := by
  unfold readPortCounters; (try dsimp only); (repeat' split) <;> simp
@[simp] theorem readPortCounters_params (c : Held) (s : State) : (readPortCounters c s).params = s.params := by
  unfold readPortCounters; (try dsimp only); (repeat' split) <;> simp
@[simp] theorem readPortCounters_tracker (c : Held) (s : State) : (readPortCounters c s).tracker = s.tracker := by
  unfold readPortCounters; (try dsimp only); (repeat' split) <;> simp
@[simp] theorem readPortCounters_tracks (c : Held) (s : State) : (readPortCounters c s).tracks = s.tracks := by
  unfold readPortCounters; (try dsimp only); (repeat' split) <;> simp
@[simp] theorem readPortCounters_rings (c : Held) (s : State) : (readPortCounters c s).rings = s.rings := by
  unfold readPortCounters; (try dsimp only); (repeat' split) <;> simp
@[simp] theorem readPortCounters_banks (c : Held) (s : State) : (readPortCounters c s).banks = s.banks := by
  unfold readPortCounters; (try dsimp only); (repeat' split) <;> simp
@[simp] theorem readPortCounters_scan (c : Held) (s : State) : (readPortCounters c s).scan = s.scan := by
  unfold readPortCounters; (try dsimp only); (repeat' split) <;> simp
@[simp] theorem readPortCounters_det (c : Held) (s : State) : (readPortCounters c s).det = s.det := by
  unfold readPortCounters; (try dsimp only); (repeat' split) <;> simp
@[simp] theorem readPortCounters_queue (c : Held) (s : State) : (readPortCounters c s).queue = s.queue := by
  unfold readPortCounters; (try dsimp only); (repeat' split) <;> simp
@[simp] theorem readPortCounters_store (c : Held) (s : State) : (readPortCounters c s).store = s.store := by
  unfold readPortCounters; (try dsimp only); (repeat' split) <;> simp
@[simp] theorem readPortCounters_capture (c : Held) (s : State) : (readPortCounters c s).capture = s.capture := by
  unfold readPortCounters; (try dsimp only); (repeat' split) <;> simp
@[simp] theorem readPortCounters_notice (c : Held) (s : State) : (readPortCounters c s).notice = s.notice := by
  unfold readPortCounters; (try dsimp only); (repeat' split) <;> simp

/-! `readStatus` changes at most: line, cmd. -/
@[simp] theorem readStatus_pending (c : Held) (s : State) : (readStatus c s).pending = s.pending := by
  unfold readStatus; (try dsimp only); (repeat' split) <;> simp
@[simp] theorem readStatus_resetHeld (c : Held) (s : State) : (readStatus c s).resetHeld = s.resetHeld := by
  unfold readStatus; (try dsimp only); (repeat' split) <;> simp
@[simp] theorem readStatus_now (c : Held) (s : State) : (readStatus c s).now = s.now := by
  unfold readStatus; (try dsimp only); (repeat' split) <;> simp
@[simp] theorem readStatus_params (c : Held) (s : State) : (readStatus c s).params = s.params := by
  unfold readStatus; (try dsimp only); (repeat' split) <;> simp
@[simp] theorem readStatus_tracker (c : Held) (s : State) : (readStatus c s).tracker = s.tracker := by
  unfold readStatus; (try dsimp only); (repeat' split) <;> simp
@[simp] theorem readStatus_tracks (c : Held) (s : State) : (readStatus c s).tracks = s.tracks := by
  unfold readStatus; (try dsimp only); (repeat' split) <;> simp
@[simp] theorem readStatus_rings (c : Held) (s : State) : (readStatus c s).rings = s.rings := by
  unfold readStatus; (try dsimp only); (repeat' split) <;> simp
@[simp] theorem readStatus_banks (c : Held) (s : State) : (readStatus c s).banks = s.banks := by
  unfold readStatus; (try dsimp only); (repeat' split) <;> simp
@[simp] theorem readStatus_scan (c : Held) (s : State) : (readStatus c s).scan = s.scan := by
  unfold readStatus; (try dsimp only); (repeat' split) <;> simp
@[simp] theorem readStatus_det (c : Held) (s : State) : (readStatus c s).det = s.det := by
  unfold readStatus; (try dsimp only); (repeat' split) <;> simp
@[simp] theorem readStatus_queue (c : Held) (s : State) : (readStatus c s).queue = s.queue := by
  unfold readStatus; (try dsimp only); (repeat' split) <;> simp
@[simp] theorem readStatus_store (c : Held) (s : State) : (readStatus c s).store = s.store := by
  unfold readStatus; (try dsimp only); (repeat' split) <;> simp
@[simp] theorem readStatus_capture (c : Held) (s : State) : (readStatus c s).capture = s.capture := by
  unfold readStatus; (try dsimp only); (repeat' split) <;> simp
@[simp] theorem readStatus_notice (c : Held) (s : State) : (readStatus c s).notice = s.notice := by
  unfold readStatus; (try dsimp only); (repeat' split) <;> simp

/-! `loseLanes` changes at most: tracker, notice. -/
@[simp] theorem loseLanes_pending (s : State) : (loseLanes s).pending = s.pending := by
  simp [loseLanes]
@[simp] theorem loseLanes_resetHeld (s : State) : (loseLanes s).resetHeld = s.resetHeld := by
  simp [loseLanes]
@[simp] theorem loseLanes_now (s : State) : (loseLanes s).now = s.now := by
  simp [loseLanes]
@[simp] theorem loseLanes_line (s : State) : (loseLanes s).line = s.line := by
  simp [loseLanes]
@[simp] theorem loseLanes_cmd (s : State) : (loseLanes s).cmd = s.cmd := by
  simp [loseLanes]
@[simp] theorem loseLanes_params (s : State) : (loseLanes s).params = s.params := by
  simp [loseLanes]
@[simp] theorem loseLanes_tracks (s : State) : (loseLanes s).tracks = s.tracks := by
  simp [loseLanes]
@[simp] theorem loseLanes_rings (s : State) : (loseLanes s).rings = s.rings := by
  simp [loseLanes]
@[simp] theorem loseLanes_banks (s : State) : (loseLanes s).banks = s.banks := by
  simp [loseLanes]
@[simp] theorem loseLanes_scan (s : State) : (loseLanes s).scan = s.scan := by
  simp [loseLanes]
@[simp] theorem loseLanes_det (s : State) : (loseLanes s).det = s.det := by
  simp [loseLanes]
@[simp] theorem loseLanes_queue (s : State) : (loseLanes s).queue = s.queue := by
  simp [loseLanes]
@[simp] theorem loseLanes_store (s : State) : (loseLanes s).store = s.store := by
  simp [loseLanes]
@[simp] theorem loseLanes_capture (s : State) : (loseLanes s).capture = s.capture := by
  simp [loseLanes]

/-! `changeEffects` changes at most: tracker, tracks, rings, scan, notice. -/
@[simp] theorem changeEffects_pending (r t : Bool) (s : State) : (changeEffects r t s).pending = s.pending := by
  unfold changeEffects clearRings clearTicks; (try dsimp only); (repeat' split) <;> simp
@[simp] theorem changeEffects_resetHeld (r t : Bool) (s : State) : (changeEffects r t s).resetHeld = s.resetHeld := by
  unfold changeEffects clearRings clearTicks; (try dsimp only); (repeat' split) <;> simp
@[simp] theorem changeEffects_now (r t : Bool) (s : State) : (changeEffects r t s).now = s.now := by
  unfold changeEffects clearRings clearTicks; (try dsimp only); (repeat' split) <;> simp
@[simp] theorem changeEffects_line (r t : Bool) (s : State) : (changeEffects r t s).line = s.line := by
  unfold changeEffects clearRings clearTicks; (try dsimp only); (repeat' split) <;> simp
@[simp] theorem changeEffects_cmd (r t : Bool) (s : State) : (changeEffects r t s).cmd = s.cmd := by
  unfold changeEffects clearRings clearTicks; (try dsimp only); (repeat' split) <;> simp
@[simp] theorem changeEffects_params (r t : Bool) (s : State) : (changeEffects r t s).params = s.params := by
  unfold changeEffects clearRings clearTicks; (try dsimp only); (repeat' split) <;> simp
@[simp] theorem changeEffects_banks (r t : Bool) (s : State) : (changeEffects r t s).banks = s.banks := by
  unfold changeEffects clearRings clearTicks; (try dsimp only); (repeat' split) <;> simp
@[simp] theorem changeEffects_det (r t : Bool) (s : State) : (changeEffects r t s).det = s.det := by
  unfold changeEffects clearRings clearTicks; (try dsimp only); (repeat' split) <;> simp
@[simp] theorem changeEffects_queue (r t : Bool) (s : State) : (changeEffects r t s).queue = s.queue := by
  unfold changeEffects clearRings clearTicks; (try dsimp only); (repeat' split) <;> simp
@[simp] theorem changeEffects_store (r t : Bool) (s : State) : (changeEffects r t s).store = s.store := by
  unfold changeEffects clearRings clearTicks; (try dsimp only); (repeat' split) <;> simp
@[simp] theorem changeEffects_capture (r t : Bool) (s : State) : (changeEffects r t s).capture = s.capture := by
  unfold changeEffects clearRings clearTicks; (try dsimp only); (repeat' split) <;> simp

/-! `setParameters` changes at most: line, cmd, params, tracker, tracks, rings, scan, queue, store, capture, notice. -/
@[simp] theorem setParameters_pending (c : Held) (s : State) : (setParameters c s).pending = s.pending := by
  unfold setParameters; (try dsimp only); (repeat' split) <;> simp
@[simp] theorem setParameters_resetHeld (c : Held) (s : State) : (setParameters c s).resetHeld = s.resetHeld := by
  unfold setParameters; (try dsimp only); (repeat' split) <;> simp
@[simp] theorem setParameters_now (c : Held) (s : State) : (setParameters c s).now = s.now := by
  unfold setParameters; (try dsimp only); (repeat' split) <;> simp
@[simp] theorem setParameters_banks (c : Held) (s : State) : (setParameters c s).banks = s.banks := by
  unfold setParameters; (try dsimp only); (repeat' split) <;> simp
@[simp] theorem setParameters_det (c : Held) (s : State) : (setParameters c s).det = s.det := by
  unfold setParameters; (try dsimp only); (repeat' split) <;> simp

/-! `readParameters` changes at most: line, cmd. -/
@[simp] theorem readParameters_pending (c : Held) (s : State) : (readParameters c s).pending = s.pending := by
  unfold readParameters; (try dsimp only); (repeat' split) <;> simp
@[simp] theorem readParameters_resetHeld (c : Held) (s : State) : (readParameters c s).resetHeld = s.resetHeld := by
  unfold readParameters; (try dsimp only); (repeat' split) <;> simp
@[simp] theorem readParameters_now (c : Held) (s : State) : (readParameters c s).now = s.now := by
  unfold readParameters; (try dsimp only); (repeat' split) <;> simp
@[simp] theorem readParameters_params (c : Held) (s : State) : (readParameters c s).params = s.params := by
  unfold readParameters; (try dsimp only); (repeat' split) <;> simp
@[simp] theorem readParameters_tracker (c : Held) (s : State) : (readParameters c s).tracker = s.tracker := by
  unfold readParameters; (try dsimp only); (repeat' split) <;> simp
@[simp] theorem readParameters_tracks (c : Held) (s : State) : (readParameters c s).tracks = s.tracks := by
  unfold readParameters; (try dsimp only); (repeat' split) <;> simp
@[simp] theorem readParameters_rings (c : Held) (s : State) : (readParameters c s).rings = s.rings := by
  unfold readParameters; (try dsimp only); (repeat' split) <;> simp
@[simp] theorem readParameters_banks (c : Held) (s : State) : (readParameters c s).banks = s.banks := by
  unfold readParameters; (try dsimp only); (repeat' split) <;> simp
@[simp] theorem readParameters_scan (c : Held) (s : State) : (readParameters c s).scan = s.scan := by
  unfold readParameters; (try dsimp only); (repeat' split) <;> simp
@[simp] theorem readParameters_det (c : Held) (s : State) : (readParameters c s).det = s.det := by
  unfold readParameters; (try dsimp only); (repeat' split) <;> simp
@[simp] theorem readParameters_queue (c : Held) (s : State) : (readParameters c s).queue = s.queue := by
  unfold readParameters; (try dsimp only); (repeat' split) <;> simp
@[simp] theorem readParameters_store (c : Held) (s : State) : (readParameters c s).store = s.store := by
  unfold readParameters; (try dsimp only); (repeat' split) <;> simp
@[simp] theorem readParameters_capture (c : Held) (s : State) : (readParameters c s).capture = s.capture := by
  unfold readParameters; (try dsimp only); (repeat' split) <;> simp
@[simp] theorem readParameters_notice (c : Held) (s : State) : (readParameters c s).notice = s.notice := by
  unfold readParameters; (try dsimp only); (repeat' split) <;> simp

/-! `replaceMap` changes at most: tracker, tracks, rings, notice. -/
@[simp] theorem replaceMap_pending (es : List (Nat × LaneEntry × Nat)) (s : State) : (replaceMap es s).pending = s.pending := by
  simp [replaceMap]
@[simp] theorem replaceMap_resetHeld (es : List (Nat × LaneEntry × Nat)) (s : State) : (replaceMap es s).resetHeld = s.resetHeld := by
  simp [replaceMap]
@[simp] theorem replaceMap_now (es : List (Nat × LaneEntry × Nat)) (s : State) : (replaceMap es s).now = s.now := by
  simp [replaceMap]
@[simp] theorem replaceMap_line (es : List (Nat × LaneEntry × Nat)) (s : State) : (replaceMap es s).line = s.line := by
  simp [replaceMap]
@[simp] theorem replaceMap_cmd (es : List (Nat × LaneEntry × Nat)) (s : State) : (replaceMap es s).cmd = s.cmd := by
  simp [replaceMap]
@[simp] theorem replaceMap_params (es : List (Nat × LaneEntry × Nat)) (s : State) : (replaceMap es s).params = s.params := by
  simp [replaceMap]
@[simp] theorem replaceMap_banks (es : List (Nat × LaneEntry × Nat)) (s : State) : (replaceMap es s).banks = s.banks := by
  simp [replaceMap]
@[simp] theorem replaceMap_scan (es : List (Nat × LaneEntry × Nat)) (s : State) : (replaceMap es s).scan = s.scan := by
  simp [replaceMap]
@[simp] theorem replaceMap_det (es : List (Nat × LaneEntry × Nat)) (s : State) : (replaceMap es s).det = s.det := by
  simp [replaceMap]
@[simp] theorem replaceMap_queue (es : List (Nat × LaneEntry × Nat)) (s : State) : (replaceMap es s).queue = s.queue := by
  simp [replaceMap]
@[simp] theorem replaceMap_store (es : List (Nat × LaneEntry × Nat)) (s : State) : (replaceMap es s).store = s.store := by
  simp [replaceMap]
@[simp] theorem replaceMap_capture (es : List (Nat × LaneEntry × Nat)) (s : State) : (replaceMap es s).capture = s.capture := by
  simp [replaceMap]

/-! `loadLaneMap` changes at most: line, cmd, tracker, tracks, rings, queue, store, capture, notice. -/
@[simp] theorem loadLaneMap_pending (c : Held) (s : State) : (loadLaneMap c s).pending = s.pending := by
  unfold loadLaneMap; (try dsimp only); (repeat' split) <;> simp
@[simp] theorem loadLaneMap_resetHeld (c : Held) (s : State) : (loadLaneMap c s).resetHeld = s.resetHeld := by
  unfold loadLaneMap; (try dsimp only); (repeat' split) <;> simp
@[simp] theorem loadLaneMap_now (c : Held) (s : State) : (loadLaneMap c s).now = s.now := by
  unfold loadLaneMap; (try dsimp only); (repeat' split) <;> simp
@[simp] theorem loadLaneMap_params (c : Held) (s : State) : (loadLaneMap c s).params = s.params := by
  unfold loadLaneMap; (try dsimp only); (repeat' split) <;> simp
@[simp] theorem loadLaneMap_banks (c : Held) (s : State) : (loadLaneMap c s).banks = s.banks := by
  unfold loadLaneMap; (try dsimp only); (repeat' split) <;> simp
@[simp] theorem loadLaneMap_scan (c : Held) (s : State) : (loadLaneMap c s).scan = s.scan := by
  unfold loadLaneMap; (try dsimp only); (repeat' split) <;> simp
@[simp] theorem loadLaneMap_det (c : Held) (s : State) : (loadLaneMap c s).det = s.det := by
  unfold loadLaneMap; (try dsimp only); (repeat' split) <;> simp

/-! `writeEntry` changes at most: tracker. -/
@[simp] theorem writeEntry_pending (x : LaneChange) (s : State) : (writeEntry x s).pending = s.pending := by
  simp [writeEntry]
@[simp] theorem writeEntry_resetHeld (x : LaneChange) (s : State) : (writeEntry x s).resetHeld = s.resetHeld := by
  simp [writeEntry]
@[simp] theorem writeEntry_now (x : LaneChange) (s : State) : (writeEntry x s).now = s.now := by
  simp [writeEntry]
@[simp] theorem writeEntry_line (x : LaneChange) (s : State) : (writeEntry x s).line = s.line := by
  simp [writeEntry]
@[simp] theorem writeEntry_cmd (x : LaneChange) (s : State) : (writeEntry x s).cmd = s.cmd := by
  simp [writeEntry]
@[simp] theorem writeEntry_params (x : LaneChange) (s : State) : (writeEntry x s).params = s.params := by
  simp [writeEntry]
@[simp] theorem writeEntry_tracks (x : LaneChange) (s : State) : (writeEntry x s).tracks = s.tracks := by
  simp [writeEntry]
@[simp] theorem writeEntry_rings (x : LaneChange) (s : State) : (writeEntry x s).rings = s.rings := by
  simp [writeEntry]
@[simp] theorem writeEntry_banks (x : LaneChange) (s : State) : (writeEntry x s).banks = s.banks := by
  simp [writeEntry]
@[simp] theorem writeEntry_scan (x : LaneChange) (s : State) : (writeEntry x s).scan = s.scan := by
  simp [writeEntry]
@[simp] theorem writeEntry_det (x : LaneChange) (s : State) : (writeEntry x s).det = s.det := by
  simp [writeEntry]
@[simp] theorem writeEntry_queue (x : LaneChange) (s : State) : (writeEntry x s).queue = s.queue := by
  simp [writeEntry]
@[simp] theorem writeEntry_store (x : LaneChange) (s : State) : (writeEntry x s).store = s.store := by
  simp [writeEntry]
@[simp] theorem writeEntry_capture (x : LaneChange) (s : State) : (writeEntry x s).capture = s.capture := by
  simp [writeEntry]
@[simp] theorem writeEntry_notice (x : LaneChange) (s : State) : (writeEntry x s).notice = s.notice := by
  simp [writeEntry]

/-! `setLane` changes at most: line, cmd, tracker, tracks, rings, scan, det, queue, store, capture, notice. -/
@[simp] theorem setLane_pending (c : Held) (s : State) : (setLane c s).pending = s.pending := by
  unfold setLane; (try dsimp only); (repeat' split) <;> simp
@[simp] theorem setLane_resetHeld (c : Held) (s : State) : (setLane c s).resetHeld = s.resetHeld := by
  unfold setLane; (try dsimp only); (repeat' split) <;> simp
@[simp] theorem setLane_now (c : Held) (s : State) : (setLane c s).now = s.now := by
  unfold setLane; (try dsimp only); (repeat' split) <;> simp
@[simp] theorem setLane_params (c : Held) (s : State) : (setLane c s).params = s.params := by
  unfold setLane; (try dsimp only); (repeat' split) <;> simp
@[simp] theorem setLane_banks (c : Held) (s : State) : (setLane c s).banks = s.banks := by
  unfold setLane; (try dsimp only); (repeat' split) <;> simp

/-! `readLane` changes at most: line, cmd, tracker. -/
@[simp] theorem readLane_pending (c : Held) (s : State) : (readLane c s).pending = s.pending := by
  unfold readLane; (try dsimp only); (repeat' split) <;> simp
@[simp] theorem readLane_resetHeld (c : Held) (s : State) : (readLane c s).resetHeld = s.resetHeld := by
  unfold readLane; (try dsimp only); (repeat' split) <;> simp
@[simp] theorem readLane_now (c : Held) (s : State) : (readLane c s).now = s.now := by
  unfold readLane; (try dsimp only); (repeat' split) <;> simp
@[simp] theorem readLane_params (c : Held) (s : State) : (readLane c s).params = s.params := by
  unfold readLane; (try dsimp only); (repeat' split) <;> simp
@[simp] theorem readLane_tracks (c : Held) (s : State) : (readLane c s).tracks = s.tracks := by
  unfold readLane; (try dsimp only); (repeat' split) <;> simp
@[simp] theorem readLane_rings (c : Held) (s : State) : (readLane c s).rings = s.rings := by
  unfold readLane; (try dsimp only); (repeat' split) <;> simp
@[simp] theorem readLane_banks (c : Held) (s : State) : (readLane c s).banks = s.banks := by
  unfold readLane; (try dsimp only); (repeat' split) <;> simp
@[simp] theorem readLane_scan (c : Held) (s : State) : (readLane c s).scan = s.scan := by
  unfold readLane; (try dsimp only); (repeat' split) <;> simp
@[simp] theorem readLane_det (c : Held) (s : State) : (readLane c s).det = s.det := by
  unfold readLane; (try dsimp only); (repeat' split) <;> simp
@[simp] theorem readLane_queue (c : Held) (s : State) : (readLane c s).queue = s.queue := by
  unfold readLane; (try dsimp only); (repeat' split) <;> simp
@[simp] theorem readLane_store (c : Held) (s : State) : (readLane c s).store = s.store := by
  unfold readLane; (try dsimp only); (repeat' split) <;> simp
@[simp] theorem readLane_capture (c : Held) (s : State) : (readLane c s).capture = s.capture := by
  unfold readLane; (try dsimp only); (repeat' split) <;> simp
@[simp] theorem readLane_notice (c : Held) (s : State) : (readLane c s).notice = s.notice := by
  unfold readLane; (try dsimp only); (repeat' split) <;> simp

/-! `clearMarks` changes at most: tracker. -/
@[simp] theorem clearMarks_pending (es : List (Nat × Lane)) (s : State) : (clearMarks es s).pending = s.pending := by
  unfold clearMarks
  induction es generalizing s with
  | nil => rfl
  | cons e es ih => simp [List.foldl_cons, ih]
@[simp] theorem clearMarks_resetHeld (es : List (Nat × Lane)) (s : State) : (clearMarks es s).resetHeld = s.resetHeld := by
  unfold clearMarks
  induction es generalizing s with
  | nil => rfl
  | cons e es ih => simp [List.foldl_cons, ih]
@[simp] theorem clearMarks_now (es : List (Nat × Lane)) (s : State) : (clearMarks es s).now = s.now := by
  unfold clearMarks
  induction es generalizing s with
  | nil => rfl
  | cons e es ih => simp [List.foldl_cons, ih]
@[simp] theorem clearMarks_line (es : List (Nat × Lane)) (s : State) : (clearMarks es s).line = s.line := by
  unfold clearMarks
  induction es generalizing s with
  | nil => rfl
  | cons e es ih => simp [List.foldl_cons, ih]
@[simp] theorem clearMarks_cmd (es : List (Nat × Lane)) (s : State) : (clearMarks es s).cmd = s.cmd := by
  unfold clearMarks
  induction es generalizing s with
  | nil => rfl
  | cons e es ih => simp [List.foldl_cons, ih]
@[simp] theorem clearMarks_params (es : List (Nat × Lane)) (s : State) : (clearMarks es s).params = s.params := by
  unfold clearMarks
  induction es generalizing s with
  | nil => rfl
  | cons e es ih => simp [List.foldl_cons, ih]
@[simp] theorem clearMarks_tracks (es : List (Nat × Lane)) (s : State) : (clearMarks es s).tracks = s.tracks := by
  unfold clearMarks
  induction es generalizing s with
  | nil => rfl
  | cons e es ih => simp [List.foldl_cons, ih]
@[simp] theorem clearMarks_rings (es : List (Nat × Lane)) (s : State) : (clearMarks es s).rings = s.rings := by
  unfold clearMarks
  induction es generalizing s with
  | nil => rfl
  | cons e es ih => simp [List.foldl_cons, ih]
@[simp] theorem clearMarks_banks (es : List (Nat × Lane)) (s : State) : (clearMarks es s).banks = s.banks := by
  unfold clearMarks
  induction es generalizing s with
  | nil => rfl
  | cons e es ih => simp [List.foldl_cons, ih]
@[simp] theorem clearMarks_scan (es : List (Nat × Lane)) (s : State) : (clearMarks es s).scan = s.scan := by
  unfold clearMarks
  induction es generalizing s with
  | nil => rfl
  | cons e es ih => simp [List.foldl_cons, ih]
@[simp] theorem clearMarks_det (es : List (Nat × Lane)) (s : State) : (clearMarks es s).det = s.det := by
  unfold clearMarks
  induction es generalizing s with
  | nil => rfl
  | cons e es ih => simp [List.foldl_cons, ih]
@[simp] theorem clearMarks_queue (es : List (Nat × Lane)) (s : State) : (clearMarks es s).queue = s.queue := by
  unfold clearMarks
  induction es generalizing s with
  | nil => rfl
  | cons e es ih => simp [List.foldl_cons, ih]
@[simp] theorem clearMarks_store (es : List (Nat × Lane)) (s : State) : (clearMarks es s).store = s.store := by
  unfold clearMarks
  induction es generalizing s with
  | nil => rfl
  | cons e es ih => simp [List.foldl_cons, ih]
@[simp] theorem clearMarks_capture (es : List (Nat × Lane)) (s : State) : (clearMarks es s).capture = s.capture := by
  unfold clearMarks
  induction es generalizing s with
  | nil => rfl
  | cons e es ih => simp [List.foldl_cons, ih]
@[simp] theorem clearMarks_notice (es : List (Nat × Lane)) (s : State) : (clearMarks es s).notice = s.notice := by
  unfold clearMarks
  induction es generalizing s with
  | nil => rfl
  | cons e es ih => simp [List.foldl_cons, ih]

/-! `readLaneChanges` changes at most: line, cmd, tracker. -/
@[simp] theorem readLaneChanges_pending (c : Held) (s : State) : (readLaneChanges c s).pending = s.pending := by
  unfold readLaneChanges; (try dsimp only); (repeat' split) <;> simp
@[simp] theorem readLaneChanges_resetHeld (c : Held) (s : State) : (readLaneChanges c s).resetHeld = s.resetHeld := by
  unfold readLaneChanges; (try dsimp only); (repeat' split) <;> simp
@[simp] theorem readLaneChanges_now (c : Held) (s : State) : (readLaneChanges c s).now = s.now := by
  unfold readLaneChanges; (try dsimp only); (repeat' split) <;> simp
@[simp] theorem readLaneChanges_params (c : Held) (s : State) : (readLaneChanges c s).params = s.params := by
  unfold readLaneChanges; (try dsimp only); (repeat' split) <;> simp
@[simp] theorem readLaneChanges_tracks (c : Held) (s : State) : (readLaneChanges c s).tracks = s.tracks := by
  unfold readLaneChanges; (try dsimp only); (repeat' split) <;> simp
@[simp] theorem readLaneChanges_rings (c : Held) (s : State) : (readLaneChanges c s).rings = s.rings := by
  unfold readLaneChanges; (try dsimp only); (repeat' split) <;> simp
@[simp] theorem readLaneChanges_banks (c : Held) (s : State) : (readLaneChanges c s).banks = s.banks := by
  unfold readLaneChanges; (try dsimp only); (repeat' split) <;> simp
@[simp] theorem readLaneChanges_scan (c : Held) (s : State) : (readLaneChanges c s).scan = s.scan := by
  unfold readLaneChanges; (try dsimp only); (repeat' split) <;> simp
@[simp] theorem readLaneChanges_det (c : Held) (s : State) : (readLaneChanges c s).det = s.det := by
  unfold readLaneChanges; (try dsimp only); (repeat' split) <;> simp
@[simp] theorem readLaneChanges_queue (c : Held) (s : State) : (readLaneChanges c s).queue = s.queue := by
  unfold readLaneChanges; (try dsimp only); (repeat' split) <;> simp
@[simp] theorem readLaneChanges_store (c : Held) (s : State) : (readLaneChanges c s).store = s.store := by
  unfold readLaneChanges; (try dsimp only); (repeat' split) <;> simp
@[simp] theorem readLaneChanges_capture (c : Held) (s : State) : (readLaneChanges c s).capture = s.capture := by
  unfold readLaneChanges; (try dsimp only); (repeat' split) <;> simp
@[simp] theorem readLaneChanges_notice (c : Held) (s : State) : (readLaneChanges c s).notice = s.notice := by
  unfold readLaneChanges; (try dsimp only); (repeat' split) <;> simp

/-! `beginBankLoad` changes at most: line, cmd, banks. -/
@[simp] theorem beginBankLoad_pending (c : Held) (s : State) : (beginBankLoad c s).pending = s.pending := by
  unfold beginBankLoad withBank; (try dsimp only); (repeat' split) <;> simp
@[simp] theorem beginBankLoad_resetHeld (c : Held) (s : State) : (beginBankLoad c s).resetHeld = s.resetHeld := by
  unfold beginBankLoad withBank; (try dsimp only); (repeat' split) <;> simp
@[simp] theorem beginBankLoad_now (c : Held) (s : State) : (beginBankLoad c s).now = s.now := by
  unfold beginBankLoad withBank; (try dsimp only); (repeat' split) <;> simp
@[simp] theorem beginBankLoad_params (c : Held) (s : State) : (beginBankLoad c s).params = s.params := by
  unfold beginBankLoad withBank; (try dsimp only); (repeat' split) <;> simp
@[simp] theorem beginBankLoad_tracker (c : Held) (s : State) : (beginBankLoad c s).tracker = s.tracker := by
  unfold beginBankLoad withBank; (try dsimp only); (repeat' split) <;> simp
@[simp] theorem beginBankLoad_tracks (c : Held) (s : State) : (beginBankLoad c s).tracks = s.tracks := by
  unfold beginBankLoad withBank; (try dsimp only); (repeat' split) <;> simp
@[simp] theorem beginBankLoad_rings (c : Held) (s : State) : (beginBankLoad c s).rings = s.rings := by
  unfold beginBankLoad withBank; (try dsimp only); (repeat' split) <;> simp
@[simp] theorem beginBankLoad_scan (c : Held) (s : State) : (beginBankLoad c s).scan = s.scan := by
  unfold beginBankLoad withBank; (try dsimp only); (repeat' split) <;> simp
@[simp] theorem beginBankLoad_det (c : Held) (s : State) : (beginBankLoad c s).det = s.det := by
  unfold beginBankLoad withBank; (try dsimp only); (repeat' split) <;> simp
@[simp] theorem beginBankLoad_queue (c : Held) (s : State) : (beginBankLoad c s).queue = s.queue := by
  unfold beginBankLoad withBank; (try dsimp only); (repeat' split) <;> simp
@[simp] theorem beginBankLoad_store (c : Held) (s : State) : (beginBankLoad c s).store = s.store := by
  unfold beginBankLoad withBank; (try dsimp only); (repeat' split) <;> simp
@[simp] theorem beginBankLoad_capture (c : Held) (s : State) : (beginBankLoad c s).capture = s.capture := by
  unfold beginBankLoad withBank; (try dsimp only); (repeat' split) <;> simp
@[simp] theorem beginBankLoad_notice (c : Held) (s : State) : (beginBankLoad c s).notice = s.notice := by
  unfold beginBankLoad withBank; (try dsimp only); (repeat' split) <;> simp

/-! `loadRows` changes at most: line, cmd, banks. -/
@[simp] theorem loadRows_pending (c : Held) (s : State) : (loadRows c s).pending = s.pending := by
  unfold loadRows withBank; (try dsimp only); (repeat' split) <;> simp
@[simp] theorem loadRows_resetHeld (c : Held) (s : State) : (loadRows c s).resetHeld = s.resetHeld := by
  unfold loadRows withBank; (try dsimp only); (repeat' split) <;> simp
@[simp] theorem loadRows_now (c : Held) (s : State) : (loadRows c s).now = s.now := by
  unfold loadRows withBank; (try dsimp only); (repeat' split) <;> simp
@[simp] theorem loadRows_params (c : Held) (s : State) : (loadRows c s).params = s.params := by
  unfold loadRows withBank; (try dsimp only); (repeat' split) <;> simp
@[simp] theorem loadRows_tracker (c : Held) (s : State) : (loadRows c s).tracker = s.tracker := by
  unfold loadRows withBank; (try dsimp only); (repeat' split) <;> simp
@[simp] theorem loadRows_tracks (c : Held) (s : State) : (loadRows c s).tracks = s.tracks := by
  unfold loadRows withBank; (try dsimp only); (repeat' split) <;> simp
@[simp] theorem loadRows_rings (c : Held) (s : State) : (loadRows c s).rings = s.rings := by
  unfold loadRows withBank; (try dsimp only); (repeat' split) <;> simp
@[simp] theorem loadRows_scan (c : Held) (s : State) : (loadRows c s).scan = s.scan := by
  unfold loadRows withBank; (try dsimp only); (repeat' split) <;> simp
@[simp] theorem loadRows_det (c : Held) (s : State) : (loadRows c s).det = s.det := by
  unfold loadRows withBank; (try dsimp only); (repeat' split) <;> simp
@[simp] theorem loadRows_queue (c : Held) (s : State) : (loadRows c s).queue = s.queue := by
  unfold loadRows withBank; (try dsimp only); (repeat' split) <;> simp
@[simp] theorem loadRows_store (c : Held) (s : State) : (loadRows c s).store = s.store := by
  unfold loadRows withBank; (try dsimp only); (repeat' split) <;> simp
@[simp] theorem loadRows_capture (c : Held) (s : State) : (loadRows c s).capture = s.capture := by
  unfold loadRows withBank; (try dsimp only); (repeat' split) <;> simp
@[simp] theorem loadRows_notice (c : Held) (s : State) : (loadRows c s).notice = s.notice := by
  unfold loadRows withBank; (try dsimp only); (repeat' split) <;> simp

/-! `endBankLoad` changes at most: line, cmd. -/
@[simp] theorem endBankLoad_pending (c : Held) (s : State) : (endBankLoad c s).pending = s.pending := by
  unfold endBankLoad withBank; (try dsimp only); (repeat' split) <;> simp
@[simp] theorem endBankLoad_resetHeld (c : Held) (s : State) : (endBankLoad c s).resetHeld = s.resetHeld := by
  unfold endBankLoad withBank; (try dsimp only); (repeat' split) <;> simp
@[simp] theorem endBankLoad_now (c : Held) (s : State) : (endBankLoad c s).now = s.now := by
  unfold endBankLoad withBank; (try dsimp only); (repeat' split) <;> simp
@[simp] theorem endBankLoad_params (c : Held) (s : State) : (endBankLoad c s).params = s.params := by
  unfold endBankLoad withBank; (try dsimp only); (repeat' split) <;> simp
@[simp] theorem endBankLoad_tracker (c : Held) (s : State) : (endBankLoad c s).tracker = s.tracker := by
  unfold endBankLoad withBank; (try dsimp only); (repeat' split) <;> simp
@[simp] theorem endBankLoad_tracks (c : Held) (s : State) : (endBankLoad c s).tracks = s.tracks := by
  unfold endBankLoad withBank; (try dsimp only); (repeat' split) <;> simp
@[simp] theorem endBankLoad_rings (c : Held) (s : State) : (endBankLoad c s).rings = s.rings := by
  unfold endBankLoad withBank; (try dsimp only); (repeat' split) <;> simp
@[simp] theorem endBankLoad_banks (c : Held) (s : State) : (endBankLoad c s).banks = s.banks := by
  unfold endBankLoad withBank; (try dsimp only); (repeat' split) <;> simp
@[simp] theorem endBankLoad_scan (c : Held) (s : State) : (endBankLoad c s).scan = s.scan := by
  unfold endBankLoad withBank; (try dsimp only); (repeat' split) <;> simp
@[simp] theorem endBankLoad_det (c : Held) (s : State) : (endBankLoad c s).det = s.det := by
  unfold endBankLoad withBank; (try dsimp only); (repeat' split) <;> simp
@[simp] theorem endBankLoad_queue (c : Held) (s : State) : (endBankLoad c s).queue = s.queue := by
  unfold endBankLoad withBank; (try dsimp only); (repeat' split) <;> simp
@[simp] theorem endBankLoad_store (c : Held) (s : State) : (endBankLoad c s).store = s.store := by
  unfold endBankLoad withBank; (try dsimp only); (repeat' split) <;> simp
@[simp] theorem endBankLoad_capture (c : Held) (s : State) : (endBankLoad c s).capture = s.capture := by
  unfold endBankLoad withBank; (try dsimp only); (repeat' split) <;> simp
@[simp] theorem endBankLoad_notice (c : Held) (s : State) : (endBankLoad c s).notice = s.notice := by
  unfold endBankLoad withBank; (try dsimp only); (repeat' split) <;> simp

/-! `switchBank` changes at most: line, cmd, banks. -/
@[simp] theorem switchBank_pending (c : Held) (s : State) : (switchBank c s).pending = s.pending := by
  unfold switchBank withBank switchAtOnce switchPending; (try dsimp only); (repeat' split) <;> simp
@[simp] theorem switchBank_resetHeld (c : Held) (s : State) : (switchBank c s).resetHeld = s.resetHeld := by
  unfold switchBank withBank switchAtOnce switchPending; (try dsimp only); (repeat' split) <;> simp
@[simp] theorem switchBank_now (c : Held) (s : State) : (switchBank c s).now = s.now := by
  unfold switchBank withBank switchAtOnce switchPending; (try dsimp only); (repeat' split) <;> simp
@[simp] theorem switchBank_params (c : Held) (s : State) : (switchBank c s).params = s.params := by
  unfold switchBank withBank switchAtOnce switchPending; (try dsimp only); (repeat' split) <;> simp
@[simp] theorem switchBank_tracker (c : Held) (s : State) : (switchBank c s).tracker = s.tracker := by
  unfold switchBank withBank switchAtOnce switchPending; (try dsimp only); (repeat' split) <;> simp
@[simp] theorem switchBank_tracks (c : Held) (s : State) : (switchBank c s).tracks = s.tracks := by
  unfold switchBank withBank switchAtOnce switchPending; (try dsimp only); (repeat' split) <;> simp
@[simp] theorem switchBank_rings (c : Held) (s : State) : (switchBank c s).rings = s.rings := by
  unfold switchBank withBank switchAtOnce switchPending; (try dsimp only); (repeat' split) <;> simp
@[simp] theorem switchBank_scan (c : Held) (s : State) : (switchBank c s).scan = s.scan := by
  unfold switchBank withBank switchAtOnce switchPending; (try dsimp only); (repeat' split) <;> simp
@[simp] theorem switchBank_det (c : Held) (s : State) : (switchBank c s).det = s.det := by
  unfold switchBank withBank switchAtOnce switchPending; (try dsimp only); (repeat' split) <;> simp
@[simp] theorem switchBank_queue (c : Held) (s : State) : (switchBank c s).queue = s.queue := by
  unfold switchBank withBank switchAtOnce switchPending; (try dsimp only); (repeat' split) <;> simp
@[simp] theorem switchBank_store (c : Held) (s : State) : (switchBank c s).store = s.store := by
  unfold switchBank withBank switchAtOnce switchPending; (try dsimp only); (repeat' split) <;> simp
@[simp] theorem switchBank_capture (c : Held) (s : State) : (switchBank c s).capture = s.capture := by
  unfold switchBank withBank switchAtOnce switchPending; (try dsimp only); (repeat' split) <;> simp
@[simp] theorem switchBank_notice (c : Held) (s : State) : (switchBank c s).notice = s.notice := by
  unfold switchBank withBank switchAtOnce switchPending; (try dsimp only); (repeat' split) <;> simp

/-! `readBank` changes at most: line, cmd. -/
@[simp] theorem readBank_pending (c : Held) (s : State) : (readBank c s).pending = s.pending := by
  unfold readBank withBank; (try dsimp only); (repeat' split) <;> simp
@[simp] theorem readBank_resetHeld (c : Held) (s : State) : (readBank c s).resetHeld = s.resetHeld := by
  unfold readBank withBank; (try dsimp only); (repeat' split) <;> simp
@[simp] theorem readBank_now (c : Held) (s : State) : (readBank c s).now = s.now := by
  unfold readBank withBank; (try dsimp only); (repeat' split) <;> simp
@[simp] theorem readBank_params (c : Held) (s : State) : (readBank c s).params = s.params := by
  unfold readBank withBank; (try dsimp only); (repeat' split) <;> simp
@[simp] theorem readBank_tracker (c : Held) (s : State) : (readBank c s).tracker = s.tracker := by
  unfold readBank withBank; (try dsimp only); (repeat' split) <;> simp
@[simp] theorem readBank_tracks (c : Held) (s : State) : (readBank c s).tracks = s.tracks := by
  unfold readBank withBank; (try dsimp only); (repeat' split) <;> simp
@[simp] theorem readBank_rings (c : Held) (s : State) : (readBank c s).rings = s.rings := by
  unfold readBank withBank; (try dsimp only); (repeat' split) <;> simp
@[simp] theorem readBank_banks (c : Held) (s : State) : (readBank c s).banks = s.banks := by
  unfold readBank withBank; (try dsimp only); (repeat' split) <;> simp
@[simp] theorem readBank_scan (c : Held) (s : State) : (readBank c s).scan = s.scan := by
  unfold readBank withBank; (try dsimp only); (repeat' split) <;> simp
@[simp] theorem readBank_det (c : Held) (s : State) : (readBank c s).det = s.det := by
  unfold readBank withBank; (try dsimp only); (repeat' split) <;> simp
@[simp] theorem readBank_queue (c : Held) (s : State) : (readBank c s).queue = s.queue := by
  unfold readBank withBank; (try dsimp only); (repeat' split) <;> simp
@[simp] theorem readBank_store (c : Held) (s : State) : (readBank c s).store = s.store := by
  unfold readBank withBank; (try dsimp only); (repeat' split) <;> simp
@[simp] theorem readBank_capture (c : Held) (s : State) : (readBank c s).capture = s.capture := by
  unfold readBank withBank; (try dsimp only); (repeat' split) <;> simp
@[simp] theorem readBank_notice (c : Held) (s : State) : (readBank c s).notice = s.notice := by
  unfold readBank withBank; (try dsimp only); (repeat' split) <;> simp

/-! `readRow` changes at most: line, cmd. -/
@[simp] theorem readRow_pending (c : Held) (s : State) : (readRow c s).pending = s.pending := by
  unfold readRow withBank; (try dsimp only); (repeat' split) <;> simp
@[simp] theorem readRow_resetHeld (c : Held) (s : State) : (readRow c s).resetHeld = s.resetHeld := by
  unfold readRow withBank; (try dsimp only); (repeat' split) <;> simp
@[simp] theorem readRow_now (c : Held) (s : State) : (readRow c s).now = s.now := by
  unfold readRow withBank; (try dsimp only); (repeat' split) <;> simp
@[simp] theorem readRow_params (c : Held) (s : State) : (readRow c s).params = s.params := by
  unfold readRow withBank; (try dsimp only); (repeat' split) <;> simp
@[simp] theorem readRow_tracker (c : Held) (s : State) : (readRow c s).tracker = s.tracker := by
  unfold readRow withBank; (try dsimp only); (repeat' split) <;> simp
@[simp] theorem readRow_tracks (c : Held) (s : State) : (readRow c s).tracks = s.tracks := by
  unfold readRow withBank; (try dsimp only); (repeat' split) <;> simp
@[simp] theorem readRow_rings (c : Held) (s : State) : (readRow c s).rings = s.rings := by
  unfold readRow withBank; (try dsimp only); (repeat' split) <;> simp
@[simp] theorem readRow_banks (c : Held) (s : State) : (readRow c s).banks = s.banks := by
  unfold readRow withBank; (try dsimp only); (repeat' split) <;> simp
@[simp] theorem readRow_scan (c : Held) (s : State) : (readRow c s).scan = s.scan := by
  unfold readRow withBank; (try dsimp only); (repeat' split) <;> simp
@[simp] theorem readRow_det (c : Held) (s : State) : (readRow c s).det = s.det := by
  unfold readRow withBank; (try dsimp only); (repeat' split) <;> simp
@[simp] theorem readRow_queue (c : Held) (s : State) : (readRow c s).queue = s.queue := by
  unfold readRow withBank; (try dsimp only); (repeat' split) <;> simp
@[simp] theorem readRow_store (c : Held) (s : State) : (readRow c s).store = s.store := by
  unfold readRow withBank; (try dsimp only); (repeat' split) <;> simp
@[simp] theorem readRow_capture (c : Held) (s : State) : (readRow c s).capture = s.capture := by
  unfold readRow withBank; (try dsimp only); (repeat' split) <;> simp
@[simp] theorem readRow_notice (c : Held) (s : State) : (readRow c s).notice = s.notice := by
  unfold readRow withBank; (try dsimp only); (repeat' split) <;> simp

/-! `startScan` changes at most: line, cmd, scan, det, queue, notice. -/
@[simp] theorem startScan_pending (c : Held) (s : State) : (startScan c s).pending = s.pending := by
  unfold startScan; (try dsimp only); (repeat' split) <;> simp
@[simp] theorem startScan_resetHeld (c : Held) (s : State) : (startScan c s).resetHeld = s.resetHeld := by
  unfold startScan; (try dsimp only); (repeat' split) <;> simp
@[simp] theorem startScan_now (c : Held) (s : State) : (startScan c s).now = s.now := by
  unfold startScan; (try dsimp only); (repeat' split) <;> simp
@[simp] theorem startScan_params (c : Held) (s : State) : (startScan c s).params = s.params := by
  unfold startScan; (try dsimp only); (repeat' split) <;> simp
@[simp] theorem startScan_tracker (c : Held) (s : State) : (startScan c s).tracker = s.tracker := by
  unfold startScan; (try dsimp only); (repeat' split) <;> simp
@[simp] theorem startScan_tracks (c : Held) (s : State) : (startScan c s).tracks = s.tracks := by
  unfold startScan; (try dsimp only); (repeat' split) <;> simp
@[simp] theorem startScan_rings (c : Held) (s : State) : (startScan c s).rings = s.rings := by
  unfold startScan; (try dsimp only); (repeat' split) <;> simp
@[simp] theorem startScan_banks (c : Held) (s : State) : (startScan c s).banks = s.banks := by
  unfold startScan; (try dsimp only); (repeat' split) <;> simp
@[simp] theorem startScan_store (c : Held) (s : State) : (startScan c s).store = s.store := by
  unfold startScan; (try dsimp only); (repeat' split) <;> simp
@[simp] theorem startScan_capture (c : Held) (s : State) : (startScan c s).capture = s.capture := by
  unfold startScan; (try dsimp only); (repeat' split) <;> simp

/-! `haltScan` changes at most: line, cmd, scan. -/
@[simp] theorem haltScan_pending (c : Held) (s : State) : (haltScan c s).pending = s.pending := by
  unfold haltScan; (try dsimp only); (repeat' split) <;> simp
@[simp] theorem haltScan_resetHeld (c : Held) (s : State) : (haltScan c s).resetHeld = s.resetHeld := by
  unfold haltScan; (try dsimp only); (repeat' split) <;> simp
@[simp] theorem haltScan_now (c : Held) (s : State) : (haltScan c s).now = s.now := by
  unfold haltScan; (try dsimp only); (repeat' split) <;> simp
@[simp] theorem haltScan_params (c : Held) (s : State) : (haltScan c s).params = s.params := by
  unfold haltScan; (try dsimp only); (repeat' split) <;> simp
@[simp] theorem haltScan_tracker (c : Held) (s : State) : (haltScan c s).tracker = s.tracker := by
  unfold haltScan; (try dsimp only); (repeat' split) <;> simp
@[simp] theorem haltScan_tracks (c : Held) (s : State) : (haltScan c s).tracks = s.tracks := by
  unfold haltScan; (try dsimp only); (repeat' split) <;> simp
@[simp] theorem haltScan_rings (c : Held) (s : State) : (haltScan c s).rings = s.rings := by
  unfold haltScan; (try dsimp only); (repeat' split) <;> simp
@[simp] theorem haltScan_banks (c : Held) (s : State) : (haltScan c s).banks = s.banks := by
  unfold haltScan; (try dsimp only); (repeat' split) <;> simp
@[simp] theorem haltScan_det (c : Held) (s : State) : (haltScan c s).det = s.det := by
  unfold haltScan; (try dsimp only); (repeat' split) <;> simp
@[simp] theorem haltScan_queue (c : Held) (s : State) : (haltScan c s).queue = s.queue := by
  unfold haltScan; (try dsimp only); (repeat' split) <;> simp
@[simp] theorem haltScan_store (c : Held) (s : State) : (haltScan c s).store = s.store := by
  unfold haltScan; (try dsimp only); (repeat' split) <;> simp
@[simp] theorem haltScan_capture (c : Held) (s : State) : (haltScan c s).capture = s.capture := by
  unfold haltScan; (try dsimp only); (repeat' split) <;> simp
@[simp] theorem haltScan_notice (c : Held) (s : State) : (haltScan c s).notice = s.notice := by
  unfold haltScan; (try dsimp only); (repeat' split) <;> simp

/-! `clearScan` changes at most: line, cmd, banks, scan, det, notice. -/
@[simp] theorem clearScan_pending (c : Held) (s : State) : (clearScan c s).pending = s.pending := by
  unfold clearScan; (try dsimp only); (repeat' split) <;> simp
@[simp] theorem clearScan_resetHeld (c : Held) (s : State) : (clearScan c s).resetHeld = s.resetHeld := by
  unfold clearScan; (try dsimp only); (repeat' split) <;> simp
@[simp] theorem clearScan_now (c : Held) (s : State) : (clearScan c s).now = s.now := by
  unfold clearScan; (try dsimp only); (repeat' split) <;> simp
@[simp] theorem clearScan_params (c : Held) (s : State) : (clearScan c s).params = s.params := by
  unfold clearScan; (try dsimp only); (repeat' split) <;> simp
@[simp] theorem clearScan_tracker (c : Held) (s : State) : (clearScan c s).tracker = s.tracker := by
  unfold clearScan; (try dsimp only); (repeat' split) <;> simp
@[simp] theorem clearScan_tracks (c : Held) (s : State) : (clearScan c s).tracks = s.tracks := by
  unfold clearScan; (try dsimp only); (repeat' split) <;> simp
@[simp] theorem clearScan_rings (c : Held) (s : State) : (clearScan c s).rings = s.rings := by
  unfold clearScan; (try dsimp only); (repeat' split) <;> simp
@[simp] theorem clearScan_queue (c : Held) (s : State) : (clearScan c s).queue = s.queue := by
  unfold clearScan; (try dsimp only); (repeat' split) <;> simp
@[simp] theorem clearScan_store (c : Held) (s : State) : (clearScan c s).store = s.store := by
  unfold clearScan; (try dsimp only); (repeat' split) <;> simp
@[simp] theorem clearScan_capture (c : Held) (s : State) : (clearScan c s).capture = s.capture := by
  unfold clearScan; (try dsimp only); (repeat' split) <;> simp

/-! `readScan` changes at most: line, cmd, scan. -/
@[simp] theorem readScan_pending (c : Held) (s : State) : (readScan c s).pending = s.pending := by
  unfold readScan; (try dsimp only); (repeat' split) <;> simp
@[simp] theorem readScan_resetHeld (c : Held) (s : State) : (readScan c s).resetHeld = s.resetHeld := by
  unfold readScan; (try dsimp only); (repeat' split) <;> simp
@[simp] theorem readScan_now (c : Held) (s : State) : (readScan c s).now = s.now := by
  unfold readScan; (try dsimp only); (repeat' split) <;> simp
@[simp] theorem readScan_params (c : Held) (s : State) : (readScan c s).params = s.params := by
  unfold readScan; (try dsimp only); (repeat' split) <;> simp
@[simp] theorem readScan_tracker (c : Held) (s : State) : (readScan c s).tracker = s.tracker := by
  unfold readScan; (try dsimp only); (repeat' split) <;> simp
@[simp] theorem readScan_tracks (c : Held) (s : State) : (readScan c s).tracks = s.tracks := by
  unfold readScan; (try dsimp only); (repeat' split) <;> simp
@[simp] theorem readScan_rings (c : Held) (s : State) : (readScan c s).rings = s.rings := by
  unfold readScan; (try dsimp only); (repeat' split) <;> simp
@[simp] theorem readScan_banks (c : Held) (s : State) : (readScan c s).banks = s.banks := by
  unfold readScan; (try dsimp only); (repeat' split) <;> simp
@[simp] theorem readScan_det (c : Held) (s : State) : (readScan c s).det = s.det := by
  unfold readScan; (try dsimp only); (repeat' split) <;> simp
@[simp] theorem readScan_queue (c : Held) (s : State) : (readScan c s).queue = s.queue := by
  unfold readScan; (try dsimp only); (repeat' split) <;> simp
@[simp] theorem readScan_store (c : Held) (s : State) : (readScan c s).store = s.store := by
  unfold readScan; (try dsimp only); (repeat' split) <;> simp
@[simp] theorem readScan_capture (c : Held) (s : State) : (readScan c s).capture = s.capture := by
  unfold readScan; (try dsimp only); (repeat' split) <;> simp
@[simp] theorem readScan_notice (c : Held) (s : State) : (readScan c s).notice = s.notice := by
  unfold readScan; (try dsimp only); (repeat' split) <;> simp

/-! `readDetector` changes at most: line, cmd, det. -/
@[simp] theorem readDetector_pending (c : Held) (s : State) : (readDetector c s).pending = s.pending := by
  unfold readDetector; (try dsimp only); (repeat' split) <;> simp
@[simp] theorem readDetector_resetHeld (c : Held) (s : State) : (readDetector c s).resetHeld = s.resetHeld := by
  unfold readDetector; (try dsimp only); (repeat' split) <;> simp
@[simp] theorem readDetector_now (c : Held) (s : State) : (readDetector c s).now = s.now := by
  unfold readDetector; (try dsimp only); (repeat' split) <;> simp
@[simp] theorem readDetector_params (c : Held) (s : State) : (readDetector c s).params = s.params := by
  unfold readDetector; (try dsimp only); (repeat' split) <;> simp
@[simp] theorem readDetector_tracker (c : Held) (s : State) : (readDetector c s).tracker = s.tracker := by
  unfold readDetector; (try dsimp only); (repeat' split) <;> simp
@[simp] theorem readDetector_tracks (c : Held) (s : State) : (readDetector c s).tracks = s.tracks := by
  unfold readDetector; (try dsimp only); (repeat' split) <;> simp
@[simp] theorem readDetector_rings (c : Held) (s : State) : (readDetector c s).rings = s.rings := by
  unfold readDetector; (try dsimp only); (repeat' split) <;> simp
@[simp] theorem readDetector_banks (c : Held) (s : State) : (readDetector c s).banks = s.banks := by
  unfold readDetector; (try dsimp only); (repeat' split) <;> simp
@[simp] theorem readDetector_scan (c : Held) (s : State) : (readDetector c s).scan = s.scan := by
  unfold readDetector; (try dsimp only); (repeat' split) <;> simp
@[simp] theorem readDetector_queue (c : Held) (s : State) : (readDetector c s).queue = s.queue := by
  unfold readDetector; (try dsimp only); (repeat' split) <;> simp
@[simp] theorem readDetector_store (c : Held) (s : State) : (readDetector c s).store = s.store := by
  unfold readDetector; (try dsimp only); (repeat' split) <;> simp
@[simp] theorem readDetector_capture (c : Held) (s : State) : (readDetector c s).capture = s.capture := by
  unfold readDetector; (try dsimp only); (repeat' split) <;> simp
@[simp] theorem readDetector_notice (c : Held) (s : State) : (readDetector c s).notice = s.notice := by
  unfold readDetector; (try dsimp only); (repeat' split) <;> simp

/-! `fetchEvent` changes at most: line, cmd. -/
@[simp] theorem fetchEvent_pending (c : Held) (s : State) : (fetchEvent c s).pending = s.pending := by
  unfold fetchEvent; (try dsimp only); (repeat' split) <;> simp
@[simp] theorem fetchEvent_resetHeld (c : Held) (s : State) : (fetchEvent c s).resetHeld = s.resetHeld := by
  unfold fetchEvent; (try dsimp only); (repeat' split) <;> simp
@[simp] theorem fetchEvent_now (c : Held) (s : State) : (fetchEvent c s).now = s.now := by
  unfold fetchEvent; (try dsimp only); (repeat' split) <;> simp
@[simp] theorem fetchEvent_params (c : Held) (s : State) : (fetchEvent c s).params = s.params := by
  unfold fetchEvent; (try dsimp only); (repeat' split) <;> simp
@[simp] theorem fetchEvent_tracker (c : Held) (s : State) : (fetchEvent c s).tracker = s.tracker := by
  unfold fetchEvent; (try dsimp only); (repeat' split) <;> simp
@[simp] theorem fetchEvent_tracks (c : Held) (s : State) : (fetchEvent c s).tracks = s.tracks := by
  unfold fetchEvent; (try dsimp only); (repeat' split) <;> simp
@[simp] theorem fetchEvent_rings (c : Held) (s : State) : (fetchEvent c s).rings = s.rings := by
  unfold fetchEvent; (try dsimp only); (repeat' split) <;> simp
@[simp] theorem fetchEvent_banks (c : Held) (s : State) : (fetchEvent c s).banks = s.banks := by
  unfold fetchEvent; (try dsimp only); (repeat' split) <;> simp
@[simp] theorem fetchEvent_scan (c : Held) (s : State) : (fetchEvent c s).scan = s.scan := by
  unfold fetchEvent; (try dsimp only); (repeat' split) <;> simp
@[simp] theorem fetchEvent_det (c : Held) (s : State) : (fetchEvent c s).det = s.det := by
  unfold fetchEvent; (try dsimp only); (repeat' split) <;> simp
@[simp] theorem fetchEvent_queue (c : Held) (s : State) : (fetchEvent c s).queue = s.queue := by
  unfold fetchEvent; (try dsimp only); (repeat' split) <;> simp
@[simp] theorem fetchEvent_store (c : Held) (s : State) : (fetchEvent c s).store = s.store := by
  unfold fetchEvent; (try dsimp only); (repeat' split) <;> simp
@[simp] theorem fetchEvent_capture (c : Held) (s : State) : (fetchEvent c s).capture = s.capture := by
  unfold fetchEvent; (try dsimp only); (repeat' split) <;> simp
@[simp] theorem fetchEvent_notice (c : Held) (s : State) : (fetchEvent c s).notice = s.notice := by
  unfold fetchEvent; (try dsimp only); (repeat' split) <;> simp

/-! `readSnippet` changes at most: line, cmd. -/
@[simp] theorem readSnippet_pending (c : Held) (s : State) : (readSnippet c s).pending = s.pending := by
  unfold readSnippet; (try dsimp only); (repeat' split) <;> simp
@[simp] theorem readSnippet_resetHeld (c : Held) (s : State) : (readSnippet c s).resetHeld = s.resetHeld := by
  unfold readSnippet; (try dsimp only); (repeat' split) <;> simp
@[simp] theorem readSnippet_now (c : Held) (s : State) : (readSnippet c s).now = s.now := by
  unfold readSnippet; (try dsimp only); (repeat' split) <;> simp
@[simp] theorem readSnippet_params (c : Held) (s : State) : (readSnippet c s).params = s.params := by
  unfold readSnippet; (try dsimp only); (repeat' split) <;> simp
@[simp] theorem readSnippet_tracker (c : Held) (s : State) : (readSnippet c s).tracker = s.tracker := by
  unfold readSnippet; (try dsimp only); (repeat' split) <;> simp
@[simp] theorem readSnippet_tracks (c : Held) (s : State) : (readSnippet c s).tracks = s.tracks := by
  unfold readSnippet; (try dsimp only); (repeat' split) <;> simp
@[simp] theorem readSnippet_rings (c : Held) (s : State) : (readSnippet c s).rings = s.rings := by
  unfold readSnippet; (try dsimp only); (repeat' split) <;> simp
@[simp] theorem readSnippet_banks (c : Held) (s : State) : (readSnippet c s).banks = s.banks := by
  unfold readSnippet; (try dsimp only); (repeat' split) <;> simp
@[simp] theorem readSnippet_scan (c : Held) (s : State) : (readSnippet c s).scan = s.scan := by
  unfold readSnippet; (try dsimp only); (repeat' split) <;> simp
@[simp] theorem readSnippet_det (c : Held) (s : State) : (readSnippet c s).det = s.det := by
  unfold readSnippet; (try dsimp only); (repeat' split) <;> simp
@[simp] theorem readSnippet_queue (c : Held) (s : State) : (readSnippet c s).queue = s.queue := by
  unfold readSnippet; (try dsimp only); (repeat' split) <;> simp
@[simp] theorem readSnippet_store (c : Held) (s : State) : (readSnippet c s).store = s.store := by
  unfold readSnippet; (try dsimp only); (repeat' split) <;> simp
@[simp] theorem readSnippet_capture (c : Held) (s : State) : (readSnippet c s).capture = s.capture := by
  unfold readSnippet; (try dsimp only); (repeat' split) <;> simp
@[simp] theorem readSnippet_notice (c : Held) (s : State) : (readSnippet c s).notice = s.notice := by
  unfold readSnippet; (try dsimp only); (repeat' split) <;> simp

/-! `releaseEvent` changes at most: line, cmd, queue, store. -/
@[simp] theorem releaseEvent_pending (c : Held) (s : State) : (releaseEvent c s).pending = s.pending := by
  unfold releaseEvent; (try dsimp only); (repeat' split) <;> simp
@[simp] theorem releaseEvent_resetHeld (c : Held) (s : State) : (releaseEvent c s).resetHeld = s.resetHeld := by
  unfold releaseEvent; (try dsimp only); (repeat' split) <;> simp
@[simp] theorem releaseEvent_now (c : Held) (s : State) : (releaseEvent c s).now = s.now := by
  unfold releaseEvent; (try dsimp only); (repeat' split) <;> simp
@[simp] theorem releaseEvent_params (c : Held) (s : State) : (releaseEvent c s).params = s.params := by
  unfold releaseEvent; (try dsimp only); (repeat' split) <;> simp
@[simp] theorem releaseEvent_tracker (c : Held) (s : State) : (releaseEvent c s).tracker = s.tracker := by
  unfold releaseEvent; (try dsimp only); (repeat' split) <;> simp
@[simp] theorem releaseEvent_tracks (c : Held) (s : State) : (releaseEvent c s).tracks = s.tracks := by
  unfold releaseEvent; (try dsimp only); (repeat' split) <;> simp
@[simp] theorem releaseEvent_rings (c : Held) (s : State) : (releaseEvent c s).rings = s.rings := by
  unfold releaseEvent; (try dsimp only); (repeat' split) <;> simp
@[simp] theorem releaseEvent_banks (c : Held) (s : State) : (releaseEvent c s).banks = s.banks := by
  unfold releaseEvent; (try dsimp only); (repeat' split) <;> simp
@[simp] theorem releaseEvent_scan (c : Held) (s : State) : (releaseEvent c s).scan = s.scan := by
  unfold releaseEvent; (try dsimp only); (repeat' split) <;> simp
@[simp] theorem releaseEvent_det (c : Held) (s : State) : (releaseEvent c s).det = s.det := by
  unfold releaseEvent; (try dsimp only); (repeat' split) <;> simp
@[simp] theorem releaseEvent_capture (c : Held) (s : State) : (releaseEvent c s).capture = s.capture := by
  unfold releaseEvent; (try dsimp only); (repeat' split) <;> simp
@[simp] theorem releaseEvent_notice (c : Held) (s : State) : (releaseEvent c s).notice = s.notice := by
  unfold releaseEvent; (try dsimp only); (repeat' split) <;> simp

/-! `readNotices` changes at most: line, cmd. -/
@[simp] theorem readNotices_pending (c : Held) (s : State) : (readNotices c s).pending = s.pending := by
  unfold readNotices; (try dsimp only); (repeat' split) <;> simp
@[simp] theorem readNotices_resetHeld (c : Held) (s : State) : (readNotices c s).resetHeld = s.resetHeld := by
  unfold readNotices; (try dsimp only); (repeat' split) <;> simp
@[simp] theorem readNotices_now (c : Held) (s : State) : (readNotices c s).now = s.now := by
  unfold readNotices; (try dsimp only); (repeat' split) <;> simp
@[simp] theorem readNotices_params (c : Held) (s : State) : (readNotices c s).params = s.params := by
  unfold readNotices; (try dsimp only); (repeat' split) <;> simp
@[simp] theorem readNotices_tracker (c : Held) (s : State) : (readNotices c s).tracker = s.tracker := by
  unfold readNotices; (try dsimp only); (repeat' split) <;> simp
@[simp] theorem readNotices_tracks (c : Held) (s : State) : (readNotices c s).tracks = s.tracks := by
  unfold readNotices; (try dsimp only); (repeat' split) <;> simp
@[simp] theorem readNotices_rings (c : Held) (s : State) : (readNotices c s).rings = s.rings := by
  unfold readNotices; (try dsimp only); (repeat' split) <;> simp
@[simp] theorem readNotices_banks (c : Held) (s : State) : (readNotices c s).banks = s.banks := by
  unfold readNotices; (try dsimp only); (repeat' split) <;> simp
@[simp] theorem readNotices_scan (c : Held) (s : State) : (readNotices c s).scan = s.scan := by
  unfold readNotices; (try dsimp only); (repeat' split) <;> simp
@[simp] theorem readNotices_det (c : Held) (s : State) : (readNotices c s).det = s.det := by
  unfold readNotices; (try dsimp only); (repeat' split) <;> simp
@[simp] theorem readNotices_queue (c : Held) (s : State) : (readNotices c s).queue = s.queue := by
  unfold readNotices; (try dsimp only); (repeat' split) <;> simp
@[simp] theorem readNotices_store (c : Held) (s : State) : (readNotices c s).store = s.store := by
  unfold readNotices; (try dsimp only); (repeat' split) <;> simp
@[simp] theorem readNotices_capture (c : Held) (s : State) : (readNotices c s).capture = s.capture := by
  unfold readNotices; (try dsimp only); (repeat' split) <;> simp
@[simp] theorem readNotices_notice (c : Held) (s : State) : (readNotices c s).notice = s.notice := by
  unfold readNotices; (try dsimp only); (repeat' split) <;> simp

/-! `clearNotices` changes at most: line, cmd, notice. -/
@[simp] theorem clearNotices_pending (c : Held) (s : State) : (clearNotices c s).pending = s.pending := by
  unfold clearNotices; (try dsimp only); (repeat' split) <;> simp
@[simp] theorem clearNotices_resetHeld (c : Held) (s : State) : (clearNotices c s).resetHeld = s.resetHeld := by
  unfold clearNotices; (try dsimp only); (repeat' split) <;> simp
@[simp] theorem clearNotices_now (c : Held) (s : State) : (clearNotices c s).now = s.now := by
  unfold clearNotices; (try dsimp only); (repeat' split) <;> simp
@[simp] theorem clearNotices_params (c : Held) (s : State) : (clearNotices c s).params = s.params := by
  unfold clearNotices; (try dsimp only); (repeat' split) <;> simp
@[simp] theorem clearNotices_tracker (c : Held) (s : State) : (clearNotices c s).tracker = s.tracker := by
  unfold clearNotices; (try dsimp only); (repeat' split) <;> simp
@[simp] theorem clearNotices_tracks (c : Held) (s : State) : (clearNotices c s).tracks = s.tracks := by
  unfold clearNotices; (try dsimp only); (repeat' split) <;> simp
@[simp] theorem clearNotices_rings (c : Held) (s : State) : (clearNotices c s).rings = s.rings := by
  unfold clearNotices; (try dsimp only); (repeat' split) <;> simp
@[simp] theorem clearNotices_banks (c : Held) (s : State) : (clearNotices c s).banks = s.banks := by
  unfold clearNotices; (try dsimp only); (repeat' split) <;> simp
@[simp] theorem clearNotices_scan (c : Held) (s : State) : (clearNotices c s).scan = s.scan := by
  unfold clearNotices; (try dsimp only); (repeat' split) <;> simp
@[simp] theorem clearNotices_det (c : Held) (s : State) : (clearNotices c s).det = s.det := by
  unfold clearNotices; (try dsimp only); (repeat' split) <;> simp
@[simp] theorem clearNotices_queue (c : Held) (s : State) : (clearNotices c s).queue = s.queue := by
  unfold clearNotices; (try dsimp only); (repeat' split) <;> simp
@[simp] theorem clearNotices_store (c : Held) (s : State) : (clearNotices c s).store = s.store := by
  unfold clearNotices; (try dsimp only); (repeat' split) <;> simp
@[simp] theorem clearNotices_capture (c : Held) (s : State) : (clearNotices c s).capture = s.capture := by
  unfold clearNotices; (try dsimp only); (repeat' split) <;> simp

/-! `setNoticeMask` changes at most: line, cmd, notice. -/
@[simp] theorem setNoticeMask_pending (c : Held) (s : State) : (setNoticeMask c s).pending = s.pending := by
  unfold setNoticeMask; (try dsimp only); (repeat' split) <;> simp
@[simp] theorem setNoticeMask_resetHeld (c : Held) (s : State) : (setNoticeMask c s).resetHeld = s.resetHeld := by
  unfold setNoticeMask; (try dsimp only); (repeat' split) <;> simp
@[simp] theorem setNoticeMask_now (c : Held) (s : State) : (setNoticeMask c s).now = s.now := by
  unfold setNoticeMask; (try dsimp only); (repeat' split) <;> simp
@[simp] theorem setNoticeMask_params (c : Held) (s : State) : (setNoticeMask c s).params = s.params := by
  unfold setNoticeMask; (try dsimp only); (repeat' split) <;> simp
@[simp] theorem setNoticeMask_tracker (c : Held) (s : State) : (setNoticeMask c s).tracker = s.tracker := by
  unfold setNoticeMask; (try dsimp only); (repeat' split) <;> simp
@[simp] theorem setNoticeMask_tracks (c : Held) (s : State) : (setNoticeMask c s).tracks = s.tracks := by
  unfold setNoticeMask; (try dsimp only); (repeat' split) <;> simp
@[simp] theorem setNoticeMask_rings (c : Held) (s : State) : (setNoticeMask c s).rings = s.rings := by
  unfold setNoticeMask; (try dsimp only); (repeat' split) <;> simp
@[simp] theorem setNoticeMask_banks (c : Held) (s : State) : (setNoticeMask c s).banks = s.banks := by
  unfold setNoticeMask; (try dsimp only); (repeat' split) <;> simp
@[simp] theorem setNoticeMask_scan (c : Held) (s : State) : (setNoticeMask c s).scan = s.scan := by
  unfold setNoticeMask; (try dsimp only); (repeat' split) <;> simp
@[simp] theorem setNoticeMask_det (c : Held) (s : State) : (setNoticeMask c s).det = s.det := by
  unfold setNoticeMask; (try dsimp only); (repeat' split) <;> simp
@[simp] theorem setNoticeMask_queue (c : Held) (s : State) : (setNoticeMask c s).queue = s.queue := by
  unfold setNoticeMask; (try dsimp only); (repeat' split) <;> simp
@[simp] theorem setNoticeMask_store (c : Held) (s : State) : (setNoticeMask c s).store = s.store := by
  unfold setNoticeMask; (try dsimp only); (repeat' split) <;> simp
@[simp] theorem setNoticeMask_capture (c : Held) (s : State) : (setNoticeMask c s).capture = s.capture := by
  unfold setNoticeMask; (try dsimp only); (repeat' split) <;> simp

/-! `readFault` changes at most: line, cmd. -/
@[simp] theorem readFault_pending (c : Held) (s : State) : (readFault c s).pending = s.pending := by
  unfold readFault; (try dsimp only); (repeat' split) <;> simp
@[simp] theorem readFault_resetHeld (c : Held) (s : State) : (readFault c s).resetHeld = s.resetHeld := by
  unfold readFault; (try dsimp only); (repeat' split) <;> simp
@[simp] theorem readFault_now (c : Held) (s : State) : (readFault c s).now = s.now := by
  unfold readFault; (try dsimp only); (repeat' split) <;> simp
@[simp] theorem readFault_params (c : Held) (s : State) : (readFault c s).params = s.params := by
  unfold readFault; (try dsimp only); (repeat' split) <;> simp
@[simp] theorem readFault_tracker (c : Held) (s : State) : (readFault c s).tracker = s.tracker := by
  unfold readFault; (try dsimp only); (repeat' split) <;> simp
@[simp] theorem readFault_tracks (c : Held) (s : State) : (readFault c s).tracks = s.tracks := by
  unfold readFault; (try dsimp only); (repeat' split) <;> simp
@[simp] theorem readFault_rings (c : Held) (s : State) : (readFault c s).rings = s.rings := by
  unfold readFault; (try dsimp only); (repeat' split) <;> simp
@[simp] theorem readFault_banks (c : Held) (s : State) : (readFault c s).banks = s.banks := by
  unfold readFault; (try dsimp only); (repeat' split) <;> simp
@[simp] theorem readFault_scan (c : Held) (s : State) : (readFault c s).scan = s.scan := by
  unfold readFault; (try dsimp only); (repeat' split) <;> simp
@[simp] theorem readFault_det (c : Held) (s : State) : (readFault c s).det = s.det := by
  unfold readFault; (try dsimp only); (repeat' split) <;> simp
@[simp] theorem readFault_queue (c : Held) (s : State) : (readFault c s).queue = s.queue := by
  unfold readFault; (try dsimp only); (repeat' split) <;> simp
@[simp] theorem readFault_store (c : Held) (s : State) : (readFault c s).store = s.store := by
  unfold readFault; (try dsimp only); (repeat' split) <;> simp
@[simp] theorem readFault_capture (c : Held) (s : State) : (readFault c s).capture = s.capture := by
  unfold readFault; (try dsimp only); (repeat' split) <;> simp
@[simp] theorem readFault_notice (c : Held) (s : State) : (readFault c s).notice = s.notice := by
  unfold readFault; (try dsimp only); (repeat' split) <;> simp

/-! `clearFault` changes at most: line, cmd, notice. -/
@[simp] theorem clearFault_pending (c : Held) (s : State) : (clearFault c s).pending = s.pending := by
  unfold clearFault; (try dsimp only); (repeat' split) <;> simp
@[simp] theorem clearFault_resetHeld (c : Held) (s : State) : (clearFault c s).resetHeld = s.resetHeld := by
  unfold clearFault; (try dsimp only); (repeat' split) <;> simp
@[simp] theorem clearFault_now (c : Held) (s : State) : (clearFault c s).now = s.now := by
  unfold clearFault; (try dsimp only); (repeat' split) <;> simp
@[simp] theorem clearFault_params (c : Held) (s : State) : (clearFault c s).params = s.params := by
  unfold clearFault; (try dsimp only); (repeat' split) <;> simp
@[simp] theorem clearFault_tracker (c : Held) (s : State) : (clearFault c s).tracker = s.tracker := by
  unfold clearFault; (try dsimp only); (repeat' split) <;> simp
@[simp] theorem clearFault_tracks (c : Held) (s : State) : (clearFault c s).tracks = s.tracks := by
  unfold clearFault; (try dsimp only); (repeat' split) <;> simp
@[simp] theorem clearFault_rings (c : Held) (s : State) : (clearFault c s).rings = s.rings := by
  unfold clearFault; (try dsimp only); (repeat' split) <;> simp
@[simp] theorem clearFault_banks (c : Held) (s : State) : (clearFault c s).banks = s.banks := by
  unfold clearFault; (try dsimp only); (repeat' split) <;> simp
@[simp] theorem clearFault_scan (c : Held) (s : State) : (clearFault c s).scan = s.scan := by
  unfold clearFault; (try dsimp only); (repeat' split) <;> simp
@[simp] theorem clearFault_det (c : Held) (s : State) : (clearFault c s).det = s.det := by
  unfold clearFault; (try dsimp only); (repeat' split) <;> simp
@[simp] theorem clearFault_queue (c : Held) (s : State) : (clearFault c s).queue = s.queue := by
  unfold clearFault; (try dsimp only); (repeat' split) <;> simp
@[simp] theorem clearFault_store (c : Held) (s : State) : (clearFault c s).store = s.store := by
  unfold clearFault; (try dsimp only); (repeat' split) <;> simp
@[simp] theorem clearFault_capture (c : Held) (s : State) : (clearFault c s).capture = s.capture := by
  unfold clearFault; (try dsimp only); (repeat' split) <;> simp

/-! `hotStart` changes at most: line, cmd, tracker, tracks, rings, banks, scan, det, queue, store, capture, notice. -/
@[simp] theorem hotStart_pending (c : Held) (s : State) : (hotStart c s).pending = s.pending := by
  rfl
@[simp] theorem hotStart_resetHeld (c : Held) (s : State) : (hotStart c s).resetHeld = s.resetHeld := by
  rfl
@[simp] theorem hotStart_now (c : Held) (s : State) : (hotStart c s).now = s.now := by
  rfl
@[simp] theorem hotStart_params (c : Held) (s : State) : (hotStart c s).params = s.params := by
  rfl

end Sys2Proof.Machine
end

