-- ==== Sys2Proof/Laws/Notice.lean ====
section
/-! SUPPORT. The fields of the Notice and Fault Unit that raising and clearing flags leaves as they are: nothing but a fault
taken, CLEAR FAULT and a start changes the fault records or the frozen condition. -/

namespace Sys2Proof.Machine

set_option Elab.async false
set_option linter.unusedTactic false
set_option linter.unreachableTactic false
set_option linter.unnecessarySeqFocus false
@[simp] theorem setFlag_notice_frozen (f : Flag) (s : State) : (setFlag f s).notice.frozen = s.notice.frozen := by
  unfold setFlag NoticeUnit.raise; (repeat' split) <;> simp
@[simp] theorem setFlag_notice_faultRecord (f : Flag) (s : State) : (setFlag f s).notice.faultRecord = s.notice.faultRecord := by
  unfold setFlag NoticeUnit.raise; (repeat' split) <;> simp
@[simp] theorem setFlag_notice_secondFault (f : Flag) (s : State) : (setFlag f s).notice.secondFault = s.notice.secondFault := by
  unfold setFlag NoticeUnit.raise; (repeat' split) <;> simp
@[simp] theorem setFlag_notice_enables (f : Flag) (s : State) : (setFlag f s).notice.enables = s.notice.enables := by
  unfold setFlag NoticeUnit.raise; (repeat' split) <;> simp
@[simp] theorem setFlag_notice_frozenStoreErrors (f : Flag) (s : State) : (setFlag f s).notice.frozenStoreErrors = s.notice.frozenStoreErrors := by
  unfold setFlag NoticeUnit.raise; (repeat' split) <;> simp
@[simp] theorem setFlagIf_notice_frozen (c : Bool) (f : Flag) (s : State) : (setFlagIf c f s).notice.frozen = s.notice.frozen := by
  unfold setFlagIf; (repeat' split) <;> simp
@[simp] theorem setFlagIf_notice_faultRecord (c : Bool) (f : Flag) (s : State) : (setFlagIf c f s).notice.faultRecord = s.notice.faultRecord := by
  unfold setFlagIf; (repeat' split) <;> simp
@[simp] theorem setFlagIf_notice_secondFault (c : Bool) (f : Flag) (s : State) : (setFlagIf c f s).notice.secondFault = s.notice.secondFault := by
  unfold setFlagIf; (repeat' split) <;> simp
@[simp] theorem setFlagIf_notice_enables (c : Bool) (f : Flag) (s : State) : (setFlagIf c f s).notice.enables = s.notice.enables := by
  unfold setFlagIf; (repeat' split) <;> simp
@[simp] theorem setFlagIf_notice_frozenStoreErrors (c : Bool) (f : Flag) (s : State) : (setFlagIf c f s).notice.frozenStoreErrors = s.notice.frozenStoreErrors := by
  unfold setFlagIf; (repeat' split) <;> simp
@[simp] theorem cancelIfEmpty_notice_frozen (s : State) : (cancelIfEmpty s).notice.frozen = s.notice.frozen := by
  unfold cancelIfEmpty; (repeat' split) <;> simp
@[simp] theorem cancelIfEmpty_notice_faultRecord (s : State) : (cancelIfEmpty s).notice.faultRecord = s.notice.faultRecord := by
  unfold cancelIfEmpty; (repeat' split) <;> simp
@[simp] theorem cancelIfEmpty_notice_secondFault (s : State) : (cancelIfEmpty s).notice.secondFault = s.notice.secondFault := by
  unfold cancelIfEmpty; (repeat' split) <;> simp
@[simp] theorem cancelIfEmpty_notice_enables (s : State) : (cancelIfEmpty s).notice.enables = s.notice.enables := by
  unfold cancelIfEmpty; (repeat' split) <;> simp
@[simp] theorem cancelIfEmpty_notice_frozenStoreErrors (s : State) : (cancelIfEmpty s).notice.frozenStoreErrors = s.notice.frozenStoreErrors := by
  unfold cancelIfEmpty; (repeat' split) <;> simp
@[simp] theorem clearFlags_notice_frozen (x : BitVec 9) (s : State) : (clearFlags x s).notice.frozen = s.notice.frozen := by
  simp [clearFlags]
@[simp] theorem clearFlags_notice_faultRecord (x : BitVec 9) (s : State) : (clearFlags x s).notice.faultRecord = s.notice.faultRecord := by
  simp [clearFlags]
@[simp] theorem clearFlags_notice_secondFault (x : BitVec 9) (s : State) : (clearFlags x s).notice.secondFault = s.notice.secondFault := by
  simp [clearFlags]
@[simp] theorem clearFlags_notice_enables (x : BitVec 9) (s : State) : (clearFlags x s).notice.enables = s.notice.enables := by
  simp [clearFlags]
@[simp] theorem clearFlags_notice_frozenStoreErrors (x : BitVec 9) (s : State) : (clearFlags x s).notice.frozenStoreErrors = s.notice.frozenStoreErrors := by
  simp [clearFlags]
@[simp] theorem setEnables_notice_frozen (x : BitVec 9) (s : State) : (setEnables x s).notice.frozen = s.notice.frozen := by
  simp [setEnables]
@[simp] theorem setEnables_notice_faultRecord (x : BitVec 9) (s : State) : (setEnables x s).notice.faultRecord = s.notice.faultRecord := by
  simp [setEnables]
@[simp] theorem setEnables_notice_secondFault (x : BitVec 9) (s : State) : (setEnables x s).notice.secondFault = s.notice.secondFault := by
  simp [setEnables]
@[simp] theorem setEnables_notice_frozenStoreErrors (x : BitVec 9) (s : State) : (setEnables x s).notice.frozenStoreErrors = s.notice.frozenStoreErrors := by
  simp [setEnables]
@[simp] theorem addressBecameValid_notice_frozen (s : State) : (addressBecameValid s).notice.frozen = s.notice.frozen := by
  unfold addressBecameValid; (repeat' split) <;> simp
@[simp] theorem addressBecameValid_notice_faultRecord (s : State) : (addressBecameValid s).notice.faultRecord = s.notice.faultRecord := by
  unfold addressBecameValid; (repeat' split) <;> simp
@[simp] theorem addressBecameValid_notice_secondFault (s : State) : (addressBecameValid s).notice.secondFault = s.notice.secondFault := by
  unfold addressBecameValid; (repeat' split) <;> simp
@[simp] theorem addressBecameValid_notice_enables (s : State) : (addressBecameValid s).notice.enables = s.notice.enables := by
  unfold addressBecameValid; (repeat' split) <;> simp
@[simp] theorem addressBecameValid_notice_frozenStoreErrors (s : State) : (addressBecameValid s).notice.frozenStoreErrors = s.notice.frozenStoreErrors := by
  unfold addressBecameValid; (repeat' split) <;> simp
@[simp] theorem rollcallSet_notice_frozen (h : Nat) (s : State) : (rollcallSet h s).notice.frozen = s.notice.frozen := by
  unfold rollcallSet; dsimp only; (repeat' split) <;> simp
@[simp] theorem rollcallSet_notice_faultRecord (h : Nat) (s : State) : (rollcallSet h s).notice.faultRecord = s.notice.faultRecord := by
  unfold rollcallSet; dsimp only; (repeat' split) <;> simp
@[simp] theorem rollcallSet_notice_secondFault (h : Nat) (s : State) : (rollcallSet h s).notice.secondFault = s.notice.secondFault := by
  unfold rollcallSet; dsimp only; (repeat' split) <;> simp
@[simp] theorem rollcallSet_notice_enables (h : Nat) (s : State) : (rollcallSet h s).notice.enables = s.notice.enables := by
  unfold rollcallSet; dsimp only; (repeat' split) <;> simp
@[simp] theorem rollcallSet_notice_frozenStoreErrors (h : Nat) (s : State) : (rollcallSet h s).notice.frozenStoreErrors = s.notice.frozenStoreErrors := by
  unfold rollcallSet; dsimp only; (repeat' split) <;> simp
@[simp] theorem handleRollcall_notice_frozen (f : Bytes) (s : State) : (handleRollcall f s).notice.frozen = s.notice.frozen := by
  simp [handleRollcall]
@[simp] theorem handleRollcall_notice_faultRecord (f : Bytes) (s : State) : (handleRollcall f s).notice.faultRecord = s.notice.faultRecord := by
  simp [handleRollcall]
@[simp] theorem handleRollcall_notice_secondFault (f : Bytes) (s : State) : (handleRollcall f s).notice.secondFault = s.notice.secondFault := by
  simp [handleRollcall]
@[simp] theorem handleRollcall_notice_enables (f : Bytes) (s : State) : (handleRollcall f s).notice.enables = s.notice.enables := by
  simp [handleRollcall]
@[simp] theorem handleRollcall_notice_frozenStoreErrors (f : Bytes) (s : State) : (handleRollcall f s).notice.frozenStoreErrors = s.notice.frozenStoreErrors := by
  simp [handleRollcall]
@[simp] theorem routeDownstream_notice_frozen (f : Bytes) (s : State) : (routeDownstream f s).notice.frozen = s.notice.frozen := by
  unfold routeDownstream; (repeat' split) <;> simp
@[simp] theorem routeDownstream_notice_faultRecord (f : Bytes) (s : State) : (routeDownstream f s).notice.faultRecord = s.notice.faultRecord := by
  unfold routeDownstream; (repeat' split) <;> simp
@[simp] theorem routeDownstream_notice_secondFault (f : Bytes) (s : State) : (routeDownstream f s).notice.secondFault = s.notice.secondFault := by
  unfold routeDownstream; (repeat' split) <;> simp
@[simp] theorem routeDownstream_notice_enables (f : Bytes) (s : State) : (routeDownstream f s).notice.enables = s.notice.enables := by
  unfold routeDownstream; (repeat' split) <;> simp
@[simp] theorem routeDownstream_notice_frozenStoreErrors (f : Bytes) (s : State) : (routeDownstream f s).notice.frozenStoreErrors = s.notice.frozenStoreErrors := by
  unfold routeDownstream; (repeat' split) <;> simp
@[simp] theorem downstreamFrame_notice_frozen (f : Bytes) (s : State) : (downstreamFrame f s).notice.frozen = s.notice.frozen := by
  unfold downstreamFrame; dsimp only; (repeat' split) <;> simp
@[simp] theorem downstreamFrame_notice_faultRecord (f : Bytes) (s : State) : (downstreamFrame f s).notice.faultRecord = s.notice.faultRecord := by
  unfold downstreamFrame; dsimp only; (repeat' split) <;> simp
@[simp] theorem downstreamFrame_notice_secondFault (f : Bytes) (s : State) : (downstreamFrame f s).notice.secondFault = s.notice.secondFault := by
  unfold downstreamFrame; dsimp only; (repeat' split) <;> simp
@[simp] theorem downstreamFrame_notice_enables (f : Bytes) (s : State) : (downstreamFrame f s).notice.enables = s.notice.enables := by
  unfold downstreamFrame; dsimp only; (repeat' split) <;> simp
@[simp] theorem downstreamFrame_notice_frozenStoreErrors (f : Bytes) (s : State) : (downstreamFrame f s).notice.frozenStoreErrors = s.notice.frozenStoreErrors := by
  unfold downstreamFrame; dsimp only; (repeat' split) <;> simp
@[simp] theorem placeNotice_notice_frozen (s : State) : (placeNotice s).notice.frozen = s.notice.frozen := by
  unfold placeNotice; (repeat' split) <;> simp
@[simp] theorem placeNotice_notice_faultRecord (s : State) : (placeNotice s).notice.faultRecord = s.notice.faultRecord := by
  unfold placeNotice; (repeat' split) <;> simp
@[simp] theorem placeNotice_notice_secondFault (s : State) : (placeNotice s).notice.secondFault = s.notice.secondFault := by
  unfold placeNotice; (repeat' split) <;> simp
@[simp] theorem placeNotice_notice_enables (s : State) : (placeNotice s).notice.enables = s.notice.enables := by
  unfold placeNotice; (repeat' split) <;> simp
@[simp] theorem placeNotice_notice_frozenStoreErrors (s : State) : (placeNotice s).notice.frozenStoreErrors = s.notice.frozenStoreErrors := by
  unfold placeNotice; (repeat' split) <;> simp
@[simp] theorem setAddress_notice_frozen (c : Held) (s : State) : (setAddress c s).notice.frozen = s.notice.frozen := by
  unfold setAddress; (repeat' split) <;> simp
@[simp] theorem setAddress_notice_faultRecord (c : Held) (s : State) : (setAddress c s).notice.faultRecord = s.notice.faultRecord := by
  unfold setAddress; (repeat' split) <;> simp
@[simp] theorem setAddress_notice_secondFault (c : Held) (s : State) : (setAddress c s).notice.secondFault = s.notice.secondFault := by
  unfold setAddress; (repeat' split) <;> simp
@[simp] theorem setAddress_notice_enables (c : Held) (s : State) : (setAddress c s).notice.enables = s.notice.enables := by
  unfold setAddress; (repeat' split) <;> simp
@[simp] theorem setAddress_notice_frozenStoreErrors (c : Held) (s : State) : (setAddress c s).notice.frozenStoreErrors = s.notice.frozenStoreErrors := by
  unfold setAddress; (repeat' split) <;> simp
@[simp] theorem clearNotices_notice_frozen (c : Held) (s : State) : (clearNotices c s).notice.frozen = s.notice.frozen := by
  simp [clearNotices]
@[simp] theorem clearNotices_notice_faultRecord (c : Held) (s : State) : (clearNotices c s).notice.faultRecord = s.notice.faultRecord := by
  simp [clearNotices]
@[simp] theorem clearNotices_notice_secondFault (c : Held) (s : State) : (clearNotices c s).notice.secondFault = s.notice.secondFault := by
  simp [clearNotices]
@[simp] theorem clearNotices_notice_enables (c : Held) (s : State) : (clearNotices c s).notice.enables = s.notice.enables := by
  simp [clearNotices]
@[simp] theorem clearNotices_notice_frozenStoreErrors (c : Held) (s : State) : (clearNotices c s).notice.frozenStoreErrors = s.notice.frozenStoreErrors := by
  simp [clearNotices]
@[simp] theorem setNoticeMask_notice_frozen (c : Held) (s : State) : (setNoticeMask c s).notice.frozen = s.notice.frozen := by
  simp [setNoticeMask]
@[simp] theorem setNoticeMask_notice_faultRecord (c : Held) (s : State) : (setNoticeMask c s).notice.faultRecord = s.notice.faultRecord := by
  simp [setNoticeMask]
@[simp] theorem setNoticeMask_notice_secondFault (c : Held) (s : State) : (setNoticeMask c s).notice.secondFault = s.notice.secondFault := by
  simp [setNoticeMask]
@[simp] theorem setNoticeMask_notice_frozenStoreErrors (c : Held) (s : State) : (setNoticeMask c s).notice.frozenStoreErrors = s.notice.frozenStoreErrors := by
  simp [setNoticeMask]
@[simp] theorem raiseEventReady_notice_frozen (s : State) : (raiseEventReady s).notice.frozen = s.notice.frozen := by
  simp [raiseEventReady]
@[simp] theorem raiseEventReady_notice_faultRecord (s : State) : (raiseEventReady s).notice.faultRecord = s.notice.faultRecord := by
  simp [raiseEventReady]
@[simp] theorem raiseEventReady_notice_secondFault (s : State) : (raiseEventReady s).notice.secondFault = s.notice.secondFault := by
  simp [raiseEventReady]
@[simp] theorem raiseEventReady_notice_enables (s : State) : (raiseEventReady s).notice.enables = s.notice.enables := by
  simp [raiseEventReady]
@[simp] theorem raiseEventReady_notice_frozenStoreErrors (s : State) : (raiseEventReady s).notice.frozenStoreErrors = s.notice.frozenStoreErrors := by
  simp [raiseEventReady]
@[simp] theorem refuseCapture_notice_frozen (s : State) : (refuseCapture s).notice.frozen = s.notice.frozen := by
  simp [refuseCapture]
@[simp] theorem refuseCapture_notice_faultRecord (s : State) : (refuseCapture s).notice.faultRecord = s.notice.faultRecord := by
  simp [refuseCapture]
@[simp] theorem refuseCapture_notice_secondFault (s : State) : (refuseCapture s).notice.secondFault = s.notice.secondFault := by
  simp [refuseCapture]
@[simp] theorem refuseCapture_notice_enables (s : State) : (refuseCapture s).notice.enables = s.notice.enables := by
  simp [refuseCapture]
@[simp] theorem refuseCapture_notice_frozenStoreErrors (s : State) : (refuseCapture s).notice.frozenStoreErrors = s.notice.frozenStoreErrors := by
  simp [refuseCapture]
@[simp] theorem serveCandidate_notice_frozen (n : Nat) (s : State) : (serveCandidate n s).notice.frozen = s.notice.frozen := by
  induction n generalizing s with | zero => rfl | succ n ih => (unfold serveCandidate; (repeat' split) <;> simp [ih])
@[simp] theorem serveCandidate_notice_faultRecord (n : Nat) (s : State) : (serveCandidate n s).notice.faultRecord = s.notice.faultRecord := by
  induction n generalizing s with | zero => rfl | succ n ih => (unfold serveCandidate; (repeat' split) <;> simp [ih])
@[simp] theorem serveCandidate_notice_secondFault (n : Nat) (s : State) : (serveCandidate n s).notice.secondFault = s.notice.secondFault := by
  induction n generalizing s with | zero => rfl | succ n ih => (unfold serveCandidate; (repeat' split) <;> simp [ih])
@[simp] theorem serveCandidate_notice_enables (n : Nat) (s : State) : (serveCandidate n s).notice.enables = s.notice.enables := by
  induction n generalizing s with | zero => rfl | succ n ih => (unfold serveCandidate; (repeat' split) <;> simp [ih])
@[simp] theorem serveCandidate_notice_frozenStoreErrors (n : Nat) (s : State) : (serveCandidate n s).notice.frozenStoreErrors = s.notice.frozenStoreErrors := by
  induction n generalizing s with | zero => rfl | succ n ih => (unfold serveCandidate; (repeat' split) <;> simp [ih])
@[simp] theorem waitTest_notice_frozen (s : State) : (waitTest s).notice.frozen = s.notice.frozen := by
  simp [waitTest]
@[simp] theorem waitTest_notice_faultRecord (s : State) : (waitTest s).notice.faultRecord = s.notice.faultRecord := by
  simp [waitTest]
@[simp] theorem waitTest_notice_secondFault (s : State) : (waitTest s).notice.secondFault = s.notice.secondFault := by
  simp [waitTest]
@[simp] theorem waitTest_notice_enables (s : State) : (waitTest s).notice.enables = s.notice.enables := by
  simp [waitTest]
@[simp] theorem waitTest_notice_frozenStoreErrors (s : State) : (waitTest s).notice.frozenStoreErrors = s.notice.frozenStoreErrors := by
  simp [waitTest]
@[simp] theorem waitTestFor_notice_frozen (l : Nat) (s : State) : (waitTestFor l s).notice.frozen = s.notice.frozen := by
  unfold waitTestFor; (repeat' split) <;> simp
@[simp] theorem waitTestFor_notice_faultRecord (l : Nat) (s : State) : (waitTestFor l s).notice.faultRecord = s.notice.faultRecord := by
  unfold waitTestFor; (repeat' split) <;> simp
@[simp] theorem waitTestFor_notice_secondFault (l : Nat) (s : State) : (waitTestFor l s).notice.secondFault = s.notice.secondFault := by
  unfold waitTestFor; (repeat' split) <;> simp
@[simp] theorem waitTestFor_notice_enables (l : Nat) (s : State) : (waitTestFor l s).notice.enables = s.notice.enables := by
  unfold waitTestFor; (repeat' split) <;> simp
@[simp] theorem waitTestFor_notice_frozenStoreErrors (l : Nat) (s : State) : (waitTestFor l s).notice.frozenStoreErrors = s.notice.frozenStoreErrors := by
  unfold waitTestFor; (repeat' split) <;> simp
@[simp] theorem abortCaptures_notice_frozen (s : State) : (abortCaptures s).notice.frozen = s.notice.frozen := by
  simp [abortCaptures]
@[simp] theorem abortCaptures_notice_faultRecord (s : State) : (abortCaptures s).notice.faultRecord = s.notice.faultRecord := by
  simp [abortCaptures]
@[simp] theorem abortCaptures_notice_secondFault (s : State) : (abortCaptures s).notice.secondFault = s.notice.secondFault := by
  simp [abortCaptures]
@[simp] theorem abortCaptures_notice_enables (s : State) : (abortCaptures s).notice.enables = s.notice.enables := by
  simp [abortCaptures]
@[simp] theorem abortCaptures_notice_frozenStoreErrors (s : State) : (abortCaptures s).notice.frozenStoreErrors = s.notice.frozenStoreErrors := by
  simp [abortCaptures]
@[simp] theorem appendRecord_notice_frozen (r : EventRecord) (s : State) : (appendRecord r s).notice.frozen = s.notice.frozen := by
  unfold appendRecord; dsimp only; (repeat' split) <;> simp
@[simp] theorem appendRecord_notice_faultRecord (r : EventRecord) (s : State) : (appendRecord r s).notice.faultRecord = s.notice.faultRecord := by
  unfold appendRecord; dsimp only; (repeat' split) <;> simp
@[simp] theorem appendRecord_notice_secondFault (r : EventRecord) (s : State) : (appendRecord r s).notice.secondFault = s.notice.secondFault := by
  unfold appendRecord; dsimp only; (repeat' split) <;> simp
@[simp] theorem appendRecord_notice_enables (r : EventRecord) (s : State) : (appendRecord r s).notice.enables = s.notice.enables := by
  unfold appendRecord; dsimp only; (repeat' split) <;> simp
@[simp] theorem appendRecord_notice_frozenStoreErrors (r : EventRecord) (s : State) : (appendRecord r s).notice.frozenStoreErrors = s.notice.frozenStoreErrors := by
  unfold appendRecord; dsimp only; (repeat' split) <;> simp
@[simp] theorem appendClosed_notice_frozen (c : Closing) (run : Running) (plan : List PlanEntry) (s : State) :
    (appendClosed c run plan s).notice.frozen = s.notice.frozen := by
  simp [appendClosed]
@[simp] theorem appendClosed_notice_faultRecord (c : Closing) (run : Running) (plan : List PlanEntry) (s : State) :
    (appendClosed c run plan s).notice.faultRecord = s.notice.faultRecord := by
  simp [appendClosed]
@[simp] theorem appendClosed_notice_secondFault (c : Closing) (run : Running) (plan : List PlanEntry) (s : State) :
    (appendClosed c run plan s).notice.secondFault = s.notice.secondFault := by
  simp [appendClosed]
@[simp] theorem appendClosed_notice_enables (c : Closing) (run : Running) (plan : List PlanEntry) (s : State) :
    (appendClosed c run plan s).notice.enables = s.notice.enables := by
  simp [appendClosed]
@[simp] theorem appendClosed_notice_frozenStoreErrors (c : Closing) (run : Running) (plan : List PlanEntry) (s : State) :
    (appendClosed c run plan s).notice.frozenStoreErrors = s.notice.frozenStoreErrors := by
  simp [appendClosed]
@[simp] theorem freezeClose_notice_frozen (a : Activity) (s : State) :
    (freezeClose a s).notice.frozen = s.notice.frozen := by
  unfold freezeClose; (repeat' split) <;> simp
@[simp] theorem freezeClose_notice_faultRecord (a : Activity) (s : State) :
    (freezeClose a s).notice.faultRecord = s.notice.faultRecord := by
  unfold freezeClose; (repeat' split) <;> simp
@[simp] theorem freezeClose_notice_secondFault (a : Activity) (s : State) :
    (freezeClose a s).notice.secondFault = s.notice.secondFault := by
  unfold freezeClose; (repeat' split) <;> simp
@[simp] theorem freezeClose_notice_enables (a : Activity) (s : State) :
    (freezeClose a s).notice.enables = s.notice.enables := by
  unfold freezeClose; (repeat' split) <;> simp
@[simp] theorem freezeClose_notice_frozenStoreErrors (a : Activity) (s : State) :
    (freezeClose a s).notice.frozenStoreErrors = s.notice.frozenStoreErrors := by
  unfold freezeClose; (repeat' split) <;> simp
@[simp] theorem endCapture_notice_frozen (e : Bool) (s : State) : (endCapture e s).notice.frozen = s.notice.frozen := by
  simp [endCapture]
@[simp] theorem endCapture_notice_faultRecord (e : Bool) (s : State) : (endCapture e s).notice.faultRecord = s.notice.faultRecord := by
  simp [endCapture]
@[simp] theorem endCapture_notice_secondFault (e : Bool) (s : State) : (endCapture e s).notice.secondFault = s.notice.secondFault := by
  simp [endCapture]
@[simp] theorem endCapture_notice_enables (e : Bool) (s : State) : (endCapture e s).notice.enables = s.notice.enables := by
  simp [endCapture]
@[simp] theorem endCapture_notice_frozenStoreErrors (e : Bool) (s : State) : (endCapture e s).notice.frozenStoreErrors = s.notice.frozenStoreErrors := by
  simp [endCapture]
@[simp] theorem discardClose_notice_frozen (s : State) : (discardClose s).notice.frozen = s.notice.frozen := by
  simp [discardClose]
@[simp] theorem discardClose_notice_faultRecord (s : State) : (discardClose s).notice.faultRecord = s.notice.faultRecord := by
  simp [discardClose]
@[simp] theorem discardClose_notice_secondFault (s : State) : (discardClose s).notice.secondFault = s.notice.secondFault := by
  simp [discardClose]
@[simp] theorem discardClose_notice_enables (s : State) : (discardClose s).notice.enables = s.notice.enables := by
  simp [discardClose]
@[simp] theorem discardClose_notice_frozenStoreErrors (s : State) : (discardClose s).notice.frozenStoreErrors = s.notice.frozenStoreErrors := by
  simp [discardClose]
@[simp] theorem beginClose_notice_frozen (k : CloseReason) (t : Nat) (c : Bool) (s : State) : (beginClose k t c s).notice.frozen = s.notice.frozen := by
  unfold beginClose; (repeat' split) <;> simp
@[simp] theorem beginClose_notice_faultRecord (k : CloseReason) (t : Nat) (c : Bool) (s : State) : (beginClose k t c s).notice.faultRecord = s.notice.faultRecord := by
  unfold beginClose; (repeat' split) <;> simp
@[simp] theorem beginClose_notice_secondFault (k : CloseReason) (t : Nat) (c : Bool) (s : State) : (beginClose k t c s).notice.secondFault = s.notice.secondFault := by
  unfold beginClose; (repeat' split) <;> simp
@[simp] theorem beginClose_notice_enables (k : CloseReason) (t : Nat) (c : Bool) (s : State) : (beginClose k t c s).notice.enables = s.notice.enables := by
  unfold beginClose; (repeat' split) <;> simp
@[simp] theorem beginClose_notice_frozenStoreErrors (k : CloseReason) (t : Nat) (c : Bool) (s : State) : (beginClose k t c s).notice.frozenStoreErrors = s.notice.frozenStoreErrors := by
  unfold beginClose; (repeat' split) <;> simp
@[simp] theorem tickInDeclared_notice_frozen (v : DetectParams) (r : TickResult) (run : Running) (s : State) : (tickInDeclared v r run s).notice.frozen = s.notice.frozen := by
  unfold tickInDeclared; dsimp only; (repeat' split) <;> simp
@[simp] theorem tickInDeclared_notice_faultRecord (v : DetectParams) (r : TickResult) (run : Running) (s : State) : (tickInDeclared v r run s).notice.faultRecord = s.notice.faultRecord := by
  unfold tickInDeclared; dsimp only; (repeat' split) <;> simp
@[simp] theorem tickInDeclared_notice_secondFault (v : DetectParams) (r : TickResult) (run : Running) (s : State) : (tickInDeclared v r run s).notice.secondFault = s.notice.secondFault := by
  unfold tickInDeclared; dsimp only; (repeat' split) <;> simp
@[simp] theorem tickInDeclared_notice_enables (v : DetectParams) (r : TickResult) (run : Running) (s : State) : (tickInDeclared v r run s).notice.enables = s.notice.enables := by
  unfold tickInDeclared; dsimp only; (repeat' split) <;> simp
@[simp] theorem tickInDeclared_notice_frozenStoreErrors (v : DetectParams) (r : TickResult) (run : Running) (s : State) : (tickInDeclared v r run s).notice.frozenStoreErrors = s.notice.frozenStoreErrors := by
  unfold tickInDeclared; dsimp only; (repeat' split) <;> simp
@[simp] theorem takeTickResult_notice_frozen (r : TickResult) (s : State) : (takeTickResult r s).notice.frozen = s.notice.frozen := by
  unfold takeTickResult; dsimp only; (repeat' split) <;> simp
@[simp] theorem takeTickResult_notice_faultRecord (r : TickResult) (s : State) : (takeTickResult r s).notice.faultRecord = s.notice.faultRecord := by
  unfold takeTickResult; dsimp only; (repeat' split) <;> simp
@[simp] theorem takeTickResult_notice_secondFault (r : TickResult) (s : State) : (takeTickResult r s).notice.secondFault = s.notice.secondFault := by
  unfold takeTickResult; dsimp only; (repeat' split) <;> simp
@[simp] theorem takeTickResult_notice_enables (r : TickResult) (s : State) : (takeTickResult r s).notice.enables = s.notice.enables := by
  unfold takeTickResult; dsimp only; (repeat' split) <;> simp
@[simp] theorem takeTickResult_notice_frozenStoreErrors (r : TickResult) (s : State) : (takeTickResult r s).notice.frozenStoreErrors = s.notice.frozenStoreErrors := by
  unfold takeTickResult; dsimp only; (repeat' split) <;> simp
@[simp] theorem cutOpenEvent_notice_frozen (k : CloseReason) (s : State) : (cutOpenEvent k s).notice.frozen = s.notice.frozen := by
  unfold cutOpenEvent; (repeat' split) <;> simp
@[simp] theorem cutOpenEvent_notice_faultRecord (k : CloseReason) (s : State) : (cutOpenEvent k s).notice.faultRecord = s.notice.faultRecord := by
  unfold cutOpenEvent; (repeat' split) <;> simp
@[simp] theorem cutOpenEvent_notice_secondFault (k : CloseReason) (s : State) : (cutOpenEvent k s).notice.secondFault = s.notice.secondFault := by
  unfold cutOpenEvent; (repeat' split) <;> simp
@[simp] theorem cutOpenEvent_notice_enables (k : CloseReason) (s : State) : (cutOpenEvent k s).notice.enables = s.notice.enables := by
  unfold cutOpenEvent; (repeat' split) <;> simp
@[simp] theorem cutOpenEvent_notice_frozenStoreErrors (k : CloseReason) (s : State) : (cutOpenEvent k s).notice.frozenStoreErrors = s.notice.frozenStoreErrors := by
  unfold cutOpenEvent; (repeat' split) <;> simp
@[simp] theorem takeOverrun_notice_frozen (s : State) : (takeOverrun s).notice.frozen = s.notice.frozen := by
  unfold takeOverrun; (repeat' split) <;> simp
@[simp] theorem takeOverrun_notice_faultRecord (s : State) : (takeOverrun s).notice.faultRecord = s.notice.faultRecord := by
  unfold takeOverrun; (repeat' split) <;> simp
@[simp] theorem takeOverrun_notice_secondFault (s : State) : (takeOverrun s).notice.secondFault = s.notice.secondFault := by
  unfold takeOverrun; (repeat' split) <;> simp
@[simp] theorem takeOverrun_notice_enables (s : State) : (takeOverrun s).notice.enables = s.notice.enables := by
  unfold takeOverrun; (repeat' split) <;> simp
@[simp] theorem takeOverrun_notice_frozenStoreErrors (s : State) : (takeOverrun s).notice.frozenStoreErrors = s.notice.frozenStoreErrors := by
  unfold takeOverrun; (repeat' split) <;> simp
@[simp] theorem keptOverrun_notice_frozen (c : Closing) (s : State) : (keptOverrun c s).notice.frozen = s.notice.frozen := by
  unfold keptOverrun; split <;> simp
@[simp] theorem keptOverrun_notice_faultRecord (c : Closing) (s : State) : (keptOverrun c s).notice.faultRecord = s.notice.faultRecord := by
  unfold keptOverrun; split <;> simp
@[simp] theorem keptOverrun_notice_secondFault (c : Closing) (s : State) : (keptOverrun c s).notice.secondFault = s.notice.secondFault := by
  unfold keptOverrun; split <;> simp
@[simp] theorem keptOverrun_notice_enables (c : Closing) (s : State) : (keptOverrun c s).notice.enables = s.notice.enables := by
  unfold keptOverrun; split <;> simp
@[simp] theorem keptOverrun_notice_frozenStoreErrors (c : Closing) (s : State) : (keptOverrun c s).notice.frozenStoreErrors = s.notice.frozenStoreErrors := by
  unfold keptOverrun; split <;> simp
@[simp] theorem takeSilence_notice_frozen (s : State) : (takeSilence s).notice.frozen = s.notice.frozen := by
  unfold takeSilence; (repeat' split) <;> simp
@[simp] theorem takeSilence_notice_faultRecord (s : State) : (takeSilence s).notice.faultRecord = s.notice.faultRecord := by
  unfold takeSilence; (repeat' split) <;> simp
@[simp] theorem takeSilence_notice_secondFault (s : State) : (takeSilence s).notice.secondFault = s.notice.secondFault := by
  unfold takeSilence; (repeat' split) <;> simp
@[simp] theorem takeSilence_notice_enables (s : State) : (takeSilence s).notice.enables = s.notice.enables := by
  unfold takeSilence; (repeat' split) <;> simp
@[simp] theorem takeSilence_notice_frozenStoreErrors (s : State) : (takeSilence s).notice.frozenStoreErrors = s.notice.frozenStoreErrors := by
  unfold takeSilence; (repeat' split) <;> simp
@[simp] theorem applyLaneChange_notice_frozen (c : LaneChange) (s : State) : (applyLaneChange c s).notice.frozen = s.notice.frozen := by
  unfold applyLaneChange; dsimp only; (repeat' split) <;> simp
@[simp] theorem applyLaneChange_notice_faultRecord (c : LaneChange) (s : State) : (applyLaneChange c s).notice.faultRecord = s.notice.faultRecord := by
  unfold applyLaneChange; dsimp only; (repeat' split) <;> simp
@[simp] theorem applyLaneChange_notice_secondFault (c : LaneChange) (s : State) : (applyLaneChange c s).notice.secondFault = s.notice.secondFault := by
  unfold applyLaneChange; dsimp only; (repeat' split) <;> simp
@[simp] theorem applyLaneChange_notice_enables (c : LaneChange) (s : State) : (applyLaneChange c s).notice.enables = s.notice.enables := by
  unfold applyLaneChange; dsimp only; (repeat' split) <;> simp
@[simp] theorem applyLaneChange_notice_frozenStoreErrors (c : LaneChange) (s : State) : (applyLaneChange c s).notice.frozenStoreErrors = s.notice.frozenStoreErrors := by
  unfold applyLaneChange; dsimp only; (repeat' split) <;> simp
@[simp] theorem applyWaitingChange_notice_frozen (s : State) : (applyWaitingChange s).notice.frozen = s.notice.frozen := by
  unfold applyWaitingChange; (repeat' split) <;> simp
@[simp] theorem applyWaitingChange_notice_faultRecord (s : State) : (applyWaitingChange s).notice.faultRecord = s.notice.faultRecord := by
  unfold applyWaitingChange; (repeat' split) <;> simp
@[simp] theorem applyWaitingChange_notice_secondFault (s : State) : (applyWaitingChange s).notice.secondFault = s.notice.secondFault := by
  unfold applyWaitingChange; (repeat' split) <;> simp
@[simp] theorem applyWaitingChange_notice_enables (s : State) : (applyWaitingChange s).notice.enables = s.notice.enables := by
  unfold applyWaitingChange; (repeat' split) <;> simp
@[simp] theorem applyWaitingChange_notice_frozenStoreErrors (s : State) : (applyWaitingChange s).notice.frozenStoreErrors = s.notice.frozenStoreErrors := by
  unfold applyWaitingChange; (repeat' split) <;> simp
@[simp] theorem jumpCursor_notice_frozen (t u : Nat) (s : State) : (jumpCursor t u s).notice.frozen = s.notice.frozen := by
  simp [jumpCursor]
@[simp] theorem jumpCursor_notice_faultRecord (t u : Nat) (s : State) : (jumpCursor t u s).notice.faultRecord = s.notice.faultRecord := by
  simp [jumpCursor]
@[simp] theorem jumpCursor_notice_secondFault (t u : Nat) (s : State) : (jumpCursor t u s).notice.secondFault = s.notice.secondFault := by
  simp [jumpCursor]
@[simp] theorem jumpCursor_notice_enables (t u : Nat) (s : State) : (jumpCursor t u s).notice.enables = s.notice.enables := by
  simp [jumpCursor]
@[simp] theorem jumpCursor_notice_frozenStoreErrors (t u : Nat) (s : State) : (jumpCursor t u s).notice.frozenStoreErrors = s.notice.frozenStoreErrors := by
  simp [jumpCursor]
@[simp] theorem fallBehind_notice_frozen (s : State) : (fallBehind s).notice.frozen = s.notice.frozen := by
  unfold fallBehind; dsimp only; (repeat' split) <;> simp
@[simp] theorem fallBehind_notice_faultRecord (s : State) : (fallBehind s).notice.faultRecord = s.notice.faultRecord := by
  unfold fallBehind; dsimp only; (repeat' split) <;> simp
@[simp] theorem fallBehind_notice_secondFault (s : State) : (fallBehind s).notice.secondFault = s.notice.secondFault := by
  unfold fallBehind; dsimp only; (repeat' split) <;> simp
@[simp] theorem fallBehind_notice_enables (s : State) : (fallBehind s).notice.enables = s.notice.enables := by
  unfold fallBehind; dsimp only; (repeat' split) <;> simp
@[simp] theorem fallBehind_notice_frozenStoreErrors (s : State) : (fallBehind s).notice.frozenStoreErrors = s.notice.frozenStoreErrors := by
  unfold fallBehind; dsimp only; (repeat' split) <;> simp
@[simp] theorem retest_notice_frozen (s : State) : (retest s).notice.frozen = s.notice.frozen := by
  unfold retest; (repeat' split) <;> simp
@[simp] theorem retest_notice_faultRecord (s : State) : (retest s).notice.faultRecord = s.notice.faultRecord := by
  unfold retest; (repeat' split) <;> simp
@[simp] theorem retest_notice_secondFault (s : State) : (retest s).notice.secondFault = s.notice.secondFault := by
  unfold retest; (repeat' split) <;> simp
@[simp] theorem retest_notice_enables (s : State) : (retest s).notice.enables = s.notice.enables := by
  unfold retest; (repeat' split) <;> simp
@[simp] theorem retest_notice_frozenStoreErrors (s : State) : (retest s).notice.frozenStoreErrors = s.notice.frozenStoreErrors := by
  unfold retest; (repeat' split) <;> simp
@[simp] theorem takeSwitch_notice_frozen (s : State) : (takeSwitch s).notice.frozen = s.notice.frozen := by
  unfold takeSwitch; (repeat' split) <;> simp
@[simp] theorem takeSwitch_notice_faultRecord (s : State) : (takeSwitch s).notice.faultRecord = s.notice.faultRecord := by
  unfold takeSwitch; (repeat' split) <;> simp
@[simp] theorem takeSwitch_notice_secondFault (s : State) : (takeSwitch s).notice.secondFault = s.notice.secondFault := by
  unfold takeSwitch; (repeat' split) <;> simp
@[simp] theorem takeSwitch_notice_enables (s : State) : (takeSwitch s).notice.enables = s.notice.enables := by
  unfold takeSwitch; (repeat' split) <;> simp
@[simp] theorem takeSwitch_notice_frozenStoreErrors (s : State) : (takeSwitch s).notice.frozenStoreErrors = s.notice.frozenStoreErrors := by
  unfold takeSwitch; (repeat' split) <;> simp
@[simp] theorem endHalting_notice_frozen (s : State) : (endHalting s).notice.frozen = s.notice.frozen := by
  simp [endHalting]
@[simp] theorem endHalting_notice_faultRecord (s : State) : (endHalting s).notice.faultRecord = s.notice.faultRecord := by
  simp [endHalting]
@[simp] theorem endHalting_notice_secondFault (s : State) : (endHalting s).notice.secondFault = s.notice.secondFault := by
  simp [endHalting]
@[simp] theorem endHalting_notice_enables (s : State) : (endHalting s).notice.enables = s.notice.enables := by
  simp [endHalting]
@[simp] theorem endHalting_notice_frozenStoreErrors (s : State) : (endHalting s).notice.frozenStoreErrors = s.notice.frozenStoreErrors := by
  simp [endHalting]
@[simp] theorem tickBoundary_notice_frozen (s : State) : (tickBoundary s).notice.frozen = s.notice.frozen := by
  unfold tickBoundary; (repeat' split) <;> simp
@[simp] theorem tickBoundary_notice_faultRecord (s : State) : (tickBoundary s).notice.faultRecord = s.notice.faultRecord := by
  unfold tickBoundary; (repeat' split) <;> simp
@[simp] theorem tickBoundary_notice_secondFault (s : State) : (tickBoundary s).notice.secondFault = s.notice.secondFault := by
  unfold tickBoundary; (repeat' split) <;> simp
@[simp] theorem tickBoundary_notice_enables (s : State) : (tickBoundary s).notice.enables = s.notice.enables := by
  unfold tickBoundary; (repeat' split) <;> simp
@[simp] theorem tickBoundary_notice_frozenStoreErrors (s : State) : (tickBoundary s).notice.frozenStoreErrors = s.notice.frozenStoreErrors := by
  unfold tickBoundary; (repeat' split) <;> simp
@[simp] theorem deliver_notice_frozen (r : TickResult) (s : State) : (deliver r s).notice.frozen = s.notice.frozen := by
  simp [deliver]
@[simp] theorem deliver_notice_faultRecord (r : TickResult) (s : State) : (deliver r s).notice.faultRecord = s.notice.faultRecord := by
  simp [deliver]
@[simp] theorem deliver_notice_secondFault (r : TickResult) (s : State) : (deliver r s).notice.secondFault = s.notice.secondFault := by
  simp [deliver]
@[simp] theorem deliver_notice_enables (r : TickResult) (s : State) : (deliver r s).notice.enables = s.notice.enables := by
  simp [deliver]
@[simp] theorem deliver_notice_frozenStoreErrors (r : TickResult) (s : State) : (deliver r s).notice.frozenStoreErrors = s.notice.frozenStoreErrors := by
  simp [deliver]
@[simp] theorem tickResultDelivery_notice_frozen (s : State) : (tickResultDelivery s).notice.frozen = s.notice.frozen := by
  unfold tickResultDelivery; dsimp only; (repeat' split) <;> simp
@[simp] theorem tickResultDelivery_notice_faultRecord (s : State) : (tickResultDelivery s).notice.faultRecord = s.notice.faultRecord := by
  unfold tickResultDelivery; dsimp only; (repeat' split) <;> simp
@[simp] theorem tickResultDelivery_notice_secondFault (s : State) : (tickResultDelivery s).notice.secondFault = s.notice.secondFault := by
  unfold tickResultDelivery; dsimp only; (repeat' split) <;> simp
@[simp] theorem tickResultDelivery_notice_enables (s : State) : (tickResultDelivery s).notice.enables = s.notice.enables := by
  unfold tickResultDelivery; dsimp only; (repeat' split) <;> simp
@[simp] theorem tickResultDelivery_notice_frozenStoreErrors (s : State) : (tickResultDelivery s).notice.frozenStoreErrors = s.notice.frozenStoreErrors := by
  unfold tickResultDelivery; dsimp only; (repeat' split) <;> simp
@[simp] theorem clearScanEffect_notice_frozen (s : State) : (clearScanEffect s).notice.frozen = s.notice.frozen := by
  unfold clearScanEffect; (repeat' split) <;> simp
@[simp] theorem clearScanEffect_notice_faultRecord (s : State) : (clearScanEffect s).notice.faultRecord = s.notice.faultRecord := by
  unfold clearScanEffect; (repeat' split) <;> simp
@[simp] theorem clearScanEffect_notice_secondFault (s : State) : (clearScanEffect s).notice.secondFault = s.notice.secondFault := by
  unfold clearScanEffect; (repeat' split) <;> simp
@[simp] theorem clearScanEffect_notice_enables (s : State) : (clearScanEffect s).notice.enables = s.notice.enables := by
  unfold clearScanEffect; (repeat' split) <;> simp
@[simp] theorem clearScanEffect_notice_frozenStoreErrors (s : State) : (clearScanEffect s).notice.frozenStoreErrors = s.notice.frozenStoreErrors := by
  unfold clearScanEffect; (repeat' split) <;> simp
@[simp] theorem clearScan_notice_frozen (c : Held) (s : State) : (clearScan c s).notice.frozen = s.notice.frozen := by
  unfold clearScan; (repeat' split) <;> simp
@[simp] theorem clearScan_notice_faultRecord (c : Held) (s : State) : (clearScan c s).notice.faultRecord = s.notice.faultRecord := by
  unfold clearScan; (repeat' split) <;> simp
@[simp] theorem clearScan_notice_secondFault (c : Held) (s : State) : (clearScan c s).notice.secondFault = s.notice.secondFault := by
  unfold clearScan; (repeat' split) <;> simp
@[simp] theorem clearScan_notice_enables (c : Held) (s : State) : (clearScan c s).notice.enables = s.notice.enables := by
  unfold clearScan; (repeat' split) <;> simp
@[simp] theorem clearScan_notice_frozenStoreErrors (c : Held) (s : State) : (clearScan c s).notice.frozenStoreErrors = s.notice.frozenStoreErrors := by
  unfold clearScan; (repeat' split) <;> simp
@[simp] theorem afterCompletion_notice_frozen (c : Bool) (s : State) : (afterCompletion c s).notice.frozen = s.notice.frozen := by
  unfold afterCompletion; (repeat' split) <;> simp
@[simp] theorem afterCompletion_notice_faultRecord (c : Bool) (s : State) : (afterCompletion c s).notice.faultRecord = s.notice.faultRecord := by
  unfold afterCompletion; (repeat' split) <;> simp
@[simp] theorem afterCompletion_notice_secondFault (c : Bool) (s : State) : (afterCompletion c s).notice.secondFault = s.notice.secondFault := by
  unfold afterCompletion; (repeat' split) <;> simp
@[simp] theorem afterCompletion_notice_enables (c : Bool) (s : State) : (afterCompletion c s).notice.enables = s.notice.enables := by
  unfold afterCompletion; (repeat' split) <;> simp
@[simp] theorem afterCompletion_notice_frozenStoreErrors (c : Bool) (s : State) : (afterCompletion c s).notice.frozenStoreErrors = s.notice.frozenStoreErrors := by
  unfold afterCompletion; (repeat' split) <;> simp
@[simp] theorem acceptBlock_notice_frozen (l : Nat) (k : Block) (x : Lane) (s : State) : (acceptBlock l k x s).notice.frozen = s.notice.frozen := by
  simp [acceptBlock]
@[simp] theorem acceptBlock_notice_faultRecord (l : Nat) (k : Block) (x : Lane) (s : State) : (acceptBlock l k x s).notice.faultRecord = s.notice.faultRecord := by
  simp [acceptBlock]
@[simp] theorem acceptBlock_notice_secondFault (l : Nat) (k : Block) (x : Lane) (s : State) : (acceptBlock l k x s).notice.secondFault = s.notice.secondFault := by
  simp [acceptBlock]
@[simp] theorem acceptBlock_notice_enables (l : Nat) (k : Block) (x : Lane) (s : State) : (acceptBlock l k x s).notice.enables = s.notice.enables := by
  simp [acceptBlock]
@[simp] theorem acceptBlock_notice_frozenStoreErrors (l : Nat) (k : Block) (x : Lane) (s : State) : (acceptBlock l k x s).notice.frozenStoreErrors = s.notice.frozenStoreErrors := by
  simp [acceptBlock]
@[simp] theorem takeBlock_notice_frozen (k : Block) (s : State) : (takeBlock k s).notice.frozen = s.notice.frozen := by
  unfold takeBlock; (repeat' split) <;> simp
@[simp] theorem takeBlock_notice_faultRecord (k : Block) (s : State) : (takeBlock k s).notice.faultRecord = s.notice.faultRecord := by
  unfold takeBlock; (repeat' split) <;> simp
@[simp] theorem takeBlock_notice_secondFault (k : Block) (s : State) : (takeBlock k s).notice.secondFault = s.notice.secondFault := by
  unfold takeBlock; (repeat' split) <;> simp
@[simp] theorem takeBlock_notice_enables (k : Block) (s : State) : (takeBlock k s).notice.enables = s.notice.enables := by
  unfold takeBlock; (repeat' split) <;> simp
@[simp] theorem takeBlock_notice_frozenStoreErrors (k : Block) (s : State) : (takeBlock k s).notice.frozenStoreErrors = s.notice.frozenStoreErrors := by
  unfold takeBlock; (repeat' split) <;> simp
@[simp] theorem acceptedBlock_notice_frozen (l : Nat) (s : State) : (acceptedBlock l s).notice.frozen = s.notice.frozen := by
  unfold acceptedBlock; (repeat' split) <;> simp
@[simp] theorem acceptedBlock_notice_faultRecord (l : Nat) (s : State) : (acceptedBlock l s).notice.faultRecord = s.notice.faultRecord := by
  unfold acceptedBlock; (repeat' split) <;> simp
@[simp] theorem acceptedBlock_notice_secondFault (l : Nat) (s : State) : (acceptedBlock l s).notice.secondFault = s.notice.secondFault := by
  unfold acceptedBlock; (repeat' split) <;> simp
@[simp] theorem acceptedBlock_notice_enables (l : Nat) (s : State) : (acceptedBlock l s).notice.enables = s.notice.enables := by
  unfold acceptedBlock; (repeat' split) <;> simp
@[simp] theorem acceptedBlock_notice_frozenStoreErrors (l : Nat) (s : State) : (acceptedBlock l s).notice.frozenStoreErrors = s.notice.frozenStoreErrors := by
  unfold acceptedBlock; (repeat' split) <;> simp
@[simp] theorem laneTimerExpiry_notice_frozen (l : Nat) (s : State) : (laneTimerExpiry l s).notice.frozen = s.notice.frozen := by
  unfold laneTimerExpiry; (repeat' split) <;> simp
@[simp] theorem laneTimerExpiry_notice_faultRecord (l : Nat) (s : State) : (laneTimerExpiry l s).notice.faultRecord = s.notice.faultRecord := by
  unfold laneTimerExpiry; (repeat' split) <;> simp
@[simp] theorem laneTimerExpiry_notice_secondFault (l : Nat) (s : State) : (laneTimerExpiry l s).notice.secondFault = s.notice.secondFault := by
  unfold laneTimerExpiry; (repeat' split) <;> simp
@[simp] theorem laneTimerExpiry_notice_enables (l : Nat) (s : State) : (laneTimerExpiry l s).notice.enables = s.notice.enables := by
  unfold laneTimerExpiry; (repeat' split) <;> simp
@[simp] theorem laneTimerExpiry_notice_frozenStoreErrors (l : Nat) (s : State) : (laneTimerExpiry l s).notice.frozenStoreErrors = s.notice.frozenStoreErrors := by
  unfold laneTimerExpiry; (repeat' split) <;> simp
@[simp] theorem lineSilenceExpiry_notice_frozen (s : State) : (lineSilenceExpiry s).notice.frozen = s.notice.frozen := by
  unfold lineSilenceExpiry; (repeat' split) <;> simp
@[simp] theorem lineSilenceExpiry_notice_faultRecord (s : State) : (lineSilenceExpiry s).notice.faultRecord = s.notice.faultRecord := by
  unfold lineSilenceExpiry; (repeat' split) <;> simp
@[simp] theorem lineSilenceExpiry_notice_secondFault (s : State) : (lineSilenceExpiry s).notice.secondFault = s.notice.secondFault := by
  unfold lineSilenceExpiry; (repeat' split) <;> simp
@[simp] theorem lineSilenceExpiry_notice_enables (s : State) : (lineSilenceExpiry s).notice.enables = s.notice.enables := by
  unfold lineSilenceExpiry; (repeat' split) <;> simp
@[simp] theorem lineSilenceExpiry_notice_frozenStoreErrors (s : State) : (lineSilenceExpiry s).notice.frozenStoreErrors = s.notice.frozenStoreErrors := by
  unfold lineSilenceExpiry; (repeat' split) <;> simp
@[simp] theorem waitTimerExpiry_notice_frozen (s : State) : (waitTimerExpiry s).notice.frozen = s.notice.frozen := by
  unfold waitTimerExpiry; (repeat' split) <;> simp
@[simp] theorem waitTimerExpiry_notice_faultRecord (s : State) : (waitTimerExpiry s).notice.faultRecord = s.notice.faultRecord := by
  unfold waitTimerExpiry; (repeat' split) <;> simp
@[simp] theorem waitTimerExpiry_notice_secondFault (s : State) : (waitTimerExpiry s).notice.secondFault = s.notice.secondFault := by
  unfold waitTimerExpiry; (repeat' split) <;> simp
@[simp] theorem waitTimerExpiry_notice_enables (s : State) : (waitTimerExpiry s).notice.enables = s.notice.enables := by
  unfold waitTimerExpiry; (repeat' split) <;> simp
@[simp] theorem waitTimerExpiry_notice_frozenStoreErrors (s : State) : (waitTimerExpiry s).notice.frozenStoreErrors = s.notice.frozenStoreErrors := by
  unfold waitTimerExpiry; (repeat' split) <;> simp
@[simp] theorem loseLanes_notice_frozen (s : State) : (loseLanes s).notice.frozen = s.notice.frozen := by
  simp [loseLanes]
@[simp] theorem loseLanes_notice_faultRecord (s : State) : (loseLanes s).notice.faultRecord = s.notice.faultRecord := by
  simp [loseLanes]
@[simp] theorem loseLanes_notice_secondFault (s : State) : (loseLanes s).notice.secondFault = s.notice.secondFault := by
  simp [loseLanes]
@[simp] theorem loseLanes_notice_enables (s : State) : (loseLanes s).notice.enables = s.notice.enables := by
  simp [loseLanes]
@[simp] theorem loseLanes_notice_frozenStoreErrors (s : State) : (loseLanes s).notice.frozenStoreErrors = s.notice.frozenStoreErrors := by
  simp [loseLanes]
@[simp] theorem changeEffects_notice_frozen (r t : Bool) (s : State) : (changeEffects r t s).notice.frozen = s.notice.frozen := by
  unfold changeEffects clearRings clearTicks; dsimp only; (repeat' split) <;> simp
@[simp] theorem changeEffects_notice_faultRecord (r t : Bool) (s : State) : (changeEffects r t s).notice.faultRecord = s.notice.faultRecord := by
  unfold changeEffects clearRings clearTicks; dsimp only; (repeat' split) <;> simp
@[simp] theorem changeEffects_notice_secondFault (r t : Bool) (s : State) : (changeEffects r t s).notice.secondFault = s.notice.secondFault := by
  unfold changeEffects clearRings clearTicks; dsimp only; (repeat' split) <;> simp
@[simp] theorem changeEffects_notice_enables (r t : Bool) (s : State) : (changeEffects r t s).notice.enables = s.notice.enables := by
  unfold changeEffects clearRings clearTicks; dsimp only; (repeat' split) <;> simp
@[simp] theorem changeEffects_notice_frozenStoreErrors (r t : Bool) (s : State) : (changeEffects r t s).notice.frozenStoreErrors = s.notice.frozenStoreErrors := by
  unfold changeEffects clearRings clearTicks; dsimp only; (repeat' split) <;> simp
@[simp] theorem setParameters_notice_frozen (c : Held) (s : State) : (setParameters c s).notice.frozen = s.notice.frozen := by
  unfold setParameters; dsimp only; (repeat' split) <;> simp
@[simp] theorem setParameters_notice_faultRecord (c : Held) (s : State) : (setParameters c s).notice.faultRecord = s.notice.faultRecord := by
  unfold setParameters; dsimp only; (repeat' split) <;> simp
@[simp] theorem setParameters_notice_secondFault (c : Held) (s : State) : (setParameters c s).notice.secondFault = s.notice.secondFault := by
  unfold setParameters; dsimp only; (repeat' split) <;> simp
@[simp] theorem setParameters_notice_enables (c : Held) (s : State) : (setParameters c s).notice.enables = s.notice.enables := by
  unfold setParameters; dsimp only; (repeat' split) <;> simp
@[simp] theorem setParameters_notice_frozenStoreErrors (c : Held) (s : State) : (setParameters c s).notice.frozenStoreErrors = s.notice.frozenStoreErrors := by
  unfold setParameters; dsimp only; (repeat' split) <;> simp
@[simp] theorem replaceMap_notice_frozen (es : List (Nat × LaneEntry × Nat)) (s : State) : (replaceMap es s).notice.frozen = s.notice.frozen := by
  simp [replaceMap]
@[simp] theorem replaceMap_notice_faultRecord (es : List (Nat × LaneEntry × Nat)) (s : State) : (replaceMap es s).notice.faultRecord = s.notice.faultRecord := by
  simp [replaceMap]
@[simp] theorem replaceMap_notice_secondFault (es : List (Nat × LaneEntry × Nat)) (s : State) : (replaceMap es s).notice.secondFault = s.notice.secondFault := by
  simp [replaceMap]
@[simp] theorem replaceMap_notice_enables (es : List (Nat × LaneEntry × Nat)) (s : State) : (replaceMap es s).notice.enables = s.notice.enables := by
  simp [replaceMap]
@[simp] theorem replaceMap_notice_frozenStoreErrors (es : List (Nat × LaneEntry × Nat)) (s : State) : (replaceMap es s).notice.frozenStoreErrors = s.notice.frozenStoreErrors := by
  simp [replaceMap]
@[simp] theorem loadLaneMap_notice_frozen (c : Held) (s : State) : (loadLaneMap c s).notice.frozen = s.notice.frozen := by
  unfold loadLaneMap; dsimp only; (repeat' split) <;> simp
@[simp] theorem loadLaneMap_notice_faultRecord (c : Held) (s : State) : (loadLaneMap c s).notice.faultRecord = s.notice.faultRecord := by
  unfold loadLaneMap; dsimp only; (repeat' split) <;> simp
@[simp] theorem loadLaneMap_notice_secondFault (c : Held) (s : State) : (loadLaneMap c s).notice.secondFault = s.notice.secondFault := by
  unfold loadLaneMap; dsimp only; (repeat' split) <;> simp
@[simp] theorem loadLaneMap_notice_enables (c : Held) (s : State) : (loadLaneMap c s).notice.enables = s.notice.enables := by
  unfold loadLaneMap; dsimp only; (repeat' split) <;> simp
@[simp] theorem loadLaneMap_notice_frozenStoreErrors (c : Held) (s : State) : (loadLaneMap c s).notice.frozenStoreErrors = s.notice.frozenStoreErrors := by
  unfold loadLaneMap; dsimp only; (repeat' split) <;> simp
@[simp] theorem setLane_notice_frozen (c : Held) (s : State) : (setLane c s).notice.frozen = s.notice.frozen := by
  unfold setLane; dsimp only; (repeat' split) <;> simp
@[simp] theorem setLane_notice_faultRecord (c : Held) (s : State) : (setLane c s).notice.faultRecord = s.notice.faultRecord := by
  unfold setLane; dsimp only; (repeat' split) <;> simp
@[simp] theorem setLane_notice_secondFault (c : Held) (s : State) : (setLane c s).notice.secondFault = s.notice.secondFault := by
  unfold setLane; dsimp only; (repeat' split) <;> simp
@[simp] theorem setLane_notice_enables (c : Held) (s : State) : (setLane c s).notice.enables = s.notice.enables := by
  unfold setLane; dsimp only; (repeat' split) <;> simp
@[simp] theorem setLane_notice_frozenStoreErrors (c : Held) (s : State) : (setLane c s).notice.frozenStoreErrors = s.notice.frozenStoreErrors := by
  unfold setLane; dsimp only; (repeat' split) <;> simp
@[simp] theorem startScan_notice_frozen (c : Held) (s : State) : (startScan c s).notice.frozen = s.notice.frozen := by
  unfold startScan; dsimp only; (repeat' split) <;> simp
@[simp] theorem startScan_notice_faultRecord (c : Held) (s : State) : (startScan c s).notice.faultRecord = s.notice.faultRecord := by
  unfold startScan; dsimp only; (repeat' split) <;> simp
@[simp] theorem startScan_notice_secondFault (c : Held) (s : State) : (startScan c s).notice.secondFault = s.notice.secondFault := by
  unfold startScan; dsimp only; (repeat' split) <;> simp
@[simp] theorem startScan_notice_enables (c : Held) (s : State) : (startScan c s).notice.enables = s.notice.enables := by
  unfold startScan; dsimp only; (repeat' split) <;> simp
@[simp] theorem startScan_notice_frozenStoreErrors (c : Held) (s : State) : (startScan c s).notice.frozenStoreErrors = s.notice.frozenStoreErrors := by
  unfold startScan; dsimp only; (repeat' split) <;> simp

end Sys2Proof.Machine
end

