-- ==== Sys2Proof/Laws/Exec.lean ====
section
/-! SUPPORT. What a step of each form can do, said once: a property that the parts of a step keep is kept by the step. -/

namespace Sys2Proof.Machine

set_option Elab.async false

theorem live_next (f : State → State) (s : State) : live f s = .next (if s.resetHeld then s else f s) := rfl

theorem live_of_free (f : State → State) (s : State) (h : s.resetHeld = false) : live f s = .next (f s) := by
  simp [live, h]

theorem live_keeps {P : State → Prop} {f : State → State} {s t : State} (hf : P s → P (f s)) (hs : P s)
    (h : live f s = .next t) : P t := by
  unfold live at h
  injection h with h
  subst h
  split
  · exact hs
  · exact hf hs

theorem liveLine_keeps {P : State → Prop} {f : State → State} {s t : State} (hl : ∀ u, P u → P (settleLine u))
    (hf : P s → P (f s)) (hs : P s) (h : liveLine f s = .next t) : P t :=
  live_keeps (f := fun u => settleLine (f u)) (fun hs' => hl _ (hf hs')) hs h

theorem checked_keeps {P : State → Prop} {fits : Held → Bool} {served : Bool} {body : Held → State → State} {c : Held}
    {s : State} (ha : ∀ k x, P (answer k x s)) (hb : (s.notice.frozen = true → served = true) → P (body c s)) :
    P (checked fits served body c s) := by
  unfold checked
  split
  · exact ha _ _
  · split
    · exact ha _ _
    · apply hb
      intro hf
      simp_all

theorem beginHeld_keeps {P : State → Prop} {mine : Held → Bool} {body : Held → State → State} {s : State}
    (hb : ∀ c rest, s.cmd.executing = none → s.cmd.held = c :: rest → P (body c s)) (hs : P s) :
    P (beginHeld mine body s) := by
  unfold beginHeld
  split
  · split
    · exact hb _ _ ‹_› ‹_›
    · exact hs
  · exact hs

/-- A property that the line's settling, a reply and the command's own handling keep is kept by the command. -/
theorem runCommand_keeps {P : State → Prop} {code : Nat} {fits : Held → Bool} {served : Bool}
    {body : Held → State → State} {s t : State} (hl : ∀ u, P u → P (settleLine u)) (ha : ∀ k x, P (answer k x s))
    (hb : ∀ c rest, s.cmd.executing = none → s.cmd.held = c :: rest → (s.notice.frozen = true → served = true) →
      P (body c s))
    (hs : P s) (h : runCommand code fits served body s = .next t) : P t :=
  liveLine_keeps hl (fun hs => beginHeld_keeps (fun c rest he hh => checked_keeps ha (hb c rest he hh)) hs) hs h

/-! ## A command in two parts -/

/-- What a row that is no engine command does to a live engine, less the settling of the line. -/
def eventBody (i : Instr) (s : State) : State :=
  match i with
  | .upstreamFrameReceived f => upstreamFrame f s
  | .sampleFrameProcessing => processFrame s
  | .acceptedBlock lane => acceptedBlock lane s
  | .laneTimerExpiry lane => laneTimerExpiry lane s
  | .lineSilenceExpiry => lineSilenceExpiry s
  | .downstreamFrameReceived f => downstreamFrame f s
  | .holdReceived => s.setLine { s.line with hold := true }
  | .holdReleaseReceived => s.setLine { s.line with hold := false }
  | .downstreamTransmitEnd => s.setLine s.line.downstreamSent
  | .upstreamTransmitEnd => s.setLine s.line.upstreamSent.sendUp
  | .noticeFrame => placeNotice s
  | .endOfValidation => endOfValidation s
  | .snippetFramePlaced => snippetFramePlaced s
  | .hotStartCompletion => hotStartCompletion s
  | .tickScanBegin => tickScanBegin s
  | .voxelEvaluation => voxelEvaluation s
  | .tickResultDelivery => tickResultDelivery s
  | .closeCompletion => closeCompletion s
  | .waitTimerExpiry => waitTimerExpiry s
  | .copyStep => copyStep s
  | _ => s

/-- A command's own handling (R159, check 4). -/
def commandBody (i : Instr) (c : Held) (s : State) : State :=
  match i with
  | .setAddress => setAddress c s
  | .readPortCounters => readPortCounters c s
  | .readStatus => readStatus c s
  | .setParameters => setParameters c s
  | .readParameters => readParameters c s
  | .loadLaneMap => loadLaneMap c s
  | .setLane => setLane c s
  | .readLane => readLane c s
  | .readLaneChanges => readLaneChanges c s
  | .beginBankLoad => beginBankLoad c s
  | .loadRows => loadRows c s
  | .endBankLoad => endBankLoad c s
  | .switchBank => switchBank c s
  | .readBank => readBank c s
  | .readRow => readRow c s
  | .startScan => startScan c s
  | .haltScan => haltScan c s
  | .clearScan => clearScan c s
  | .readScan => readScan c s
  | .readDetector => readDetector c s
  | .fetchEvent => fetchEvent c s
  | .readSnippet => readSnippet c s
  | .releaseEvent => releaseEvent c s
  | .readNotices => readNotices c s
  | .clearNotices => clearNotices c s
  | .setNoticeMask => setNoticeMask c s
  | .readFault => readFault c s
  | .clearFault => clearFault c s
  | .restart => hotStart c s
  | _ => s

/-- A command row runs its own handling after the checks of R159. -/
theorem exec_command (i : Instr) (s : State) (code : Nat) (h : commandCode i = some code) :
    exec i s = runCommand code (paramsFit i) (!refusedFrozen i) (commandBody i) s := by
  cases i <;> simp only [commandCode, reduceCtorEq, Option.some.injEq] at h <;> subst h <;> rfl

/-- A property is kept by every row's execution when the line's settling, a reply, and each row's own part keep it. -/
theorem exec_keeps {P : State → Prop} {i : Instr} {s t : State} (hl : ∀ u, P u → P (settleLine u))
    (ha : ∀ k x, P (answer k x s)) (hs : P s) (he : P (eventBody i s))
    (hc : ∀ c rest, s.cmd.executing = none → s.cmd.held = c :: rest →
      (s.notice.frozen = true → refusedFrozen i = false) → P (commandBody i c s))
    (hcold : ∀ cause, i = .coldStart cause → P (coldStart cause s)) (hrel : i = .resetLineReleased → P (s.setResetHeld false))
    (h : exec i s = .next t) : P t := by
  by_cases hi : ∃ code, commandCode i = some code
  · obtain ⟨code, hi⟩ := hi
    rw [exec_command i s code hi] at h
    refine runCommand_keeps hl ha (fun c rest h1 h2 h3 => hc c rest h1 h2 ?_) hs h
    simpa using h3
  · cases i <;> simp only [commandCode, Option.some.injEq, exists_eq', not_true_eq_false, reduceCtorEq, exists_false,
      not_false_eq_true] at hi
    all_goals simp only [exec] at h
    case coldStart cause => injection h with h; subst h; exact hcold cause rfl
    case resetLineReleased => injection h with h; subst h; exact hrel rfl
    case unknownCommandCode =>
      exact liveLine_keeps hl (fun hs => beginHeld_keeps (fun _ _ _ _ => ha _ _) hs) hs h
    case upstreamFrameReceived => exact liveLine_keeps hl (fun _ => he) hs h
    case downstreamFrameReceived => exact liveLine_keeps hl (fun _ => he) hs h
    case holdReleaseReceived => exact liveLine_keeps hl (fun _ => he) hs h
    case downstreamTransmitEnd => exact liveLine_keeps hl (fun _ => he) hs h
    case noticeFrame => exact liveLine_keeps hl (fun _ => he) hs h
    case endOfValidation => exact liveLine_keeps hl (fun _ => he) hs h
    case snippetFramePlaced => exact liveLine_keeps hl (fun _ => he) hs h
    case hotStartCompletion => exact liveLine_keeps hl (fun _ => he) hs h
    case voxelEvaluation => exact liveLine_keeps hl (fun _ => he) hs h
    case tickResultDelivery => exact liveLine_keeps hl (fun _ => he) hs h
    case closeCompletion => exact liveLine_keeps hl (fun _ => he) hs h
    case copyStep => exact liveLine_keeps hl (fun _ => he) hs h
    all_goals exact live_keeps (fun _ => he) hs h

end Sys2Proof.Machine
end

