-- ==== Sys2Proof/Laws/Queues.lean ====
section
/-! SUPPORT. The depths of the line's queues and of the Event Queue: what each shared operation does to them. -/

namespace Sys2Proof.Machine

/-- The four bounds of the line (R147, R148, R149). -/
structure LineBounded (l : Line) : Prop where
  forwarding : l.fwd.length ≤ Config.forwardingDepth
  upward : l.up.length ≤ Config.upwardDepth
  own : l.own.length ≤ Config.ownDepth
  run : l.sinceOwn ≤ Config.forwardedRun

theorem bounded_arbitrate {l : Line} (h : LineBounded l) : LineBounded l.arbitrate := by
  obtain ⟨h1, h2, h3, h4⟩ := h
  unfold Line.arbitrate
  repeat' split
  all_goals first
    | exact ⟨h1, h2, h3, h4⟩
    | (simp_all only [List.length_cons, List.length_nil]
       refine ⟨?_, ?_, ?_, ?_⟩ <;> simp <;> omega)

theorem room_lt {l : Line} (h : l.room = true) : l.own.length < Config.ownDepth := by
  simpa [Line.room] using h

theorem mayPlace_room {l : Line} {p : Producer} (h : l.mayPlace p = true) : l.own.length < Config.ownDepth := by
  unfold Line.mayPlace at h
  exact room_lt (by simp_all)

theorem bounded_own {l : Line} (f : Bytes) (w : List Producer) (a : Option Bytes) (h : LineBounded l)
    (hr : l.own.length < Config.ownDepth) :
    LineBounded { l with own := l.own ++ [f], waiters := w, waitingAnswer := a } :=
  ⟨h.forwarding, h.upward, by simpa using hr, h.run⟩

theorem bounded_placeOneWaiter {s : State} (h : LineBounded s.line) : LineBounded (placeOneWaiter s).line := by
  unfold placeOneWaiter
  split
  · rename_i hr
    have hr := room_lt hr
    repeat' split
    all_goals first
      | exact h
      | exact bounded_own _ _ _ h hr
  · exact h

theorem bounded_settleLine {s : State} (h : LineBounded s.line) : LineBounded (settleLine s).line := by
  have hw : ∀ u : State, LineBounded u.line → LineBounded (placeWaiters u).line := fun u hu =>
    bounded_placeOneWaiter (bounded_placeOneWaiter (bounded_placeOneWaiter hu))
  unfold settleLine
  apply hw
  unfold arbitrate
  exact bounded_arbitrate (hw _ h)

theorem bounded_answer {s : State} (k : ReplyCode) (x : Bytes) (h : LineBounded s.line) :
    LineBounded (answer k x s).line := by
  unfold answer
  split
  · exact h
  · split
    · rename_i hm
      exact bounded_own _ _ _ h (mayPlace_room hm)
    · exact ⟨h.forwarding, h.upward, h.own, h.run⟩

theorem held_placeOneWaiter (s : State) : (placeOneWaiter s).cmd.held.length ≤ s.cmd.held.length := by
  unfold placeOneWaiter
  repeat' split
  all_goals first | exact le_refl _ | simp [placeReply]

theorem held_settleLine (s : State) : (settleLine s).cmd.held.length ≤ s.cmd.held.length := by
  have hw : ∀ u : State, (placeWaiters u).cmd.held.length ≤ u.cmd.held.length := fun u =>
    le_trans (held_placeOneWaiter _) (le_trans (held_placeOneWaiter _) (held_placeOneWaiter _))
  unfold settleLine
  refine le_trans (hw _) ?_
  rw [arbitrate_cmd]
  exact hw s

theorem held_answer (k : ReplyCode) (x : Bytes) (s : State) : (answer k x s).cmd.held.length ≤ s.cmd.held.length := by
  unfold answer
  repeat' split
  all_goals first | exact le_refl _ | simp [placeReply]

theorem bounded_freezeCommand {s : State} (h : LineBounded s.line) : LineBounded (freezeCommand s).line := by
  unfold freezeCommand
  repeat' split
  all_goals first | exact bounded_answer _ _ h | exact h

theorem held_freezeCommand (s : State) : (freezeCommand s).cmd.held.length ≤ s.cmd.held.length := by
  unfold freezeCommand
  repeat' split
  all_goals first | exact held_answer _ _ _ | exact le_refl _

theorem bounded_takeFault {s : State} (a : Activity) (p : FaultPlace) (h : LineBounded s.line) :
    LineBounded (takeFault a p s).line := by
  unfold takeFault enterFrozen
  dsimp only
  repeat' split
  all_goals first | exact h | exact bounded_freezeCommand (by simpa using h)

theorem held_takeFault (a : Activity) (p : FaultPlace) (s : State) :
    (takeFault a p s).cmd.held.length ≤ s.cmd.held.length := by
  unfold takeFault enterFrozen
  dsimp only
  repeat' split
  all_goals first | exact le_refl _ | exact le_trans (held_freezeCommand _) (by simp)

/-! ## The length of the Event Queue -/

@[simp] theorem length_modifyFirst {α : Type} (p : α → Bool) (f : α → α) (l : List α) :
    (modifyFirst p f l).length = l.length := by
  induction l with
  | nil => rfl
  | cons x xs ih => unfold modifyFirst; split <;> simp [ih]

@[simp] theorem length_markOverflow (q : List EventRecord) : (markOverflow q).length = q.length := by
  induction q with
  | nil => rfl
  | cons r rs ih => cases rs <;> simp_all [markOverflow]

@[simp] theorem length_waitTest (s : State) : (waitTest s).queue.length = s.queue.length := by
  have h : ∀ n (u : State), (serveCandidate n u).queue.length = u.queue.length := by
    intro n
    induction n with
    | zero => intro u; rfl
    | succ n ih =>
      intro u
      unfold serveCandidate
      repeat' split
      all_goals simp [ih, refuseCapture, beginCapture]
  exact h _ _

@[simp] theorem length_waitTestFor (lane : Nat) (s : State) : (waitTestFor lane s).queue.length = s.queue.length := by
  unfold waitTestFor
  split <;> simp

@[simp] theorem length_takeFault_planning (p : FaultPlace) (s : State) :
    (takeFault .planning p s).queue.length = s.queue.length := by
  unfold takeFault enterFrozen
  simp only [freezeClose_planning]
  repeat' split
  all_goals simp [abortCaptures]

@[simp] theorem length_appendRecord (r : EventRecord) (s : State) :
    (appendRecord r s).queue.length = s.queue.length + 1 := by
  unfold appendRecord
  dsimp only
  repeat' split
  all_goals simp

@[simp] theorem length_updateCapturing (f : EventRecord → EventRecord) (s : State) :
    (updateCapturing f s).queue.length = s.queue.length := by
  simp [updateCapturing]

@[simp] theorem length_endCapture (e : Bool) (s : State) : (endCapture e s).queue.length = s.queue.length := by
  simp [endCapture]

theorem length_walkPlan (m : Maximum) (c : CaptureParams) (ps : List (Nat × Nat)) (n : Nat) (s : State) :
    (walkPlan m c ps n s).2.queue.length = s.queue.length := by
  have hp : ∀ lane (u : State), (planRead m lane u).2.queue.length = u.queue.length := by
    intro lane u
    unfold planRead
    dsimp only
    repeat' split
    all_goals simp
  induction ps generalizing n s with
  | nil => rfl
  | cons p ps ih =>
    unfold walkPlan
    split
    · rfl
    · have h := hp p.1 s
      rcases hr : planRead m p.1 s with ⟨d, t⟩
      rw [hr] at h
      cases d with
      | some d => simpa [ih] using h
      | none => dsimp only; split <;> simpa [ih] using h

theorem length_makePlan (c : Closing) (m : Maximum) (s : State) :
    (makePlan c m s).2.queue.length = s.queue.length := by
  unfold makePlan
  split
  · rfl
  · exact length_walkPlan ..

/-- A freeze appends the record of a close in progress at the place it has reserved, and no other (R106, R175). -/
theorem places_freezeClose (a : Activity) (s : State) : placesUsed (freezeClose a s) ≤ placesUsed s := by
  unfold freezeClose
  split
  · exact le_refl _
  · split
    · exact le_refl _
    · rename_i hc
      split
      · simp [placesUsed, appendClosed, Detector.afterClose, hc]
      · simp [placesUsed, hc]

/-- A fault takes no place of the Event Queue but the one a close in progress has reserved. -/
theorem places_takeFault (a : Activity) (p : FaultPlace) (s : State) : placesUsed (takeFault a p s) ≤ placesUsed s := by
  have hf : ∀ u : State, placesUsed (enterFrozen a u) ≤ placesUsed u := by
    intro u
    refine le_trans (b := placesUsed (freezeClose a (abortCaptures (((u.setNotice { u.notice with frozen := true }).setScan
      { u.scan with state := .frozen, tick := none }).setTracker { u.tracker with inbox := [], blocks := [] })))) ?_
      (le_trans (places_freezeClose _ _) ?_)
    · simp [placesUsed, enterFrozen]
    · simp [placesUsed, abortCaptures]
  unfold takeFault
  dsimp only
  repeat' split
  · exact le_refl _
  · exact le_trans (hf _) (by simp [placesUsed])
  · simp [placesUsed]
  · exact le_trans (hf _) (by simp [placesUsed])

/-- A close that begins reserves a place only where one is free (R106, R107). -/
theorem places_beginClose {s : State} (k : CloseReason) (t : Nat) (b : Bool)
    (h : placesUsed s ≤ Config.queueDepth) : placesUsed (beginClose k t b s) ≤ Config.queueDepth := by
  unfold placesUsed at h ⊢
  unfold beginClose
  split
  · simp only [State.queue_setDet, State.det_setDet, Option.isSome_some, if_true]
    omega
  · simp only [discardClose, setFlag_queue, setFlag_det, State.queue_setQueue, State.det_setQueue, State.det_setDet,
      length_markOverflow, Detector.afterClose, Option.isSome_none, Bool.false_eq_true, if_false]
    split at h <;> omega

theorem places_of_det {s : State} (d : Detector) (hd : d.closing = s.det.closing) (h : placesUsed s ≤ Config.queueDepth) :
    placesUsed (s.setDet d) ≤ Config.queueDepth := by
  simpa [placesUsed, hd] using h

theorem places_same {s t : State} (hq : t.queue.length = s.queue.length) (hd : t.det.closing = s.det.closing)
    (h : placesUsed s ≤ Config.queueDepth) : placesUsed t ≤ Config.queueDepth := by
  unfold placesUsed at h ⊢
  rw [hq, hd]; exact h

theorem closing_tickInQuiet (v : DetectParams) (r : TickResult) (d : Detector) :
    (tickInQuiet v r d).closing = d.closing := by
  unfold tickInQuiet openCandidate
  repeat' split
  all_goals rfl

theorem closing_tickInOnset (v : DetectParams) (r : TickResult) (run : Running) (d : Detector) :
    (tickInOnset v r run d).closing = d.closing := by
  unfold tickInOnset
  dsimp only
  repeat' split
  all_goals rfl

theorem places_takeTickResult {s : State} (r : TickResult) (h : placesUsed s ≤ Config.queueDepth) :
    placesUsed (takeTickResult r s) ≤ Config.queueDepth := by
  unfold takeTickResult
  dsimp only
  split
  · exact places_of_det _ (closing_tickInQuiet ..) h
  · exact places_of_det _ (closing_tickInOnset ..) h
  · unfold tickInDeclared
    dsimp only
    repeat' split
    · exact places_beginClose _ _ _ (places_of_det _ rfl h)
    · exact places_beginClose _ _ _ (places_of_det _ rfl h)
    · exact places_of_det _ rfl h
  · exact places_of_det _ rfl h
  · exact h

theorem places_cutOpenEvent {s : State} (k : CloseReason) (h : placesUsed s ≤ Config.queueDepth) :
    placesUsed (cutOpenEvent k s) ≤ Config.queueDepth := by
  unfold cutOpenEvent
  split
  · exact places_of_det _ rfl h
  · exact places_beginClose _ _ _ h
  · exact h

theorem places_takeOverrun {s : State} (h : placesUsed s ≤ Config.queueDepth) :
    placesUsed (takeOverrun s) ≤ Config.queueDepth := by
  unfold takeOverrun
  split
  · rename_i hc
    simpa [placesUsed, hc] using h
  · split
    · exact places_of_det _ rfl h
    · exact places_cutOpenEvent _ h

theorem places_takeSilence {s : State} (h : placesUsed s ≤ Config.queueDepth) :
    placesUsed (takeSilence s) ≤ Config.queueDepth := by
  unfold takeSilence
  split
  · exact h
  · exact places_cutOpenEvent _ h

theorem places_retest {s : State} (h : placesUsed s ≤ Config.queueDepth) : placesUsed (retest s) ≤ Config.queueDepth := by
  unfold retest fallBehind jumpCursor
  split
  · split
    · dsimp only
      split
      · rename_i t l _ _ _
        have hs : placesUsed (s.setScan { s.scan with
            cursor := some (l - activeDmax s - (scanValues s).grace)
            skippedTicks := satAdd s.scan.skippedTicks (l - activeDmax s - (scanValues s).grace - t) })
            ≤ Config.queueDepth := h
        exact places_same (by simp) (by simp) (places_takeOverrun hs)
      · exact h
    · exact h
  · exact h

/-- A completed close takes the place it had reserved (R106, R115). -/
theorem places_completeClose {s : State} (c : Closing) (run : Running) (hc : s.det.closing.isSome = true)
    (h : placesUsed s ≤ Config.queueDepth) : placesUsed (completeClose c run s) ≤ Config.queueDepth := by
  unfold placesUsed at h ⊢
  have hl := length_makePlan c run.maximum s
  simp only [hc, if_true] at h
  simp only [completeClose, appendClosed, length_appendRecord, State.queue_setDet, appendRecord_det, State.det_setDet,
    Detector.afterClose, Option.isSome_none, Bool.false_eq_true, if_false]
  omega

end Sys2Proof.Machine
end

