-- ==== Sys2Proof/Laws/Captures.lean ====
section
/-! SUPPORT. What the wait test does, once: the model's `waitTest` and `waitTestFor` are `WaitTested` and `LaneTested` (R125 to
R127), and these speak of the engine only through its lanes, rings, clock, CAPTURE_WAIT, FROZEN condition and EVENT_READY. -/

namespace Sys2Proof.Machine

/-- Two states that the wait test does not tell apart, `u` with EVENT_READY set where `t` has it set. -/
structure SameForTest (t u : State) : Prop where
  frozen : u.notice.frozen = t.notice.frozen
  lanes : u.tracker.lanes = t.tracker.lanes
  rings : u.rings = t.rings
  capture : u.params.capture = t.params.capture
  now : u.now = t.now
  ready : t.notice.isSet .eventReady = true → u.notice.isSet .eventReady = true

theorem Candidate.congr {t u : State} (h : u.notice.frozen = t.notice.frozen) {c : Captures} {before after : List EventRecord}
    {r : EventRecord} : Candidate u c before r after ↔ Candidate t c before r after :=
  ⟨fun x => ⟨h ▸ x.running, x.idle, x.queue, x.waits, x.oldest⟩, fun x => ⟨h ▸ x.running, x.idle, x.queue, x.waits, x.oldest⟩⟩

theorem SameForTest.mayBegin {t u : State} (h : SameForTest t u) (r : EventRecord) : MayBegin u r ↔ MayBegin t r := by
  unfold MayBegin ringOf laneOf
  rw [h.rings, h.lanes, h.capture, h.now]

theorem WaitTested.congr {t u : State} (h : SameForTest t u) {c d : Captures} (w : WaitTested t c d) : WaitTested u c d := by
  induction w with
  | noCandidate n => exact .noCandidate fun b r a x => n b r a ((Candidate.congr h.frozen).1 x)
  | waits k m => exact h.capture ▸ .waits ((Candidate.congr h.frozen).2 k) (fun x => m ((h.mayBegin _).1 x))
  | begins k m f p => exact .begins ((Candidate.congr h.frozen).2 k) ((h.mayBegin _).2 m) f p
  | refused k m f e _ ih => exact .refused ((Candidate.congr h.frozen).2 k) ((h.mayBegin _).2 m) f (h.ready e) ih

theorem LaneTested.congr {t u : State} (h : SameForTest t u) {lane : Nat} {c d : Captures} (w : LaneTested t lane c d) :
    LaneTested u lane c d :=
  ⟨fun b r a x e => (w.named b r a ((Candidate.congr h.frozen).1 x) e).congr h,
    fun x => w.other fun b r a k => x b r a ((Candidate.congr h.frozen).2 k)⟩

/-! ## The flags -/

/-- A flag that a row sets is set. -/
theorem isSet_raise_self (n : NoticeUnit) (f : Flag) : (n.raise f).isSet f = true := by
  unfold NoticeUnit.raise
  split
  · assumption
  · unfold NoticeUnit.isSet
    rw [bne_iff_ne]
    intro h
    have hm : (n.flags ||| f.mask) &&& f.mask = f.mask := by
      ext i
      simp only [BitVec.getElem_and, BitVec.getElem_or]
      cases n.flags[i] <;> simp
    rw [hm] at h
    revert h
    cases f <;> decide

/-- No flag is cleared by another's setting. -/
theorem isSet_raise {n : NoticeUnit} {f : Flag} (g : Flag) (h : n.isSet f = true) : (n.raise g).isSet f = true := by
  unfold NoticeUnit.raise
  split
  · exact h
  · unfold NoticeUnit.isSet at h ⊢
    rw [bne_iff_ne] at h ⊢
    intro e
    apply h
    ext i hi
    have hb : ((n.flags ||| g.mask) &&& f.mask)[i] = (0#9)[i] := congrArg (fun v => v[i]) e
    rw [BitVec.getElem_and, BitVec.getElem_or] at hb
    rw [BitVec.getElem_and]
    revert hb
    cases n.flags[i] <;> simp

theorem isSet_serveCandidate {f : Flag} (n : Nat) {s : State} (h : s.notice.isSet f = true) :
    (serveCandidate n s).notice.isSet f = true := by
  induction n generalizing s with
  | zero => exact h
  | succ n ih =>
    unfold serveCandidate
    repeat' split
    · exact h
    · exact ih (isSet_raise _ h)
    · exact h
    · exact h

theorem isSet_waitTest {f : Flag} {s : State} (h : s.notice.isSet f = true) : (waitTest s).notice.isSet f = true :=
  isSet_serveCandidate _ h

/-! ## The candidate and its capture -/

theorem isWaiting_iff (r : EventRecord) : r.isWaiting = true ↔ r.status = .waiting := by simp [EventRecord.isWaiting]

/-- The model's candidate is the one R125 names. -/
theorem candidate_iff (s : State) (r : EventRecord) :
    candidate s = some r ↔ ∃ before after, Candidate s s.captures before r after := by
  unfold candidate
  split
  · rename_i h
    refine ⟨(nomatch ·), fun ⟨b, a, k⟩ => ?_⟩
    have h1 := k.running
    have h2 := k.idle
    simp_all [State.captures]
  · rename_i h
    rw [List.find?_eq_some_iff_append]
    simp only [Bool.or_eq_true, not_or, Bool.not_eq_true, Option.isSome_eq_false_iff, Option.isNone_iff_eq_none] at h
    constructor
    · rintro ⟨hw, b, a, hq, ho⟩
      exact ⟨b, a, h.2, h.1, hq, (isWaiting_iff r).1 hw, fun x hx e => by simpa [(isWaiting_iff x).2 e] using ho x hx⟩
    · rintro ⟨b, a, k⟩
      exact ⟨(isWaiting_iff r).2 k.waits, b, a, k.queue, fun x hx => by
        simpa [EventRecord.isWaiting] using k.oldest x hx⟩

theorem candidate_none_iff (s : State) :
    candidate s = none ↔ ∀ before r after, ¬Candidate s s.captures before r after := by
  constructor
  · intro h b r a k
    have := (candidate_iff s r).2 ⟨b, a, k⟩
    rw [h] at this
    exact nomatch this
  · intro h
    cases hc : candidate s with
    | none => rfl
    | some r => exact absurd ((candidate_iff s r).1 hc) fun ⟨b, a, k⟩ => h b r a k

theorem waitTestPasses_iff (s : State) (r : EventRecord) : waitTestPasses s r = true ↔ MayBegin s r := by
  unfold waitTestPasses MayBegin
  rw [List.all_eq_true]
  refine forall₂_congr fun x _ => ?_
  simp only [Bool.or_eq_true, decide_eq_true_eq, or_assoc]
  refine or_congr ?_ (or_congr ?_ Iff.rfl)
  · simp [spanDelivered, Option.any_eq_true]
  · unfold laneLost laneOf
    cases Memory.find s.tracker.lanes x.lane <;> simp

theorem placeEntries_placed (first : Nat) (plan : List PlanEntry) : PlacedFrom first plan (placeEntries first plan) := by
  induction plan generalizing first with
  | nil => exact ⟨rfl, fun i x h => nomatch h⟩
  | cons e es ih =>
    refine ⟨by simp [placeEntries, (ih _).1], fun i x h => ?_⟩
    cases i with
    | zero =>
      obtain rfl : e = x := by simpa using h
      simp [placeEntries, spanWords, Config.storeWords]
    | succ i =>
      have := (ih (first + e.count)).2 i x (by simpa using h)
      simpa [placeEntries, spanWords, Nat.add_assoc] using this

theorem modifyFirst_append {α : Type} {p : α → Bool} (f : α → α) {before after : List α} {r : α}
    (hb : ∀ x ∈ before, p x = false) (hr : p r = true) :
    modifyFirst p f (before ++ r :: after) = before ++ f r :: after := by
  induction before with
  | nil => simp [modifyFirst, hr]
  | cons x xs ih =>
    have := hb x (by simp)
    simp [modifyFirst, this, ih fun y hy => hb y (by simp [hy])]

theorem Candidate.modify {t : State} {c : Captures} {before after : List EventRecord} {r : EventRecord}
    (k : Candidate t c before r after) (f : EventRecord → EventRecord) :
    modifyFirst EventRecord.isWaiting f c.queue = before ++ f r :: after := by
  rw [k.queue]
  exact modifyFirst_append f (fun x hx => by simpa [EventRecord.isWaiting] using k.oldest x hx) ((isWaiting_iff r).2 k.waits)

/-! ## The wait test -/

theorem sameForTest_serveCandidate (n : Nat) (s : State) : SameForTest s (serveCandidate n s) :=
  ⟨by simp, by simp, by simp, by simp, by simp, isSet_serveCandidate n⟩

theorem sameForTest_waitTest (s : State) : SameForTest s (waitTest s) := sameForTest_serveCandidate _ s

/-- The candidates tested one after another, with fuel for every WAITING record (R125 to R127). -/
theorem serveCandidate_tested (n : Nat) (s : State) (h : (s.queue.filter EventRecord.isWaiting).length < n) :
    WaitTested (serveCandidate n s) s.captures (serveCandidate n s).captures := by
  induction n generalizing s with
  | zero => exact absurd h (Nat.not_lt_zero _)
  | succ n ih =>
    have same := sameForTest_serveCandidate (n + 1) s
    cases hc : candidate s with
    | none =>
      have e : serveCandidate (n + 1) s = s := by simp [serveCandidate, hc]
      rw [e]
      exact .noCandidate ((candidate_none_iff s).1 hc)
    | some r =>
      obtain ⟨b, a, k⟩ := (candidate_iff s r).1 hc
      have k' := (Candidate.congr same.frozen).2 k
      by_cases hp : waitTestPasses s r = true
      · have hm := (same.mayBegin r).2 ((waitTestPasses_iff s r).1 hp)
        by_cases hf : s.store.freeWords < extentSize r.plan
        · have e : serveCandidate (n + 1) s = serveCandidate n (refuseCapture s) := by simp [serveCandidate, hc, hp, hf]
          have hq : (refuseCapture s).queue = b ++ { r with status := .noSpace } :: a := by
            have hq := k.modify fun x => { x with status := .noSpace }
            simp only [State.captures] at hq
            simpa [refuseCapture] using hq
          have hl : ((refuseCapture s).queue.filter EventRecord.isWaiting).length < n := by
            have hs : s.queue = b ++ r :: a := k.queue
            rw [hs] at h
            rw [hq]
            simp only [List.filter_append, List.filter_cons, (isWaiting_iff r).2 k.waits, if_true, List.length_append,
              List.length_cons] at h
            simp only [List.filter_append, List.filter_cons, EventRecord.isWaiting, List.length_append] at h ⊢
            simp at h ⊢
            omega
          have hd := ih (refuseCapture s) hl
          rw [← e] at hd
          refine .refused k' hm hf ?_ ?_
          · rw [e]
            exact isSet_serveCandidate _ (isSet_raise_self _ _)
          · have hcap : (refuseCapture s).captures = { s.captures with
                queue := b ++ { r with status := .noSpace } :: a
                capture := { s.capture with waitTimer := none } } := by
              rw [State.captures, hq]
              simp [State.captures, refuseCapture]
            rw [hcap] at hd
            exact hd
        · have e : serveCandidate (n + 1) s = beginCapture r s := by simp [serveCandidate, hc, hp, hf]
          have hq : (beginCapture r s).captures =
              { queue := b ++ { r with status := .capturing, plan := placeEntries s.store.writePos r.plan } :: a
                store := { s.store with writePos := (s.store.writePos + spanWords r.plan) % 65536
                                        freeWords := s.store.freeWords - spanWords r.plan }
                capture := { active := some { next := 1, storeError := false }, waitTimer := none } } := by
            have := k.modify fun x => { x with status := .capturing, plan := placeEntries s.store.writePos x.plan }
            simp [State.captures, beginCapture, extentSize, spanWords, Config.storeWords] at this ⊢
            exact this
          rw [e] at k' hm ⊢
          rw [hq]
          exact .begins k' hm (Nat.le_of_not_lt hf) (placeEntries_placed _ _)
      · have e : serveCandidate (n + 1) s =
            s.setCapture { s.capture with waitTimer := some (r.closeTime + s.params.capture.captureWait) } := by
          simp [serveCandidate, hc, hp]
        have hm : ¬MayBegin (serveCandidate (n + 1) s) r := fun x =>
          hp ((waitTestPasses_iff s r).2 ((same.mayBegin r).1 x))
        rw [e] at k' hm ⊢
        exact .waits k' hm

/-- What the wait test does, in every state (R125 to R127). -/
theorem waitTest_tested (s : State) : WaitTested (waitTest s) s.captures (waitTest s).captures :=
  serveCandidate_tested _ s (Nat.lt_succ_of_le (List.length_filter_le _ _))

/-- What the wait test after a block or a change of state of a lane does (R126). -/
theorem waitTestFor_tested (lane : Nat) (s : State) :
    LaneTested (waitTestFor lane s) lane s.captures (waitTestFor lane s).captures := by
  have planned : candidatePlans s lane = true ↔
      ∃ before r after, Candidate s s.captures before r after ∧ ∃ e ∈ r.plan, e.lane = lane := by
    simp only [candidatePlans, Option.any_eq_true, candidate_iff, List.any_eq_true, beq_iff_eq]
    exact ⟨fun ⟨r, ⟨b, a, k⟩, e⟩ => ⟨b, r, a, k, e⟩, fun ⟨b, r, a, k, e⟩ => ⟨r, ⟨b, a, k⟩, e⟩⟩
  have frozen : (waitTestFor lane s).notice.frozen = s.notice.frozen := by simp
  by_cases h : candidatePlans s lane = true
  · have e : waitTestFor lane s = waitTest s := by simp [waitTestFor, h]
    obtain ⟨b, r, a, k, x, hx, hl⟩ := planned.1 h
    refine ⟨fun _ _ _ _ _ => e ▸ waitTest_tested s, fun hn => ?_⟩
    exact absurd hl (hn b r a ((Candidate.congr frozen).2 k) x hx)
  · have e : waitTestFor lane s = s := by simp [waitTestFor, h]
    refine ⟨fun b r a k x => absurd (planned.2 ⟨b, r, a, (Candidate.congr frozen).1 k, x⟩) h, fun _ => by rw [e]⟩

end Sys2Proof.Machine
end

