-- ==== Sys2Proof/Laws/Frozen.lean ====
section
/-! SUPPORT. Taking a fault and becoming FROZEN: what the shared operations leave, and that each keeps `FrozenAgrees`. -/

namespace Sys2Proof.Machine

/-- What answering does to the command in execution: it ends, or its reply waits. -/
theorem answer_executing (k : ReplyCode) (x : Bytes) (s : State) (h : s.cmd.held ≠ []) :
    (answer k x s).cmd.executing = none ∨
      ∃ f, (answer k x s).cmd.executing = some (.replyWaiting f) ∧ (answer k x s).cmd.held = s.cmd.held := by
  unfold answer
  split
  · exact absurd ‹_› h
  · split
    · left; rfl
    · right; exact ⟨_, rfl, rfl⟩

theorem placeOneWaiter_executing (s : State) :
    (placeOneWaiter s).cmd.executing = none ∨ (placeOneWaiter s).cmd = s.cmd := by
  unfold placeOneWaiter
  repeat' split
  all_goals first
    | (right; rfl)
    | (left; rfl)

theorem settleLine_executing (s : State) :
    (settleLine s).cmd.executing = none ∨ (settleLine s).cmd = s.cmd := by
  have h3 : ∀ u : State, (placeWaiters u).cmd.executing = none ∨ (placeWaiters u).cmd = u.cmd := by
    intro u
    unfold placeWaiters
    have a := placeOneWaiter_executing u
    have b := placeOneWaiter_executing (placeOneWaiter u)
    have c := placeOneWaiter_executing (placeOneWaiter (placeOneWaiter u))
    rcases c with c | c <;> rcases b with b | b <;> rcases a with a | a <;> simp_all
  unfold settleLine
  have a := h3 s
  have b := h3 (arbitrate (placeWaiters s))
  rw [arbitrate_cmd] at b
  rcases b with b | b <;> rcases a with a | a <;> simp_all

theorem settled_markOverflow (q : List EventRecord) (h : ∀ r ∈ q, r.status.settled = true) :
    ∀ r ∈ markOverflow q, r.status.settled = true := by
  induction q with
  | nil => simp [markOverflow]
  | cons r rs ih =>
    cases rs with
    | nil => simpa [markOverflow] using h
    | cons x xs =>
      intro y hy
      simp only [markOverflow, List.mem_cons] at hy
      rcases hy with rfl | hy
      · exact h _ (List.mem_cons_self ..)
      · exact ih (fun z hz => h z (List.mem_cons_of_mem _ hz)) y (by simpa [markOverflow] using hy)

theorem settled_abort (q : List EventRecord) : ∀ r ∈ q.map EventRecord.abort, r.status.settled = true := by
  intro r hr
  obtain ⟨x, _, rfl⟩ := List.mem_map.1 hr
  unfold EventRecord.abort
  split
  · assumption
  · rfl

/-- A state that is not FROZEN agrees when its scan is not, and its command in execution is held. -/
theorem frozenAgrees_running {t : State} (ho : t.cmd.executing.isSome = true → t.cmd.held ≠ [])
    (hf : t.notice.frozen = false) (hs : t.scan.state ≠ .frozen) : FrozenAgrees t :=
  ⟨ho, by simp [hf, hs], by simp [hf], by simp [hf], by simp [hf], by simp [hf]⟩

theorem FrozenAgrees.scan_running {s : State} (h : FrozenAgrees s) (hf : s.notice.frozen = false) :
    s.scan.state ≠ .frozen := by
  intro hs
  have := h.scan.1 hs
  simp_all

/-- A change that leaves everything the FROZEN condition speaks of as it is. -/
theorem frozenAgrees_same {s t : State} (h : FrozenAgrees s) (hf : t.notice.frozen = s.notice.frozen)
    (hs : t.scan.state = s.scan.state) (ht : t.scan.tick = s.scan.tick) (hc : t.capture = s.capture)
    (hq : t.queue = s.queue) (hm : t.cmd = s.cmd) : FrozenAgrees t :=
  ⟨by rw [hm]; exact h.oldest, by rw [hs, hf]; exact h.scan, by rw [hf, ht]; exact h.tick, by rw [hf, hc]; exact h.capture,
    by rw [hf, hq]; exact h.records, by rw [hf, hm]; exact h.command⟩

/-- As `frozenAgrees_same`, for a change of the command in execution. -/
theorem frozenAgrees_cmd {s t : State} (h : FrozenAgrees s) (hf : t.notice.frozen = s.notice.frozen)
    (hs : t.scan = s.scan) (hc : t.capture = s.capture) (hq : t.queue = s.queue)
    (ho : t.cmd.executing.isSome = true → t.cmd.held ≠ [])
    (hm : s.notice.frozen = true → ∀ x, t.cmd.executing = some x → endedByFrozen x = false) : FrozenAgrees t :=
  ⟨ho, by rw [hs, hf]; exact h.scan, by rw [hf, hs]; exact h.tick, by rw [hf, hc]; exact h.capture,
    by rw [hf, hq]; exact h.records, by rw [hf]; exact hm⟩

theorem frozen_answer {s : State} (k : ReplyCode) (x : Bytes) (h : FrozenAgrees s) : FrozenAgrees (answer k x s) := by
  by_cases hh : s.cmd.held = []
  · have : answer k x s = s := by unfold answer; rw [hh]
    rw [this]; exact h
  · refine frozenAgrees_cmd h (by simp) (by simp) (by simp) (by simp) ?_ ?_
    · rcases answer_executing k x s hh with he | ⟨f, _, he⟩
      · simp [he]
      · intro _; rw [he]; exact hh
    · intro _ y hy
      rcases answer_executing k x s hh with he | ⟨f, he, _⟩
      · simp [he] at hy
      · rw [he] at hy; injection hy with hy; subst hy; rfl

theorem frozen_settleLine {s : State} (h : FrozenAgrees s) : FrozenAgrees (settleLine s) := by
  refine frozenAgrees_cmd h (by simp) (by simp) (by simp) (by simp) ?_ ?_
  · rcases settleLine_executing s with he | he
    · simp [he]
    · rw [he]; exact h.oldest
  · intro hf y hy
    rcases settleLine_executing s with he | he
    · simp [he] at hy
    · rw [he] at hy; exact h.command hf y hy

/-- As `FrozenAgrees`, inside the completion of a close, whose end is still to answer a CLEAR SCAN that waits for it (R71). -/
structure FrozenInClose (s : State) : Prop where
  oldest : s.cmd.executing.isSome = true → s.cmd.held ≠ []
  scan : s.scan.state = .frozen ↔ s.notice.frozen = true
  tick : s.notice.frozen = true → s.scan.tick = none
  capture : s.notice.frozen = true → s.capture.active = none
  records : s.notice.frozen = true → ∀ r ∈ s.queue, r.status.settled = true
  command : s.notice.frozen = true → ∀ x, s.cmd.executing = some x → endedByFrozen x = true → x = .clearScan

theorem FrozenAgrees.inClose {s : State} (h : FrozenAgrees s) : FrozenInClose s :=
  ⟨h.oldest, h.scan, h.tick, h.capture, h.records, fun hf x hx he => by simp [h.command hf x hx] at he⟩

/-- With no CLEAR SCAN left to answer, or an engine that is not FROZEN, nothing is missing. -/
theorem FrozenInClose.agrees {s : State} (h : FrozenInClose s)
    (hc : s.notice.frozen = true → s.cmd.executing ≠ some .clearScan) : FrozenAgrees s := by
  refine ⟨h.oldest, h.scan, h.tick, h.capture, h.records, ?_⟩
  intro hf x hx
  by_contra he
  have := h.command hf x hx (by simpa using he)
  subst this
  exact hc hf hx

theorem frozenInClose_same {s t : State} (h : FrozenInClose s) (hf : t.notice.frozen = s.notice.frozen)
    (hs : t.scan.state = s.scan.state) (ht : t.scan.tick = s.scan.tick) (hc : t.capture = s.capture)
    (hq : t.queue = s.queue) (hm : t.cmd = s.cmd) : FrozenInClose t :=
  ⟨by rw [hm]; exact h.oldest, by rw [hs, hf]; exact h.scan, by rw [hf, ht]; exact h.tick, by rw [hf, hc]; exact h.capture,
    by rw [hf, hq]; exact h.records, by rw [hf, hm]; exact h.command⟩

/-- The command in execution after `freezeCommand`: none that the FROZEN condition ends but a CLEAR SCAN whose close is still in
progress. -/
theorem freezeCommand_executing {s : State} (ho : s.cmd.executing.isSome = true → s.cmd.held ≠ []) :
    ((freezeCommand s).cmd.executing.isSome = true → (freezeCommand s).cmd.held ≠ [])
    ∧ ∀ x, (freezeCommand s).cmd.executing = some x → endedByFrozen x = true → x = .clearScan ∧ s.det.closing.isSome = true := by
  have ha : s.cmd.held ≠ [] → ((answer .frozen [] s).cmd.executing.isSome = true → (answer .frozen [] s).cmd.held ≠ []) ∧
      ∀ x, (answer .frozen [] s).cmd.executing = some x → endedByFrozen x = true →
        x = .clearScan ∧ s.det.closing.isSome = true := by
    intro hh
    rcases answer_executing .frozen [] s hh with he | ⟨f, he, he'⟩
    · simp [he]
    · refine ⟨fun _ => by rw [he']; exact hh, ?_⟩
      intro x hx hb
      rw [he] at hx; injection hx with hx; subst hx; cases hb
  unfold freezeCommand
  split
  · exact ha (ho (by simp_all))
  · split
    · refine ⟨ho, fun x hx _ => ?_⟩
      simp_all
    · exact ha (ho (by simp_all))
  · exact ha (ho (by simp_all))
  all_goals refine ⟨ho, ?_⟩; intro x hx; simp_all [endedByFrozen]

/-- A record appended to a FROZEN engine is settled, and is all that its append changes but the notices. -/
theorem appendRecord_settled {s : State} (r : EventRecord) (hr : r.status.settled = true) :
    (appendRecord r s).queue = s.queue ++ [r] ∧ (appendRecord r s).capture = s.capture
      ∧ (appendRecord r s).store = s.store := by
  simp [appendRecord, hr]

/-- What the freeze does to a close in progress: its record is appended ABORTED, and no close is left but that of the planning. -/
theorem freezeClose_frozen {s : State} (a : Activity) (hf : s.notice.frozen = true) :
    (freezeClose a s).capture = s.capture ∧ (freezeClose a s).store = s.store
    ∧ (∀ r ∈ (freezeClose a s).queue, r ∈ s.queue ∨ (r.status = .aborted ∧ r.plan = []))
    ∧ (a ≠ .planning → (freezeClose a s).det.closing = none) := by
  unfold freezeClose
  split
  · simp_all
  · split
    · simp_all
    · split
      · rename_i _ c _ _ run _
        obtain ⟨hq, hc, hs⟩ := appendRecord_settled (s := s.setDet
            { s.det.afterClose c.detect.holdoff with serial := (s.det.serial + 1) % 65536 })
          (closedRecord c run c.detect.vetoLimit s.det.serial s.now [] s.notice.frozen)
          (by simp [closedRecord, appendedStatus, hf, SnippetStatus.settled])
        refine ⟨by simpa [appendClosed] using hc, by simpa [appendClosed] using hs, ?_, ?_⟩
        · intro r hr
          simp only [appendClosed] at hr
          rw [hq] at hr
          simp only [State.queue_setDet, List.mem_append, List.mem_singleton] at hr
          rcases hr with hr | rfl
          · exact .inl hr
          · right; simp [closedRecord, appendedStatus, hf]
        · intro _; simp [appendClosed, Detector.afterClose]
      · exact ⟨rfl, rfl, fun r hr => .inl hr, fun _ => rfl⟩

/-- The engine as it becomes FROZEN. -/
theorem frozenInClose_enterFrozen {s : State} (a : Activity) (ho : s.cmd.executing.isSome = true → s.cmd.held ≠ []) :
    FrozenInClose (enterFrozen a s)
    ∧ (a ≠ .planning → (enterFrozen a s).cmd.executing ≠ some .clearScan ∧ (enterFrozen a s).det.closing = none) := by
  let u := abortCaptures (((s.setNotice { s.notice with frozen := true }).setScan
    { s.scan with state := .frozen, tick := none }).setTracker { s.tracker with inbox := [], blocks := [] })
  have hu : enterFrozen a s = freezeCommand (freezeClose a u) := rfl
  have huf : u.notice.frozen = true := by simp [u]
  obtain ⟨h1, _, h3, h4⟩ := freezeClose_frozen a huf
  obtain ⟨hc1, hc2⟩ := freezeCommand_executing (s := freezeClose a u) (by simpa [u] using ho)
  rw [hu]
  refine ⟨⟨hc1, by simp [u], by simp [u], ?_, ?_, fun _ x hx he => (hc2 x hx he).1⟩, fun ha => ⟨?_, by simpa using h4 ha⟩⟩
  · intro _
    rw [freezeCommand_capture, h1]
    simp [u, abortCaptures, CaptureUnit.idle]
  · intro _ r hr
    rw [freezeCommand_queue] at hr
    rcases h3 r hr with hr | ⟨hr, _⟩
    · exact settled_abort s.queue r (by simpa [u, abortCaptures] using hr)
    · simp [hr, SnippetStatus.settled]
  · intro hx
    have := (hc2 _ hx rfl).2
    simp [h4 ha] at this

/-- The engine agrees once a fault outside the planning of a close has made it FROZEN. -/
theorem frozen_enterFrozen {s : State} {a : Activity} (ha : a ≠ .planning)
    (ho : s.cmd.executing.isSome = true → s.cmd.held ≠ []) : FrozenAgrees (enterFrozen a s) :=
  (frozenInClose_enterFrozen a ho).1.agrees fun _ => ((frozenInClose_enterFrozen a ho).2 ha).1

/-- Taking a fault leaves the Command Unit as it is, unless a command that the FROZEN condition ends is in execution. -/
theorem takeFault_cmd {s : State} (a : Activity) (p : FaultPlace)
    (h : ∀ x, s.cmd.executing = some x → endedByFrozen x = false) : (takeFault a p s).cmd = s.cmd := by
  have hf : ∀ u : State, u.cmd = s.cmd → (enterFrozen a u).cmd = s.cmd := by
    intro u hu
    unfold enterFrozen freezeCommand
    split <;> simp_all [endedByFrozen]
  unfold takeFault
  dsimp only
  repeat' split
  all_goals first | rfl | exact hf _ (by simp)

/-- As `takeFault_cmd`, for the line. -/
theorem takeFault_line {s : State} (a : Activity) (p : FaultPlace)
    (h : ∀ x, s.cmd.executing = some x → endedByFrozen x = false) : (takeFault a p s).line = s.line := by
  have hf : ∀ u : State, u.cmd = s.cmd → u.line = s.line → (enterFrozen a u).line = s.line := by
    intro u hu hl
    unfold enterFrozen freezeCommand
    split <;> simp_all [endedByFrozen]
  unfold takeFault
  dsimp only
  repeat' split
  all_goals first | rfl | exact hf _ (by simp) (by simp)

/-- An engine that has become FROZEN is. -/
theorem enterFrozen_frozen (a : Activity) (s : State) : (enterFrozen a s).notice.frozen = true := by
  unfold enterFrozen
  simp

/-- A fault that leaves the engine running changes the Notice and Fault Unit alone, by the fault record and the FAULT flag, which
depend on nothing but the notices, the cursor, the detector state and FAULT_CAPTURE (R173). -/
theorem takeFault_running {a : Activity} {p : FaultPlace} {s : State} (h : (takeFault a p s).notice.frozen = false) :
    s.notice.frozen = false ∧ s.notice.faultRecord = none ∧ s.params.faultCapture = true
    ∧ takeFault a p s = setFlag .fault (s.setNotice
      { s.notice with faultRecord := some { activity := a, place := p, cursor := s.scan.cursor, detector := s.det.state
                                            outcome := .continued } }) := by
  unfold takeFault at h ⊢
  split at h
  · simp_all
  · rw [if_neg ‹_›]
    split at h
    · rw [enterFrozen_frozen] at h; cases h
    · rw [if_neg ‹_›]
      split at h
      · simp_all
      · rw [enterFrozen_frozen] at h; cases h

/-- A fault of the planning of a close. -/
theorem frozenInClose_takeFault {s : State} (a : Activity) (p : FaultPlace) (h : FrozenInClose s) :
    FrozenInClose (takeFault a p s) := by
  unfold takeFault
  dsimp only
  split
  · exact h
  · split
    · exact (frozenInClose_enterFrozen _ (by simpa using h.oldest)).1
    · split
      · exact frozenInClose_same h (by simp) (by simp) (by simp) (by simp) (by simp) (by simp)
      · exact (frozenInClose_enterFrozen _ (by simpa using h.oldest)).1

/-- A fault outside the planning of a close. -/
theorem frozen_takeFault {s : State} {a : Activity} (p : FaultPlace) (ha : a ≠ .planning) (h : FrozenAgrees s) :
    FrozenAgrees (takeFault a p s) := by
  refine (frozenInClose_takeFault a p h.inClose).agrees fun hf hx => ?_
  unfold takeFault at hf hx
  dsimp only at hf hx
  split at hx
  · rename_i hs
    have := h.command hs _ hx
    cases this
  · rename_i hs
    split at hx
    · exact ((frozenInClose_enterFrozen a (by simpa using h.oldest)).2 ha).1 hx
    · rename_i hr
      rw [if_neg hs, if_neg hr] at hf
      split at hx
      · rename_i hk
        simp [hk, hs] at hf
      · exact ((frozenInClose_enterFrozen a (by simpa using h.oldest)).2 ha).1 hx

/-- While FROZEN there is no candidate, so the wait test changes nothing. -/
theorem waitTest_of_frozen {s : State} (hf : s.notice.frozen = true) : waitTest s = s := by
  unfold waitTest serveCandidate candidate
  simp [hf]

theorem frozen_waitTest {s : State} (h : FrozenAgrees s) : FrozenAgrees (waitTest s) := by
  by_cases hf : s.notice.frozen = true
  · rw [waitTest_of_frozen hf]; exact h
  · have hf : s.notice.frozen = false := by simpa using hf
    exact frozenAgrees_running (by simpa using h.oldest) (by simpa using hf) (by simpa using h.scan_running hf)

theorem frozen_waitTestFor {s : State} (lane : Nat) (h : FrozenAgrees s) : FrozenAgrees (waitTestFor lane s) := by
  unfold waitTestFor
  split
  · exact frozen_waitTest h
  · exact h

theorem frozen_beginClose {s : State} (k : CloseReason) (t : Nat) (b : Bool) (h : FrozenAgrees s) :
    FrozenAgrees (beginClose k t b s) := by
  unfold beginClose
  split
  · exact frozenAgrees_same h rfl rfl rfl rfl rfl rfl
  · unfold discardClose
    refine ⟨by simpa using h.oldest, by simpa using h.scan, by simpa using h.tick, by simpa using h.capture, ?_,
      by simpa using h.command⟩
    intro hf r hr
    simp only [setFlag_notice_frozen, State.notice_setQueue, State.notice_setDet] at hf
    exact settled_markOverflow s.queue (h.records hf) r (by simpa using hr)

theorem frozen_cutOpenEvent {s : State} (k : CloseReason) (h : FrozenAgrees s) : FrozenAgrees (cutOpenEvent k s) := by
  unfold cutOpenEvent
  split
  · exact frozenAgrees_same h rfl rfl rfl rfl rfl rfl
  · exact frozen_beginClose _ _ _ h
  · exact h

theorem frozen_takeOverrun {s : State} (h : FrozenAgrees s) : FrozenAgrees (takeOverrun s) := by
  unfold takeOverrun
  split
  · exact frozenAgrees_same h rfl rfl rfl rfl rfl rfl
  · split
    · exact frozenAgrees_same h rfl rfl rfl rfl rfl rfl
    · exact frozen_cutOpenEvent _ h

theorem frozen_takeSilence {s : State} (h : FrozenAgrees s) : FrozenAgrees (takeSilence s) := by
  unfold takeSilence
  split
  · exact h
  · exact frozen_cutOpenEvent _ h

theorem frozen_takeTickResult {s : State} (r : TickResult) (h : FrozenAgrees s) : FrozenAgrees (takeTickResult r s) := by
  unfold takeTickResult
  dsimp only
  split
  · exact frozenAgrees_same h rfl rfl rfl rfl rfl rfl
  · exact frozenAgrees_same h rfl rfl rfl rfl rfl rfl
  · unfold tickInDeclared
    dsimp only
    split
    · exact frozen_beginClose _ _ _ (frozenAgrees_same h rfl rfl rfl rfl rfl rfl)
    · split
      · exact frozen_beginClose _ _ _ (frozenAgrees_same h rfl rfl rfl rfl rfl rfl)
      · exact frozenAgrees_same h rfl rfl rfl rfl rfl rfl
  · exact frozenAgrees_same h rfl rfl rfl rfl rfl rfl
  · exact h

theorem frozen_retest {s : State} (h : FrozenAgrees s) : FrozenAgrees (retest s) := by
  unfold retest fallBehind jumpCursor
  split
  · split
    · dsimp only
      split
      · rename_i t l _ _ _
        have hs : FrozenAgrees (s.setScan { s.scan with
            cursor := some (l - activeDmax s - (scanValues s).grace)
            skippedTicks := satAdd s.scan.skippedTicks (l - activeDmax s - (scanValues s).grace - t) }) :=
          frozenAgrees_same h rfl rfl rfl rfl rfl rfl
        exact frozenAgrees_same (frozen_takeOverrun hs) (by simp) (by simp) (by simp) (by simp) (by simp) (by simp)
      · exact h
    · exact h
  · exact h

theorem frozenInClose_planRead {s : State} (m : Maximum) (lane : Nat) (h : FrozenInClose s) :
    FrozenInClose (planRead m lane s).2 := by
  unfold planRead
  dsimp only
  repeat' split
  all_goals first | exact h | exact frozenInClose_takeFault _ _ h

theorem frozenInClose_walkPlan {s : State} (m : Maximum) (c : CaptureParams) (ps : List (Nat × Nat)) (n : Nat)
    (h : FrozenInClose s) : FrozenInClose (walkPlan m c ps n s).2 := by
  induction ps generalizing n s with
  | nil => exact h
  | cons p ps ih =>
    unfold walkPlan
    split
    · exact h
    · have hp := frozenInClose_planRead m p.1 h
      rcases hr : planRead m p.1 s with ⟨d, t⟩
      rw [hr] at hp
      cases d with
      | some d => exact ih _ hp
      | none =>
        dsimp only
        split
        · exact hp
        · exact ih _ hp

theorem frozenInClose_makePlan {s : State} (c : Closing) (m : Maximum) (h : FrozenInClose s) :
    FrozenInClose (makePlan c m s).2 := by
  unfold makePlan
  split
  · exact h
  · exact frozenInClose_walkPlan _ _ _ _ h

theorem frozenInClose_appendRecord {s : State} (r : EventRecord) (hr : s.notice.frozen = true → r.status.settled = true)
    (h : FrozenInClose s) : FrozenInClose (appendRecord r s) := by
  by_cases hf : s.notice.frozen = true
  · obtain ⟨hq, hc, _⟩ := appendRecord_settled (s := s) r (hr hf)
    refine ⟨by simpa using h.oldest, by simpa using h.scan, by simpa using h.tick, by rw [hc]; simpa using h.capture, ?_,
      by simpa using h.command⟩
    intro _ x hx
    rw [hq] at hx
    rcases List.mem_append.1 hx with hx | hx
    · exact h.records hf x hx
    · rw [List.mem_singleton.1 hx]; exact hr hf
  · have hf : s.notice.frozen = false := by simpa using hf
    exact (frozenAgrees_running (t := appendRecord r s) (by simpa using h.oldest) (by simpa using hf)
      (by simpa using (h.agrees (by simp [hf])).scan_running hf)).inClose

theorem frozenInClose_completeClose {s : State} (c : Closing) (run : Running) (h : FrozenInClose s) :
    FrozenInClose (completeClose c run s) := by
  unfold completeClose appendClosed
  refine frozenInClose_appendRecord _ ?_ (frozenInClose_same (frozenInClose_makePlan c run.maximum h) rfl rfl rfl rfl rfl rfl)
  intro hf
  simp only [State.notice_setDet] at hf
  simp [closedRecord, appendedStatus, hf, SnippetStatus.settled]

theorem frozen_copyEccFailure {s : State} (lane i : Nat) (h : FrozenAgrees s) : FrozenAgrees (copyEccFailure lane i s) := by
  unfold copyEccFailure
  split
  · exact h
  · split
    · exact h
    · rename_i a ha _
      apply frozen_takeFault _ (by decide)
      refine ⟨h.oldest, h.scan, h.tick, ?_, h.records, h.command⟩
      intro hf
      have := h.capture hf
      simp_all

theorem frozen_copyWord (lane i w : Nat) (p : CopyProgress) (h : FrozenAgrees p.state) :
    FrozenAgrees (copyWord lane i w p).state := by
  have hw : ∀ x, FrozenAgrees (writeStore w x p.state) := fun x => frozenAgrees_same h rfl rfl rfl rfl rfl rfl
  unfold copyWord
  split
  all_goals first | exact hw _ | exact frozen_copyEccFailure _ _ (hw _)

theorem frozen_copyWords (lane n i w : Nat) (p : CopyProgress) (h : FrozenAgrees p.state) :
    FrozenAgrees (copyWords lane n i w p).state := by
  induction n generalizing i w p with
  | zero => exact h
  | succ n ih =>
    unfold copyWords
    dsimp only
    split
    · exact frozen_copyWord _ _ _ _ h
    · exact ih _ _ _ (frozen_copyWord _ _ _ _ h)

theorem frozen_copyStep {s : State} (h : FrozenAgrees s) : FrozenAgrees (copyStep s) := by
  unfold copyStep
  split
  · split
    · exact h
    · rename_i e _
      have hp := frozen_copyWords e.lane e.count e.start (e.extentOffset.getD 0)
        { state := s, omitStart := 0, omitEnd := 0 } h
      dsimp only
      split
      · exact hp
      · rename_i a' ha'
        have hf : (copyWords e.lane e.count e.start (e.extentOffset.getD 0)
            { state := s, omitStart := 0, omitEnd := 0 }).state.notice.frozen = false := by
          by_contra hc
          have := hp.capture (by simpa using hc)
          simp_all
        split
        · exact frozenAgrees_running (by simpa using hp.oldest) (by simpa using hf) (by simpa using hp.scan_running hf)
        · exact frozenAgrees_running (by simpa using hp.oldest) (by simpa using hf) (by simpa using hp.scan_running hf)
  · exact h

theorem frozen_applyWaitingChange {s : State} (h : FrozenAgrees s) : FrozenAgrees (applyWaitingChange s) := by
  have hc : ∀ c, FrozenAgrees (applyLaneChange c s) := by
    intro c
    unfold applyLaneChange
    dsimp only
    split <;> exact frozen_waitTestFor _ (frozenAgrees_same h (by simp) (by simp) (by simp) (by simp) (by simp) (by simp))
  unfold applyWaitingChange
  split
  · exact frozen_answer _ _ (hc _)
  · exact h

/-- A step of a scan that runs keeps it so: the scan state becomes IDLE or stays. -/
theorem frozen_tickBoundary {s : State} (h : FrozenAgrees s) : FrozenAgrees (tickBoundary s) := by
  unfold tickBoundary
  split
  · rename_i hs
    apply frozen_applyWaitingChange
    have hf : s.notice.frozen = false := by
      by_contra hc
      have := h.scan.2 (by simpa using hc)
      simp_all
    exact frozenAgrees_running (by simpa using h.oldest) (by simpa using hf) (by simp [endHalting])
  · apply frozen_retest
    apply frozen_applyWaitingChange
    split
    · exact frozenAgrees_same h (by simp) (by simp) (by simp) (by simp) (by simp) (by simp)
    · exact h

theorem frozen_stackLanes {s : State} (bank : BankId) (v t : Nat) (c : List (Nat × Nat)) (k : Stack)
    (h : FrozenAgrees s) : FrozenAgrees (stackLanes bank v t c k s).2 := by
  induction c generalizing k s with
  | nil => exact h
  | cons p rest ih =>
    obtain ⟨lane, w⟩ := p
    have hm : ∀ u, FrozenAgrees (meetTrackParity lane u s) := by
      intro u
      unfold meetTrackParity
      split
      · exact h
      · apply frozen_takeFault _ (by decide)
        refine ⟨h.oldest, h.scan, ?_, h.capture, h.records, h.command⟩
        intro hf
        have := h.tick hf
        simp [updateTick, this]
    unfold stackLanes
    dsimp only
    repeat' split
    all_goals first | exact frozen_takeFault _ (by decide) h | exact ih _ h | exact hm _ | exact ih _ (hm _)

theorem frozen_updateTick {s : State} (f : TickScan → TickScan) (h : FrozenAgrees s) : FrozenAgrees (updateTick f s) := by
  refine ⟨h.oldest, h.scan, ?_, h.capture, h.records, h.command⟩
  intro hf
  have := h.tick hf
  simp [updateTick, this]

theorem frozen_evaluateVoxel {s : State} (k : TickScan) (h : FrozenAgrees s) : FrozenAgrees (evaluateVoxel k s) := by
  unfold evaluateVoxel nextVoxel
  dsimp only
  split
  · exact frozen_updateTick _ (frozen_takeFault _ (by decide) h)
  · split
    · exact frozen_updateTick _ h
    · apply frozen_updateTick
      have hs := frozen_stackLanes k.bank k.voxel k.origin k.contributing Stack.nothing h
      unfold takeVoxel
      split
      · exact hs
      · split
        · exact hs
        · exact frozen_updateTick _ hs

theorem frozen_readWords {s : State} (n w : Nat) (st : Stream) (h : FrozenAgrees s) :
    FrozenAgrees (readWords n w st s).2.2 := by
  induction n generalizing w st s with
  | zero => exact h
  | succ n ih =>
    unfold readWords
    dsimp only
    split
    · exact ih _ _ h
    · apply ih
      unfold meetStoreFailure
      dsimp only
      repeat' split
      · exact frozenAgrees_same h rfl rfl rfl rfl rfl rfl
      · exact h
      · exact frozen_takeFault _ (by decide) h

/-- A stream's reads leave the Command Unit as it is. -/
theorem readWords_cmd {s : State} (n w : Nat) (st : Stream)
    (h : ∀ x, s.cmd.executing = some x → endedByFrozen x = false) : (readWords n w st s).2.2.cmd = s.cmd := by
  induction n generalizing w st s with
  | zero => rfl
  | succ n ih =>
    have hm : ∀ w, (meetStoreFailure w st s).2.cmd = s.cmd := by
      intro w
      unfold meetStoreFailure
      dsimp only
      repeat' split
      · rfl
      · rfl
      · exact takeFault_cmd _ _ h
    unfold readWords
    dsimp only
    split
    · exact ih _ _ h
    · rw [ih _ _ (by rw [hm]; exact h), hm]

theorem readWords_line {s : State} (n w : Nat) (st : Stream)
    (h : ∀ x, s.cmd.executing = some x → endedByFrozen x = false) : (readWords n w st s).2.2.line = s.line := by
  induction n generalizing w st s with
  | zero => rfl
  | succ n ih =>
    have hm : ∀ w, (meetStoreFailure w st s).2.cmd = s.cmd ∧ (meetStoreFailure w st s).2.line = s.line := by
      intro w
      unfold meetStoreFailure
      dsimp only
      repeat' split
      · exact ⟨rfl, rfl⟩
      · exact ⟨rfl, rfl⟩
      · exact ⟨takeFault_cmd _ _ h, takeFault_line _ _ h⟩
    unfold readWords
    dsimp only
    split
    · exact ih _ _ h
    · rw [ih _ _ (by rw [(hm _).1]; exact h), (hm _).2]

theorem frozen_placeSnippet {s : State} (st : Stream) (e : PlanEntry) (w : Nat) (x : Stream)
    (hx : s.cmd.executing = some (.streaming x)) (h : FrozenAgrees s) : FrozenAgrees (placeSnippet st e w s) := by
  have hr := frozen_readWords (frameWords st e w) (e.extentOffset.getD 0 + w) st h
  have hc := readWords_cmd (frameWords st e w) (e.extentOffset.getD 0 + w) st
    (s := s) (by intro y hy; rw [hx] at hy; injection hy with hy; subst hy; rfl)
  have hh : s.cmd.held ≠ [] := h.oldest (by simp [hx])
  unfold placeSnippet streamReply
  dsimp only
  split
  · refine frozenAgrees_cmd hr (by simp) (by simp) (by simp) (by simp) ?_ ?_
    · intro _; simpa [hc] using hh
    · intro _ y hy
      simp only [State.cmd_setCmd, Option.some.injEq] at hy
      subst hy; rfl
  · apply frozen_answer
    refine frozenAgrees_cmd hr (by simp) (by simp) (by simp) (by simp) ?_ ?_
    · intro _; simpa [hc] using hh
    · intro _ y hy
      simp only [State.cmd_setCmd, Option.some.injEq] at hy
      subst hy; rfl

end Sys2Proof.Machine
end

