-- ==== Sys2Proof/Laws/Reply.lean ====
section
/-! SUPPORT. How a command that begins with room in the Own Queue ends: its own handling, its reply placed, the line settled. -/

namespace Sys2Proof.Machine

/-- With no producer waiting, the line's settling is the arbiter's choice. -/
theorem settleLine_of_noWaiter {s : State} (h : s.line.waiters = []) : settleLine s = settled s := by
  have hw : ∀ u : State, u.line.waiters = [] → placeWaiters u = u := by
    intro u hu
    have h1 : placeOneWaiter u = u := by
      unfold placeOneWaiter
      split <;> simp [hu]
    simp [placeWaiters, h1]
  have ha : s.line.arbitrate.waiters = [] := by
    unfold Line.arbitrate
    repeat' split
    all_goals exact h
  unfold settleLine
  rw [hw s h, hw _ (by simpa [arbitrate] using ha)]
  rfl

/-- A live engine with no command in execution runs its oldest command's own handling, once it is served and fits. -/
theorem exec_begins {i : Instr} {code : Nat} {s : State} {c : Held} {rest : List Held} (hi : commandCode i = some code)
    (h : Oldest s code c rest) (hf : paramsFit i c = true) (hs : s.notice.frozen = true → refusedFrozen i = false) :
    exec i s = .next (settleLine (commandBody i c s)) := by
  have hz : ¬(s.notice.frozen = true ∧ refusedFrozen i = true) := fun h => by simp [hs h.1] at h
  rw [exec_command i s code hi]
  simp [runCommand, liveLine, live, h.live, beginHeld, h.idle, h.held, h.code, checked, hf, hz]

/-- A reply that finds room is placed, and the command leaves the list. -/
theorem settleLine_answer {s : State} {c : Held} {rest : List Held} (k : ReplyCode) (x : Bytes)
    (hh : s.cmd.held = c :: rest) (ho : OwnRoom s) : settleLine (answer k x s) = replied k x c rest s := by
  have hm : s.line.mayPlace .commandUnit = true := by
    simp [Line.mayPlace, Line.room, ho.noWaiter, ho.room]
  have ha : answer k x s = placeReply (replyFrame s.line.source c k x) s := by
    unfold answer
    simp [hh, hm]
  rw [ha, settleLine_of_noWaiter (by simp [placeReply, ho.noWaiter])]
  simp [placeReply, settled, replied, Line.withOwn, hh, ho.noWaiter, State.setLine, State.setCmd]

/-- A reply that finds no place free waits for one, behind the producers that wait already. -/
theorem answer_waits {s : State} {c : Held} {rest : List Held} (k : ReplyCode) (x : Bytes) (hh : s.cmd.held = c :: rest)
    (hn : s.line.mayPlace .commandUnit = false) :
    answer k x s =
      (s.setLine { s.line with waiters := s.line.waiters.filter (fun q => q != .commandUnit) ++ [.commandUnit] }).setCmd
        { s.cmd with executing := some (.replyWaiting (replyFrame s.line.source c k x)) } := by
  unfold answer
  simp [hh, hn]

/-- The reply of a command whose own handling `u` has left the held commands and the Own Queue alone is placed. -/
theorem reply_placed {s u : State} {code : Nat} {c : Held} {rest : List Held} (k : ReplyCode) (x : Bytes)
    (h : Begins s code c rest) (hc : u.cmd = s.cmd) (hw : u.line.waiters = s.line.waiters)
    (ho : u.line.own = s.line.own) :
    (.next (settleLine (answer k x u)) : Host.Outcome State Fault Refusal) = .next (replied k x c rest u) := by
  rw [settleLine_answer (s := u) (c := c) (rest := rest) k x (by rw [hc]; exact h.held)
    ⟨by rw [hw]; exact h.noWaiter, by rw [ho]; exact h.room⟩]

/-- An execution that takes time begins: the command stays the oldest held one, and the line settles. -/
theorem waiting_begins {s : State} {c : Held} {rest : List Held} (x : Executing) (hh : s.cmd.held = c :: rest)
    (hw : s.line.waiters = []) : settleLine (s.setCmd { s.cmd with executing := some x }) = waiting x c rest s := by
  rw [settleLine_of_noWaiter (by simpa using hw)]
  simp [settled, waiting, hh, State.setLine, State.setCmd]

end Sys2Proof.Machine
end

