-- ==== Sys2Proof/Laws/Store.lean ====
section
/-! SUPPORT. The Event Queue and the Snippet Store's accounts: what each shared operation does to the extents held, and that
each keeps `StoreAccounts`. -/

namespace Sys2Proof.Machine

set_option Elab.async false

/-- The words held by the extents of a queue. -/
abbrev heldWords (q : List EventRecord) : Nat := (q.map EventRecord.extent).sum

theorem heldWords_append (q r : List EventRecord) : heldWords (q ++ r) = heldWords q + heldWords r := by
  simp [heldWords]

/-- A change of the first record that `p` accepts changes the words held by that record's difference. -/
theorem heldWords_modifyFirst (p : EventRecord → Bool) (f : EventRecord → EventRecord) (q : List EventRecord)
    (r : EventRecord) (h : q.find? p = some r) :
    heldWords (modifyFirst p f q) + r.extent = heldWords q + (f r).extent := by
  induction q with
  | nil => simp at h
  | cons x xs ih =>
    simp only [modifyFirst, List.find?_cons] at h ⊢
    split at h
    · rename_i hp
      injection h with h
      subst h
      simp [hp, heldWords]
      omega
    · rename_i hp
      have := ih h
      simp [hp, heldWords] at this ⊢
      omega

theorem modifyFirst_none (p : EventRecord → Bool) (f : EventRecord → EventRecord) (q : List EventRecord)
    (h : q.find? p = none) : modifyFirst p f q = q := by
  induction q with
  | nil => rfl
  | cons x xs ih =>
    simp only [modifyFirst, List.find?_cons] at h ⊢
    split at h
    · simp at h
    · rename_i hp
      simp [hp, ih h]

theorem extentSize_placeEntries (w : Nat) (plan : List PlanEntry) :
    extentSize (placeEntries w plan) = extentSize plan := by
  induction plan generalizing w with
  | nil => rfl
  | cons e es ih => simp_all [placeEntries, extentSize]

theorem extentSize_modifyEntry (f : PlanEntry → PlanEntry) (hf : ∀ e, (f e).count = e.count) (k : Nat)
    (plan : List PlanEntry) : extentSize (modifyEntry f k plan) = extentSize plan := by
  induction plan generalizing k with
  | nil => cases k <;> rfl
  | cons e es ih =>
    match k with
    | 0 => rfl
    | 1 => simp [modifyEntry, extentSize, hf]
    | k + 2 =>
      have := ih (k + 1)
      simp_all [modifyEntry, extentSize]

@[simp] theorem extent_setOmits (k x y : Nat) (r : EventRecord) : (r.setOmits k x y).extent = r.extent := by
  show (if r.status.holdsExtent then extentSize (modifyEntry (fun e => { e with omitStart := x, omitEnd := y }) k r.plan)
    else 0) = if r.status.holdsExtent then extentSize r.plan else 0
  rw [extentSize_modifyEntry (fun e => { e with omitStart := x, omitEnd := y }) (fun _ => rfl)]

theorem candidate_waiting {s : State} {r : EventRecord} (h : candidate s = some r) :
    s.queue.find? EventRecord.isWaiting = some r ∧ r.status = .waiting := by
  unfold candidate at h
  split at h
  · simp at h
  · refine ⟨h, ?_⟩
    have := List.find?_some h
    simpa [EventRecord.isWaiting] using this

theorem extent_waiting {r : EventRecord} (h : r.status = .waiting) : r.extent = 0 := by
  simp [EventRecord.extent, h, SnippetStatus.holdsExtent]

theorem accounts_of_same {s t : State} (h : StoreAccounts s) (hq : t.queue = s.queue) (hs : t.store = s.store) :
    StoreAccounts t := ⟨by rw [hq, hs]; exact h.total, by rw [hs]; exact h.position⟩

theorem accounts_beginCapture {s : State} {r : EventRecord} (h : StoreAccounts s) (hc : candidate s = some r)
    (hf : extentSize r.plan ≤ s.store.freeWords) : StoreAccounts (beginCapture r s) := by
  obtain ⟨hq, hw⟩ := candidate_waiting hc
  have hm := heldWords_modifyFirst EventRecord.isWaiting
    (fun x => { x with status := .capturing, plan := placeEntries s.store.writePos x.plan }) s.queue r hq
  have he : EventRecord.extent { r with status := .capturing, plan := placeEntries s.store.writePos r.plan }
      = extentSize r.plan := by
    simp [EventRecord.extent, SnippetStatus.holdsExtent, extentSize_placeEntries]
  rw [extent_waiting hw, he] at hm
  have ht := h.total
  refine ⟨?_, ?_⟩
  · simp only [beginCapture, State.queue_setCapture, State.queue_setStore, State.queue_setQueue, State.store_setCapture,
      State.store_setStore]
    simp only [heldWords] at hm
    omega
  · simp only [beginCapture, State.store_setCapture, State.store_setStore]
    exact Nat.mod_lt _ (by decide)

theorem accounts_refuseCapture {s : State} {r : EventRecord} (h : StoreAccounts s) (hc : candidate s = some r) :
    StoreAccounts (refuseCapture s) := by
  obtain ⟨hq, hw⟩ := candidate_waiting hc
  have hm := heldWords_modifyFirst EventRecord.isWaiting (fun x => { x with status := .noSpace }) s.queue r hq
  have he : EventRecord.extent { r with status := .noSpace } = 0 := by
    simp [EventRecord.extent, SnippetStatus.holdsExtent]
  rw [extent_waiting hw, he] at hm
  have ht := h.total
  refine ⟨?_, by simpa using h.position⟩
  simp only [refuseCapture, raiseEventReady_queue, raiseEventReady_store, State.queue_setCapture, State.queue_setQueue,
    State.store_setCapture, State.store_setQueue]
  simp only [heldWords] at hm
  omega

theorem accounts_serveCandidate {s : State} (n : Nat) (h : StoreAccounts s) : StoreAccounts (serveCandidate n s) := by
  induction n generalizing s with
  | zero => exact h
  | succ n ih =>
    unfold serveCandidate
    split
    · exact h
    · rename_i r hc
      split
      · split
        · exact ih (accounts_refuseCapture h hc)
        · exact accounts_beginCapture h hc (by omega)
      · exact accounts_of_same h (by simp) (by simp)

theorem accounts_waitTest {s : State} (h : StoreAccounts s) : StoreAccounts (waitTest s) := accounts_serveCandidate _ h

theorem accounts_waitTestFor {s : State} (lane : Nat) (h : StoreAccounts s) : StoreAccounts (waitTestFor lane s) := by
  unfold waitTestFor
  split
  · exact accounts_waitTest h
  · exact h

theorem heldWords_abort (q : List EventRecord) :
    heldWords (q.map EventRecord.abort) + capturingWords q = heldWords q := by
  induction q with
  | nil => rfl
  | cons r rs ih =>
    simp only [heldWords, capturingWords, List.map_cons, List.sum_cons, List.filter_cons] at ih ⊢
    rcases hr : r.status <;>
      simp [EventRecord.abort, EventRecord.isCapturing, EventRecord.extent, SnippetStatus.settled,
        SnippetStatus.holdsExtent, hr] at ih ⊢ <;> omega

theorem accounts_abortCaptures {s : State} (h : StoreAccounts s) : StoreAccounts (abortCaptures s) := by
  have ha := heldWords_abort s.queue
  have ht := h.total
  unfold abortCaptures setFlagIf
  refine ⟨?_, ?_⟩
  · split <;> simp [setFlag, heldWords] at ha ⊢ <;> omega
  · split <;> simp only [setFlag, State.store_setNotice, State.store_setCapture, State.store_setStore] <;>
      exact Nat.mod_lt _ (by decide)

theorem accounts_appendRecord {s : State} (r : EventRecord) (hr : r.extent = 0) (h : StoreAccounts s) :
    StoreAccounts (appendRecord r s) := by
  have ht := h.total
  have h' : StoreAccounts (s.setQueue (s.queue ++ [r])) := by
    refine ⟨?_, h.position⟩
    simp [hr]
    omega
  unfold appendRecord
  dsimp only
  split
  · exact accounts_of_same h' (by simp) (by simp)
  · split
    · exact accounts_waitTest h'
    · exact h'

theorem extent_closedRecord (c : Closing) (run : Running) (v x y : Nat) (plan : List PlanEntry) (frozen : Bool) :
    (closedRecord c run v x y plan frozen).extent = 0 := by
  unfold closedRecord EventRecord.extent appendedStatus
  repeat' split
  all_goals simp_all [SnippetStatus.holdsExtent]

theorem accounts_appendClosed {s : State} (c : Closing) (run : Running) (plan : List PlanEntry) (h : StoreAccounts s) :
    StoreAccounts (appendClosed c run plan s) :=
  accounts_appendRecord _ (extent_closedRecord ..) (accounts_of_same h rfl rfl)

theorem accounts_freezeClose {s : State} (a : Activity) (h : StoreAccounts s) : StoreAccounts (freezeClose a s) := by
  unfold freezeClose
  repeat' split
  all_goals first | exact h | exact accounts_appendClosed _ _ _ h | exact accounts_of_same h rfl rfl

theorem accounts_enterFrozen {s : State} (a : Activity) (h : StoreAccounts s) : StoreAccounts (enterFrozen a s) := by
  unfold enterFrozen
  refine accounts_of_same (accounts_freezeClose a (accounts_abortCaptures
    (s := ((s.setNotice { s.notice with frozen := true }).setScan { s.scan with state := .frozen, tick := none }).setTracker
        { s.tracker with inbox := [], blocks := [] }) (accounts_of_same h rfl rfl))) (by simp) (by simp)

theorem accounts_takeFault {s : State} (a : Activity) (p : FaultPlace) (h : StoreAccounts s) :
    StoreAccounts (takeFault a p s) := by
  unfold takeFault
  dsimp only
  repeat' split
  all_goals first | exact h | exact accounts_enterFrozen _ (accounts_of_same h rfl rfl) | exact accounts_of_same h rfl rfl

theorem accounts_removeHead {s : State} (h : StoreAccounts s) : StoreAccounts (removeHead s) := by
  have ht := h.total
  unfold removeHead
  split
  · exact h
  · rename_i r rest hq
    refine ⟨?_, h.position⟩
    rw [hq] at ht
    simp at ht ⊢
    omega

theorem heldWords_markOverflow (q : List EventRecord) : heldWords (markOverflow q) = heldWords q := by
  induction q with
  | nil => rfl
  | cons r rs ih =>
    cases rs with
    | nil => simp [markOverflow, heldWords, EventRecord.extent]
    | cons x xs => simp [markOverflow, heldWords] at ih ⊢; exact ih

theorem accounts_discardClose {s : State} (h : StoreAccounts s) : StoreAccounts (discardClose s) := by
  have ht := h.total
  have hm := heldWords_markOverflow s.queue
  unfold discardClose
  refine ⟨?_, by simpa using h.position⟩
  simp [heldWords] at hm ⊢
  omega

theorem accounts_beginClose {s : State} (k : CloseReason) (t : Nat) (b : Bool) (h : StoreAccounts s) :
    StoreAccounts (beginClose k t b s) := by
  unfold beginClose
  split
  · exact accounts_of_same h rfl rfl
  · exact accounts_discardClose h

theorem accounts_cutOpenEvent {s : State} (k : CloseReason) (h : StoreAccounts s) : StoreAccounts (cutOpenEvent k s) := by
  unfold cutOpenEvent
  split
  · exact accounts_of_same h rfl rfl
  · exact accounts_beginClose _ _ _ h
  · exact h

theorem accounts_takeOverrun {s : State} (h : StoreAccounts s) : StoreAccounts (takeOverrun s) := by
  unfold takeOverrun
  repeat' split
  all_goals first | exact accounts_of_same h rfl rfl | exact accounts_cutOpenEvent _ h

theorem accounts_takeSilence {s : State} (h : StoreAccounts s) : StoreAccounts (takeSilence s) := by
  unfold takeSilence
  split
  · exact h
  · exact accounts_cutOpenEvent _ h

theorem accounts_takeTickResult {s : State} (r : TickResult) (h : StoreAccounts s) : StoreAccounts (takeTickResult r s) := by
  unfold takeTickResult
  dsimp only
  split
  · exact accounts_of_same h rfl rfl
  · exact accounts_of_same h rfl rfl
  · unfold tickInDeclared
    dsimp only
    split
    · exact accounts_beginClose _ _ _ (accounts_of_same h rfl rfl)
    · split
      · exact accounts_beginClose _ _ _ (accounts_of_same h rfl rfl)
      · exact accounts_of_same h rfl rfl
  · exact accounts_of_same h rfl rfl
  · exact h

theorem accounts_planRead {s : State} (m : Maximum) (lane : Nat) (h : StoreAccounts s) :
    StoreAccounts (planRead m lane s).2 := by
  unfold planRead
  dsimp only
  repeat' split
  all_goals first | exact h | exact accounts_takeFault _ _ h

theorem accounts_walkPlan {s : State} (m : Maximum) (c : CaptureParams) (ps : List (Nat × Nat)) (n : Nat)
    (h : StoreAccounts s) : StoreAccounts (walkPlan m c ps n s).2 := by
  induction ps generalizing n s with
  | nil => exact h
  | cons p ps ih =>
    unfold walkPlan
    split
    · exact h
    · have hp := accounts_planRead m p.1 h
      rcases hr : planRead m p.1 s with ⟨d, t⟩
      rw [hr] at hp
      cases d with
      | some d => exact ih _ hp
      | none =>
        dsimp only
        split
        · exact hp
        · exact ih _ hp

theorem accounts_makePlan {s : State} (c : Closing) (m : Maximum) (h : StoreAccounts s) :
    StoreAccounts (makePlan c m s).2 := by
  unfold makePlan
  split
  · exact h
  · exact accounts_walkPlan _ _ _ _ h

theorem accounts_completeClose {s : State} (c : Closing) (run : Running) (h : StoreAccounts s) :
    StoreAccounts (completeClose c run s) := by
  unfold completeClose
  exact accounts_appendClosed _ _ _ (accounts_makePlan c run.maximum h)

theorem accounts_updateCapturing {s : State} (f : EventRecord → EventRecord)
    (hf : ∀ r, r.isCapturing = true → (f r).extent = r.extent) (h : StoreAccounts s) :
    StoreAccounts (updateCapturing f s) := by
  unfold updateCapturing
  refine ⟨?_, h.position⟩
  rcases hq : s.queue.find? EventRecord.isCapturing with _ | r
  · rw [modifyFirst_none _ _ _ hq]
    exact h.total
  · have hm := heldWords_modifyFirst EventRecord.isCapturing f s.queue r hq
    rw [hf r (List.find?_some hq)] at hm
    have ht := h.total
    simp [heldWords] at hm ⊢
    omega

theorem accounts_endCapture {s : State} (e : Bool) (h : StoreAccounts s) : StoreAccounts (endCapture e s) := by
  unfold endCapture
  refine accounts_waitTest (accounts_of_same (accounts_updateCapturing
    (fun r => { r with status := r.outcome e }) ?_ h) (by simp) (by simp))
  intro r hr
  have hs : r.status = .capturing := by simpa [EventRecord.isCapturing] using hr
  unfold EventRecord.outcome
  split <;> simp [EventRecord.extent, hs, SnippetStatus.holdsExtent]

theorem accounts_copyWord (lane i w : Nat) (p : CopyProgress) (h : StoreAccounts p.state) :
    StoreAccounts (copyWord lane i w p).state := by
  have hw : ∀ x, StoreAccounts (writeStore w x p.state) := fun x => ⟨by simpa [writeStore, SnippetStore.writeWord] using h.total,
    by simpa [writeStore, SnippetStore.writeWord] using h.position⟩
  unfold copyWord
  split
  all_goals first
    | exact hw _
    | (dsimp only
       unfold copyEccFailure
       split
       · exact hw _
       · split
         · exact hw _
         · exact accounts_takeFault _ _ (accounts_of_same (hw missingMarker) rfl rfl))

theorem accounts_copyWords (lane n i w : Nat) (p : CopyProgress) (h : StoreAccounts p.state) :
    StoreAccounts (copyWords lane n i w p).state := by
  induction n generalizing i w p with
  | zero => exact h
  | succ n ih =>
    unfold copyWords
    dsimp only
    split
    · exact accounts_copyWord _ _ _ _ h
    · exact ih _ _ _ (accounts_copyWord _ _ _ _ h)

theorem accounts_copyStep {s : State} (h : StoreAccounts s) : StoreAccounts (copyStep s) := by
  unfold copyStep
  split
  · split
    · exact h
    · rename_i e _
      have hp := accounts_copyWords e.lane e.count e.start (e.extentOffset.getD 0)
        { state := s, omitStart := 0, omitEnd := 0 } h
      dsimp only
      split
      · exact hp
      · have hu := fun k x y => accounts_updateCapturing (EventRecord.setOmits k x y)
          (fun r _ => extent_setOmits k x y r) hp
        split
        · exact accounts_of_same (hu _ _ _) rfl rfl
        · exact accounts_endCapture _ (hu _ _ _)
  · exact h

theorem accounts_retest {s : State} (h : StoreAccounts s) : StoreAccounts (retest s) := by
  unfold retest fallBehind jumpCursor
  split
  · split
    · dsimp only
      split
      · rename_i t l _ _ _
        have hs : StoreAccounts (s.setScan { s.scan with
            cursor := some (l - activeDmax s - (scanValues s).grace)
            skippedTicks := satAdd s.scan.skippedTicks (l - activeDmax s - (scanValues s).grace - t) }) :=
          accounts_of_same h rfl rfl
        exact accounts_of_same (accounts_takeOverrun hs) (by simp) (by simp)
      · exact h
    · exact h
  · exact h

theorem accounts_applyLaneChange {s : State} (c : LaneChange) (h : StoreAccounts s) :
    StoreAccounts (applyLaneChange c s) := by
  unfold applyLaneChange
  dsimp only
  split
  · exact accounts_waitTestFor _ (accounts_of_same h rfl rfl)
  · exact accounts_waitTestFor _ (accounts_of_same h rfl rfl)

theorem accounts_answer {s : State} (k : ReplyCode) (x : Bytes) (h : StoreAccounts s) : StoreAccounts (answer k x s) :=
  accounts_of_same h (by simp) (by simp)

theorem accounts_tickBoundary {s : State} (h : StoreAccounts s) : StoreAccounts (tickBoundary s) := by
  have hw : ∀ u, StoreAccounts u → StoreAccounts (applyWaitingChange u) := by
    intro u hu
    unfold applyWaitingChange
    split
    · exact accounts_answer _ _ (accounts_applyLaneChange _ hu)
    · exact hu
  unfold tickBoundary
  split
  · exact hw _ (accounts_of_same h (by simp) (by simp))
  · apply accounts_retest
    apply hw
    split
    · exact accounts_of_same h (by simp) (by simp)
    · exact h

theorem accounts_deliver {s : State} (r : TickResult) (h : StoreAccounts s) : StoreAccounts (deliver r s) :=
  accounts_takeTickResult _ (accounts_of_same h rfl rfl)

theorem accounts_stackLanes {s : State} (bank : BankId) (v t : Nat) (c : List (Nat × Nat)) (k : Stack)
    (h : StoreAccounts s) : StoreAccounts (stackLanes bank v t c k s).2 := by
  induction c generalizing k s with
  | nil => exact h
  | cons p rest ih =>
    obtain ⟨lane, w⟩ := p
    have hm : ∀ u, StoreAccounts (meetTrackParity lane u s) := by
      intro u
      unfold meetTrackParity
      split
      · exact h
      · exact accounts_takeFault _ _ (accounts_of_same h rfl rfl)
    unfold stackLanes
    dsimp only
    repeat' split
    all_goals first | exact accounts_takeFault _ _ h | exact ih _ h | exact hm _ | exact ih _ (hm _)

theorem accounts_evaluateVoxel {s : State} (k : TickScan) (h : StoreAccounts s) : StoreAccounts (evaluateVoxel k s) := by
  unfold evaluateVoxel
  dsimp only
  split
  · exact accounts_of_same (accounts_takeFault .scan (.table k.bank k.voxel .flag) h) (by simp) (by simp)
  · split
    · exact accounts_of_same h (by simp) (by simp)
    · exact accounts_of_same (accounts_stackLanes k.bank k.voxel k.origin k.contributing Stack.nothing h) (by simp) (by simp)

theorem accounts_acceptBlock {s : State} (lane : Nat) (k : Block) (l : Lane) (h : StoreAccounts s) :
    StoreAccounts (acceptBlock lane k l s) := by
  unfold acceptBlock
  exact accounts_waitTestFor _ (accounts_retest (accounts_of_same h (by simp) (by simp)))

theorem accounts_readWords {s : State} (n w : Nat) (st : Stream) (h : StoreAccounts s) :
    StoreAccounts (readWords n w st s).2.2 := by
  induction n generalizing w st s with
  | zero => exact h
  | succ n ih =>
    unfold readWords
    dsimp only
    split
    · exact ih _ _ h
    · apply ih
      unfold meetStoreFailure
      dsimp only
      repeat' split
      · exact accounts_of_same h rfl rfl
      · exact h
      · exact accounts_takeFault _ _ h

end Sys2Proof.Machine
end

