-- ==== Sys2Proof/WellFormed.lean ====
section
/-! DEFINITION. Which commands are well formed. A frame may hold any bytes (a bad one is counted, R142), so the only bound the
spec puts on an operand is that of a lane number. -/

namespace Sys2Proof

/-- A lane number is 0..191 (00, Capacities); every other operand may take every value of its type. -/
def Instr.wellFormed : Instr → Bool
  | .acceptedBlock lane => lane < Config.lanes
  | .laneTimerExpiry lane => lane < Config.lanes
  | .coldStart _ | .upstreamFrameReceived _ | .sampleFrameProcessing | .lineSilenceExpiry | .downstreamFrameReceived _
  | .holdReceived | .holdReleaseReceived | .downstreamTransmitEnd | .upstreamTransmitEnd | .noticeFrame
  | .unknownCommandCode | .setAddress | .readPortCounters | .readStatus | .setParameters | .readParameters | .loadLaneMap
  | .setLane | .readLane | .readLaneChanges | .beginBankLoad | .loadRows | .endBankLoad | .endOfValidation | .switchBank
  | .readBank | .readRow | .startScan | .haltScan | .clearScan | .readScan | .readDetector | .fetchEvent | .readSnippet
  | .snippetFramePlaced | .releaseEvent | .readNotices | .clearNotices | .setNoticeMask | .readFault | .clearFault | .restart
  | .hotStartCompletion | .tickScanBegin | .voxelEvaluation | .tickResultDelivery | .closeCompletion | .waitTimerExpiry
  | .copyStep | .resetLineReleased => true

end Sys2Proof
end

