-- ==== Sys2Proof/Tests/Slice0.lean ====
section
/-! SUPPORT. Tests by evaluation: the worked cases of spec/, and for every statement with hypotheses a concrete state and
operands that meet them (`witness_<statement>`, one conjunct or theorem a clause). -/

namespace Sys2Proof.Tests

set_option Elab.async false

open Sys2Proof Sys2Proof.Machine

/-! ## Helpers -/

/-- The state after a row. -/
def after (i : Instr) (s : State) : State :=
  match exec i s with
  | .next t => t
  | _ => s

/-- A held command with tag 7. -/
def cmd (code : Byte) (params : Bytes) : Held := { tag := 7, code := code, params := params }

/-- `s` with one command held. -/
def serving (s : State) (code : Byte) (params : Bytes) : State := s.setCmd { held := [cmd code params], executing := none }

theorem serving_begins (s : State) (code : Byte) (params : Bytes) (n : Nat) (h1 : s.resetHeld = false)
    (h2 : s.line.waiters = []) (h3 : s.line.own = []) (h4 : code.toNat = n) :
    Begins (serving s code params) n (cmd code params) [] := by
  refine ⟨⟨h1, rfl, rfl, h4⟩, ⟨h2, ?_⟩⟩
  show s.line.own.length < 16
  rw [h3]
  decide

/-- A frame in transmission at the downstream transmitter. -/
def sending : State := State.reset.setLine { Line.cold with dnTx := some { bytes := [1], isOwn := true } }

/-- A ROLLCALL with a hop count and sequence 9. -/
def rollcall (hop : Byte) : Bytes := withTail [0x40, hop, 0, 8, 0, 9]

/-- An ENGINE_COMMAND with tag 7. -/
def commandFrame (target code : Byte) (params : Bytes) : Bytes := ownFrame 0x30 ([target, 7, code] ++ params)

/-- A SAMPLE frame of station 1 with one channel and rate code 2, LOCKED, without clips, every sample 100. -/
def sampleFrame (tag : Nat) : Bytes :=
  withTail ([0x10, 0, 0, 68, 1, 0x12, 0, 0, 0] ++ encNat 6 tag ++ [0, 0, 0] ++ (List.replicate 16 (encNat 3 100)).flatten)

/-- A lane that has received 100 blocks of station 1, channel 1, at the cold rate and tick. -/
def lane (state : LaneState) : Lane :=
  { entry := { station := 1, channel := 1, weight := 10, gainShift := 2, included := state != .excluded }
    record :=
      { state := state, expectedTag := some 1600, completeThrough := some 399, goodRun := 20, badRun := 0, warmup := 1600
        weightInUse := 10, gainInUse := 2, timer := some 500, changed := false, counters := LaneCounters.zero
        filter := some { m := 100, s := 0, l := 0 }, taken := some (takenValues Params.cold.lane) } }

/-- A lane that has received nothing. -/
def freshLane : Lane :=
  { lane .absent with record := clearedRecord (lane .absent).entry none }

/-- Lane 191 mapped. -/
def mapped (l : Lane) : State :=
  State.reset.setTracker
    { lanes := [(191, l)], lineTime := some 399, silenceTimer := some 2000, inbox := [], blocks := [] }

/-- A row: delay 3 for lane 191, NONE for the others. -/
def row (enabled nuisance : Bool) : Row :=
  { flags := { enabled := enabled, nuisance := nuisance, parityOk := true }
    delays := List.replicate 191 { delay := none, parityOk := true } ++ [{ delay := some 3, parityOk := true }] }

/-- A bank of one voxel. -/
def bank (state : BankState) (r : Row) : Bank :=
  { state := state, voxelCount := 1, tag := 77, dmax := some 3, check := some 0, rows := [(0, r)] }

/-- Bank A as given, bank B EMPTY. -/
def withBankA (k : Bank) (s : State) : State :=
  s.setBanks { a := k, b := Bank.cold, active := if k.state = .active then some .a else none, pendingSwitch := none }

/-- A scan with lane 191 ADMITTED, line time 399, and every cell of ticks 390 to 399 present with value 800. -/
def scan (state : ScanState) : State :=
  ((withBankA (bank .active (row true false)) (mapped (lane .admitted))).setScan
      { Scan.started with state := state, cursor := some 390, inUse := some Params.cold.scan }).setTracks
    [(191, { newest := some 399
             cells := (List.range 10).map fun i => (390 + i, { value := 800, present := true, parityOk := true }) })]

/-- The same scan with tick 390 in flight. -/
def ticking (state : ScanState) : State := after .tickScanBegin (scan state)

/-- The same scan with the walk of tick 390 at its end. -/
def walked (state : ScanState) : State := after .voxelEvaluation (ticking state)

/-- A running record that reached its maximum at tick 390. -/
def run : Running :=
  { onsetTick := 388, onsetCount := 3, quietRun := 7, vetoCount := 0, durationLimit := 512, lastTick := 389
    maximum := { origin := 390, peak := 800, peakVoxel := 0, mean := 100, bank := .a, bankTag := 77, pairs := [(191, 8000)] } }

/-- A Detector in a state, with a running record where that state has one. -/
def det (state : DetState) : Detector :=
  { Detector.started 65535 with
    state := state, running := if state = .onset ∨ state = .declared then some run else none
    holdoff := if state = .holdoff then 1 else 0 }

/-- A close begun at tick 391 with the cold parameters; a HOLDOFF of 16 follows it. -/
def close (reason : CloseReason) (boundary overrun : Bool) : Closing :=
  { reason := reason, closeTick := 391, capture := Params.cold.capture, detect := Params.cold.detect, boundary := boundary
    overrun := overrun }

/-- A DECLARED event whose close `c` is in progress. -/
def closingFor (c : Closing) (s : State) : State := s.setDet { det .declared with closing := some c }

/-- A DECLARED event whose close for QUIET_RUN is in progress. -/
def closing (s : State) : State := closingFor (close .quietRun true false) s

/-- A plan entry for lane 191. -/
def entry : PlanEntry :=
  { lane := 191, product := 8000, start := 1500, count := 80, omitStart := 0, omitEnd := 0, extentOffset := some 0 }

/-- An event record. -/
def event (status : SnippetStatus) : EventRecord :=
  { serial := 5, bank := .a, bankTag := 77, onsetTick := 388, originTick := 390, closeTick := 391, duration := 4
    peakVoxel := 0, peak := 800, mean := 100, contributors := 1, vetoCount := 0, closeReason := .quietRun
    contaminated := false, overflowFollows := false, status := status, plan := [entry], closeTime := 10 }

/-- An event at the head of the Event Queue. -/
def queued (status : SnippetStatus) : State := (mapped (lane .admitted)).setQueue [event status]

/-- The engine FROZEN. -/
def frozen : State :=
  (State.reset.setNotice { NoticeUnit.started 0 with frozen := true }).setScan { Scan.started with state := .frozen }

/-! ## Well-formedness and decoding -/

theorem test_lane_191_accepted :
    (Instr.acceptedBlock 191).wellFormed = true ∧ (Instr.laneTimerExpiry 191).wellFormed = true := by decide

theorem test_acceptedBlock_lane_192_refused : (Instr.acceptedBlock 192).wellFormed = false := by decide

theorem test_laneTimerExpiry_lane_192_refused : (Instr.laneTimerExpiry 192).wellFormed = false := by decide

theorem test_no_word_spells_a_command : decodeTableWord 16 0x5F = none := rfl

theorem test_withFetchWord_changes_nothing : State.reset.withFetchWord 16 0x5F = State.reset := rfl

/-! ## The queue of commands, the starts and the reset line -/

theorem witness_IdleAndHeldSteps :
    State.reset.pending = [] ∧ (State.reset.setResetHeld true).resetHeld = true
      ∧ Instr.readStatus ≠ .resetLineReleased := by decide

theorem witness_StartsSetScanUnitAndDetector :
    Oldest (serving frozen 0x5F []) 0x5F (cmd 0x5F []) [] ∧ (cmd 0x5F []).params = [] := ⟨⟨rfl, rfl, rfl, rfl⟩, rfl⟩

/-- A RESTART with its hot start in progress. -/
def hotStarted : State := State.reset.setCmd { held := [cmd 0x5F []], executing := some .hotStart }

theorem witness_HotStartRuns :
    Oldest (serving frozen 0x5F []) 0x5F (cmd 0x5F []) []
      ∧ (hotStarted.cmd.held = [cmd 0x5F []] ∧ hotStarted.cmd.executing = some .hotStart ∧ OwnRoom hotStarted)
      ∧ State.reset.cmd.executing ≠ some .hotStart ∧ State.reset.line.waiters = [] :=
  ⟨⟨rfl, rfl, rfl, rfl⟩, ⟨rfl, rfl, rfl, by decide⟩, by decide, rfl⟩

/-- A hot start that finds the Own Queue full as it completes. -/
def hotStartFull : State := hotStarted.setLine
  { Line.cold with own := List.replicate 16 [1], dnTx := some { bytes := [1], isOwn := true } }

theorem witness_HotStartRuns_full :
    hotStartFull.cmd.held = [cmd 0x5F []] ∧ hotStartFull.cmd.executing = some .hotStart ∧ 16 ≤ hotStartFull.line.own.length
      ∧ .commandUnit ∉ hotStartFull.line.waiters ∧ hotStartFull.line.dnTx.isSome = true := by decide

theorem test_hot_start_ends_with_its_reply_waiting :
    (after .hotStartCompletion hotStartFull).line.waiters = [.commandUnit]
      ∧ hotStarting (after .hotStartCompletion hotStartFull) = false := by decide +kernel

theorem test_restart_then_completion :
    (after .hotStartCompletion (after .restart (serving frozen 0x5F []))).notice.frozen = false
      ∧ (after .hotStartCompletion (after .restart (serving frozen 0x5F []))).cmd.held = [] := by decide +kernel

/-! ## Frames and queues of the line -/

theorem witness_FramesChecked :
    2 ≤ (List.replicate 2 (0 : Byte)).length ∧ (List.replicate 1018 (0 : Byte)).length ≤ 1018 :=
  ⟨by decide, List.length_replicate.le⟩

/-- The check value of CRC-16 with polynomial 0x1021 and register 0xFFFF over the nine digits. -/
theorem test_crc16 : crc16 [0x31, 0x32, 0x33, 0x34, 0x35, 0x36, 0x37, 0x38, 0x39] = 0x29B1 := by decide +kernel

theorem witness_UpstreamFrameHandled :
    frameGood (sampleFrame 1600) = true ∧ frameGood [] = false ∧ State.reset.resetHeld = false := by decide +kernel

theorem test_sample_frame_is_forwarded_and_handed_over :
    (after (.upstreamFrameReceived (sampleFrame 1600)) State.reset).line.dnTx
        = some { bytes := sampleFrame 1600, isOwn := false }
      ∧ (after (.upstreamFrameReceived (sampleFrame 1600)) State.reset).tracker.inbox = [sampleFrame 1600] := by
  decide +kernel

/-- Address 2, fixed. -/
def addressed : State := State.reset.setLine { Line.cold with address := 2, addressValid := true, mode := .manual }

theorem witness_DownstreamFramesRouted :
    frameGood [1] = false
      ∧ (frameGood (ownFrame 0x31 [0, 0]) = true ∧ byteAt (ownFrame 0x31 [0, 0]) 0 ≠ 0x30
          ∧ byteAt (ownFrame 0x31 [0, 0]) 0 ≠ 0x40)
      ∧ (frameGood (ownFrame 0x30 [15, 7]) = true ∧ (ownFrame 0x30 [15, 7]).length < 9)
      ∧ (frameGood (commandFrame 15 8 []) = true ∧ 9 ≤ (commandFrame 15 8 []).length
          ∧ byteAt (commandFrame 15 8 []) 4 = 15)
      ∧ (frameGood (commandFrame 2 8 []) = true ∧ byteAt (commandFrame 2 8 []) 4 = addressed.line.address
          ∧ addressed.line.addressValid = true)
      ∧ (frameGood (commandFrame 3 8 []) = true ∧ byteAt (commandFrame 3 8 []) 4 ≠ addressed.line.address) := by
  decide +kernel

/-- The upstream transmitter busy, with `n` frames in the Upward Queue. -/
def upward (n : Nat) : State := State.reset.setLine { Line.cold with upTx := some [1], up := List.replicate n [2] }

theorem witness_DownstreamFramesRouted_queue :
    ((upward 15).line.upTx = some [1] ∧ (upward 15).line.up.length < 16)
      ∧ ((upward 16).line.upTx = some [1] ∧ 16 ≤ (upward 16).line.up.length)
      ∧ (State.reset.line.upTx = none ∧ State.reset.line.up = [])
      ∧ ((State.reset.setLine { Line.cold with up := [[3]] }).line.up = [3] :: [] ∧ ([] : List Bytes).length < 15) := by
  decide

theorem test_fifth_command_is_discarded :
    (after (.downstreamFrameReceived (commandFrame 2 8 []))
        (addressed.setCmd { held := List.replicate 4 (cmd 8 []), executing := none })).line.commandDiscards = 1
      ∧ (after (.downstreamFrameReceived (commandFrame 2 8 []))
          (addressed.setCmd { held := List.replicate 3 (cmd 8 []), executing := none })).cmd.held
        = List.replicate 4 (cmd 8 []) := by decide +kernel

theorem witness_RollcallHandled :
    (frameGood (rollcall 3) = true ∧ byteAt (rollcall 3) 0 = 0x40 ∧ byteAt (rollcall 3) 1 ≤ 3)
      ∧ (frameGood (rollcall 4) = true ∧ 3 < byteAt (rollcall 4) 1)
      ∧ State.reset.line.mode = .auto ∧ addressed.line.mode = .manual
      ∧ (sending.line.waitingAnswer = none ∧ sending.line.dnTx.isSome = true ∧ OwnRoom sending)
      ∧ ((upward 15).line.upTx.isSome = true ∧ (upward 15).line.up.length < 16) :=
  ⟨by decide +kernel, by decide +kernel, rfl, rfl, ⟨rfl, rfl, rfl, by decide⟩, by decide⟩

theorem test_rollcall_hop_3_and_4 :
    ((after (.downstreamFrameReceived (rollcall 3)) sending).line.address,
      (after (.downstreamFrameReceived (rollcall 3)) sending).line.addressValid,
      (after (.downstreamFrameReceived (rollcall 4)) sending).line.addressValid) = (3, true, false)
      ∧ (after (.downstreamFrameReceived (rollcall 3)) sending).line.upTx = some (rollcall 4)
      ∧ (after (.downstreamFrameReceived (rollcall 255)) sending).line.upTx = some (rollcall 255) := by decide +kernel

/-- `n` frames in the Own Queue, the transmitter sending, with the producers that wait and the answer that waits. -/
def ownLine (n : Nat) (waiters : List Producer) (answer : Option Bytes) : State :=
  State.reset.setLine { sending.line with own := List.replicate n [1], waiters := waiters, waitingAnswer := answer }

theorem witness_RollcallHandled_full :
    (16 ≤ (ownLine 16 [] none).line.own.length ∧ (ownLine 16 [] none).line.dnTx.isSome = true
        ∧ (ownLine 16 [] none).line.waitingAnswer = none)
      ∧ (ownLine 16 [.lineInterface] (some [9])).line.waitingAnswer = some [9] := by decide

/-- A second roll call replaces the answer that waits, which keeps its place among the waiters. -/
theorem test_waiting_answer_is_replaced :
    let t := after (.downstreamFrameReceived (rollcall 3)) (ownLine 16 [.lineInterface, .commandUnit] (some [9]))
    t.line.waiters = [.lineInterface, .commandUnit]
      ∧ t.line.waitingAnswer = some (ownFrame 0x41 [3, 0, 1, 0, 9, 3]) := by decide +kernel

/-- A line whose queues and count are given. -/
def arbiter (own fwd : List Bytes) (n : Nat) : Line := { Line.cold with own := own, fwd := fwd, sinceOwn := n }

/-- The Own Queue full, and a reply that waits. -/
def replyWaits (own : List Bytes) (fwd : List Bytes) : State :=
  (State.reset.setLine { arbiter own fwd 0 with waiters := [.commandUnit] }).setCmd
    { held := [cmd 8 []], executing := some (.replyWaiting [9]) }

theorem witness_OutputArbiterServes :
    ({ Line.cold with hold := true }.hold = true ∧ sending.line.dnTx.isSome = true)
      ∧ ((arbiter [[1]] [] 0).own = [1] :: [] ∧ (arbiter [[1]] [] 0).fwd = [])
      ∧ ((arbiter [[1]] [[2]] 8).own = [1] :: [] ∧ (arbiter [[1]] [[2]] 8).sinceOwn = 8)
      ∧ ((arbiter [[1]] [[2]] 7).fwd = [2] :: [] ∧ (arbiter [[1]] [[2]] 7).sinceOwn ≠ 8)
      ∧ ((arbiter [] [[2]] 8).fwd = [2] :: [] ∧ (arbiter [] [[2]] 8).own = [])
      ∧ ((replyWaits [] []).line.waiters = [.commandUnit]
          ∧ (replyWaits [] []).cmd.executing = some (.replyWaiting [9]) ∧ (replyWaits [] []).line.own.length < 16)
      ∧ ((replyWaits (List.replicate 16 [1]) []).line.own = [1] :: List.replicate 15 [1]
          ∧ (List.replicate 15 [1]).length = 15 ∧ (replyWaits (List.replicate 16 [1]) []).line.dnTx = none)
      ∧ ({ Line.cold with waiters := [.lineInterface], waitingAnswer := some [9] }.own.length < 16) := by decide

/-- A reply and a roll-call answer that wait. -/
def bothWait (n : Nat) (waiters : List Producer) : State :=
  (ownLine n waiters (some [8])).setCmd { held := [cmd 8 []], executing := some (.replyWaiting [9]) }

theorem witness_OutputArbiterServes_waiters :
    (bothWait 14 [.noticeUnit, .commandUnit]).line.waiters = .noticeUnit :: [.commandUnit]
      ∧ ((bothWait 15 [.commandUnit, .lineInterface]).cmd.executing = some (.replyWaiting [9])
          ∧ (bothWait 15 [.commandUnit, .lineInterface]).line.waitingAnswer = some [8]
          ∧ (bothWait 15 [.commandUnit, .lineInterface]).line.dnTx.isSome = true)
      ∧ ((bothWait 15 [.commandUnit, .lineInterface]).line.waiters = .commandUnit :: [.lineInterface]
          ∧ (bothWait 15 [.commandUnit, .lineInterface]).line.own.length = 15)
      ∧ (bothWait 15 [.lineInterface, .commandUnit]).line.waiters = .lineInterface :: [.commandUnit]
      ∧ (bothWait 14 [.commandUnit, .lineInterface]).line.own.length < 15 := by decide

theorem test_longest_waiter_is_served_first :
    (settleLine (bothWait 14 [.lineInterface, .commandUnit])).line.own = List.replicate 14 [1] ++ [[8], [9]]
      ∧ (settleLine (bothWait 15 [.commandUnit, .lineInterface])).line.waiters = [.lineInterface]
      ∧ (settleLine (bothWait 15 [.commandUnit, .lineInterface])).line.own = List.replicate 15 [1] ++ [[9]] := by decide

/-- The transmitter free: an own frame is sent first, for the Forwarding Queue is empty or eight frames have gone before it. -/
theorem test_arbiter_counts_to_eight :
    (arbiter [[1]] [[2]] 7).arbitrate = { arbiter [[1]] [] 8 with dnTx := some { bytes := [2], isOwn := false } }
      ∧ (arbiter [[1]] [[2]] 8).arbitrate = { arbiter [] [[2]] 0 with dnTx := some { bytes := [1], isOwn := true } } := by
  decide

theorem witness_TransmittersAndHold :
    State.reset.line.dnTx = none
      ∧ sending.line.dnTx = some { bytes := [1], isOwn := true }
      ∧ ({ Line.cold with dnTx := some { bytes := [1], isOwn := false } }.dnTx = some { bytes := [1], isOwn := false })
      ∧ ((upward 0).line.upTx = some [1] ∧ (upward 0).line.up = [])
      ∧ ((upward 1).line.upTx = some [1] ∧ (upward 1).line.up = [2] :: [])
      ∧ State.reset.line.upTx = none ∧ State.reset.line.up = [] := by decide

theorem test_transmit_ends_are_counted :
    (after .downstreamTransmitEnd sending).line.ownSent = 1
      ∧ (after .upstreamTransmitEnd (upward 1)).line.dnPort.forwarded = 1
      ∧ (after .upstreamTransmitEnd (upward 1)).line.upTx = some [2] := by decide

/-- HOLD stops the arbiter, and its release lets it choose. -/
theorem test_hold_and_release :
    (after .holdReceived (State.reset.setLine (arbiter [] [[2]] 0))).line.hold = true
      ∧ (after .holdReleaseReceived (State.reset.setLine { arbiter [] [[2]] 0 with hold := true })).line.dnTx
        = some { bytes := [2], isOwn := false } := by decide

/-- A due notice of FAULT, with `n` frames in the Own Queue. -/
def noticeDue (n : Nat) (waiters : List Producer) : State :=
  (State.reset.setLine { addressed.line with own := List.replicate n [1], waiters := waiters }).setNotice
    { NoticeUnit.started 0x80 with flags := 0x80, due := true }

theorem witness_NoticeFramePlaced :
    ((noticeDue 15 []).notice.due = true ∧ (noticeDue 15 []).line.addressValid = true
        ∧ (noticeDue 15 []).notice.flags &&& (noticeDue 15 []).notice.enables ≠ 0 ∧ OwnRoom (noticeDue 15 []))
      ∧ (16 ≤ (noticeDue 16 []).line.own.length ∧ .noticeUnit ∉ (noticeDue 16 []).line.waiters)
      ∧ .noticeUnit ∈ (noticeDue 16 [.noticeUnit]).line.waiters
      ∧ State.reset.notice.due = false :=
  ⟨⟨rfl, rfl, by decide, rfl, by decide⟩, by decide, by decide, rfl⟩

theorem witness_NoticeFramePlaced_waiters :
    ((noticeDue 15 [.noticeUnit, .commandUnit]).line.waiters = .noticeUnit :: [.commandUnit]
        ∧ (noticeDue 15 [.noticeUnit, .commandUnit]).line.own.length < 16)
      ∧ ((∃ p others, (noticeDue 15 [.commandUnit]).line.waiters = p :: others ∧ p ≠ .noticeUnit)
          ∧ .noticeUnit ∉ (noticeDue 15 [.commandUnit]).line.waiters)
      ∧ ((∃ p others, (noticeDue 0 [.commandUnit, .noticeUnit]).line.waiters = p :: others ∧ p ≠ .noticeUnit)
          ∧ .noticeUnit ∈ (noticeDue 0 [.commandUnit, .noticeUnit]).line.waiters) :=
  ⟨by decide, ⟨⟨_, _, rfl, by decide⟩, by decide⟩, ⟨_, _, rfl, by decide⟩, by decide⟩

/-- The notice that waits at the front takes the last place free; the producer behind it waits on. -/
theorem test_notice_takes_its_place :
    let t := after .noticeFrame ((noticeDue 15 [.noticeUnit, .commandUnit]).setLine
      { (noticeDue 15 [.noticeUnit, .commandUnit]).line with dnTx := some { bytes := [1], isOwn := true } })
    (t.line.own.length, t.line.waiters, t.notice.due) = (16, [.commandUnit], false) := by decide +kernel

theorem test_notice_is_sent :
    (after .noticeFrame (noticeDue 0 [])).notice.due = false
      ∧ (after .noticeFrame (noticeDue 0 [])).line.dnTx
        = some { bytes := ownFrame 0x32 [2, 0, 0x80, 0, 255, 255, 255, 255, 255, 255, 0], isOwn := true } := by
  decide +kernel

/-! ## The Command Unit -/

theorem witness_CommandsCheckedInOrder :
    (Begins (serving State.reset 0x7F []) 0x7F (cmd 0x7F []) [] ∧ 0x7F ∉ knownCodes)
      ∧ (commandCode .readStatus = some 0x08 ∧ Begins (serving State.reset 0x08 [1]) 0x08 (cmd 0x08 [1]) []
          ∧ paramsFit .readStatus (cmd 0x08 [1]) = false)
      ∧ (commandCode .haltScan = some 0x31 ∧ refusedFrozen .haltScan = true
          ∧ Begins (serving frozen 0x31 []) 0x31 (cmd 0x31 []) [] ∧ paramsFit .haltScan (cmd 0x31 []) = true
          ∧ (serving frozen 0x31 []).notice.frozen = true) :=
  ⟨⟨serving_begins _ _ _ _ rfl rfl rfl rfl, by decide⟩, ⟨rfl, serving_begins _ _ _ _ rfl rfl rfl rfl, rfl⟩, rfl, rfl,
    serving_begins _ _ _ _ rfl rfl rfl rfl, rfl, rfl⟩

theorem test_unknown_code_is_bad_request :
    (after .unknownCommandCode (serving sending 0x7F [])).line.own = [ownFrame 0x31 [255, 7, 0x7F, 6]] := by decide +kernel

/-- A held READ STATUS that finds the Own Queue full, the transmitter sending. -/
def noRoom (code : Byte) : State :=
  (State.reset.setLine { sending.line with own := List.replicate 16 [1] }).setCmd
    { held := [cmd code []], executing := none }

theorem witness_CommandsServedInOrder :
    (commandCode .readStatus = some 0x08 ∧ State.reset.cmd.held = [])
      ∧ hotStarted.cmd.executing.isSome = true
      ∧ ((serving State.reset 0x48 []).cmd.held = [cmd 0x48 []] ∧ (cmd 0x48 []).code.toNat ≠ 0x08)
      ∧ (Oldest (noRoom 0x08) 0x08 (cmd 0x08 []) [] ∧ Oldest (noRoom 0x48) 0x48 (cmd 0x48 []) []
          ∧ Oldest (noRoom 0x50) 0x50 (cmd 0x50 []) [])
      ∧ (16 ≤ (noRoom 0x08).line.own.length ∧ .commandUnit ∉ (noRoom 0x08).line.waiters
          ∧ (noRoom 0x08).line.dnTx.isSome = true) :=
  ⟨⟨rfl, rfl⟩, rfl, ⟨rfl, by decide⟩, ⟨⟨rfl, rfl, rfl, rfl⟩, ⟨rfl, rfl, rfl, rfl⟩, rfl, rfl, rfl, rfl⟩, by decide⟩

/-- One command held, whatever the room; the engine FROZEN or not. -/
def held (s : State) (code : Byte) (params : Bytes) : State := s.setCmd { held := [cmd code params], executing := none }

theorem witness_CommandsServedInOrder_answer :
    ((held sending 0x08 []).cmd.held = cmd 0x08 [] :: [] ∧ OwnRoom (held sending 0x08 []))
      ∧ 16 ≤ (held (ownLine 16 [] none) 0x08 []).line.own.length
      ∧ (∃ p others, (held (ownLine 0 [.noticeUnit, .commandUnit] none) 0x08 []).line.waiters = p :: others
          ∧ p ≠ .commandUnit)
      ∧ (Oldest (held (ownLine 16 [] none) 0x08 [1]) 0x08 (cmd 0x08 [1]) []
          ∧ paramsFit .readStatus (cmd 0x08 [1]) = false)
      ∧ (Oldest (held (frozen.setLine (ownLine 16 [] none).line) 0x31 []) 0x31 (cmd 0x31 []) []
          ∧ paramsFit .haltScan (cmd 0x31 []) = true ∧ refusedFrozen .haltScan = true
          ∧ (held (frozen.setLine (ownLine 16 [] none).line) 0x31 []).notice.frozen = true) :=
  ⟨⟨rfl, rfl, by decide⟩, by decide, ⟨_, _, rfl, by decide⟩, ⟨⟨rfl, rfl, rfl, rfl⟩, rfl⟩, ⟨rfl, rfl, rfl, rfl⟩, rfl, rfl, rfl⟩

/-- A refusal that finds no room waits, built as it stands; a producer that waits already goes first. -/
theorem test_refusal_waits :
    (after .haltScan (held (frozen.setLine (ownLine 16 [.noticeUnit] none).line) 0x31 [])).cmd.executing
        = some (.replyWaiting (ownFrame 0x31 [255, 7, 0x31, 5]))
      ∧ (after .haltScan (held (frozen.setLine (ownLine 16 [.noticeUnit] none).line) 0x31 [])).line.waiters
        = [.noticeUnit, .commandUnit] := by decide +kernel

/-! ## The commands of the line, the parameters, the notices and the faults -/

theorem witness_SetAddressSetsAddress :
    (Begins (serving State.reset 0x01 [0, 3]) 0x01 (cmd 0x01 [0, 3]) [] ∧ (cmd 0x01 [0, 3]).byte 0 = 0)
      ∧ (Begins (serving State.reset 0x01 [1, 3]) 0x01 (cmd 0x01 [1, 3]) [] ∧ (cmd 0x01 [1, 3]).byte 0 = 1
          ∧ (cmd 0x01 [1, 3]).byte 1 ≤ 3)
      ∧ (Begins (serving State.reset 0x01 [1, 4]) 0x01 (cmd 0x01 [1, 4]) [] ∧ 3 < (cmd 0x01 [1, 4]).byte 1)
      ∧ (Begins (serving State.reset 0x01 [2, 0]) 0x01 (cmd 0x01 [2, 0]) [] ∧ 1 < (cmd 0x01 [2, 0]).byte 0) :=
  ⟨⟨serving_begins _ _ _ _ rfl rfl rfl rfl, rfl⟩, ⟨serving_begins _ _ _ _ rfl rfl rfl rfl, rfl, by decide⟩,
    ⟨serving_begins _ _ _ _ rfl rfl rfl rfl, by decide⟩, serving_begins _ _ _ _ rfl rfl rfl rfl, by decide⟩

theorem test_set_address_sends_its_reply :
    (after .setAddress (serving sending 0x01 [1, 3])).line.address = 3
      ∧ (after .setAddress (serving sending 0x01 [1, 3])).line.own = [ownFrame 0x31 [3, 7, 1, 0]] := by decide +kernel

theorem witness_ReadsThatMayClear :
    Begins (serving State.reset 0x02 [0]) 0x02 (cmd 0x02 [0]) [] ∧ Begins (serving State.reset 0x33 [1]) 0x33 (cmd 0x33 [1]) []
      ∧ Begins (serving State.reset 0x38 [255]) 0x38 (cmd 0x38 [255]) []
      ∧ (cmd 0x02 [0]).byte 0 = 0 ∧ (cmd 0x33 [1]).byte 0 ≠ 0 ∧ (cmd 0x38 [255]).byte 0 ≠ 0 :=
  ⟨serving_begins _ _ _ _ rfl rfl rfl rfl, serving_begins _ _ _ _ rfl rfl rfl rfl, serving_begins _ _ _ _ rfl rfl rfl rfl,
    rfl, by decide, by decide⟩

/-- A scan RUNNING whose cursor, line time and position of lane 191 are given; DMAX is 3, GRACE 32. -/
def waitsAt (cursor lineTime through : Nat) : State :=
  ((scan .running).setScan { (scan .running).scan with cursor := some cursor }).setTracker
    { (scan .running).tracker with
      lanes := [(191, { lane .admitted with record := { (lane .admitted).record with completeThrough := some through } })]
      lineTime := some lineTime }

/-- LINE below cursor + DMAX; LANES up to the deadline, with the lane that lacks; else NONE. -/
theorem test_wait_reasons :
    [waitsAt 390 392 392, waitsAt 390 393 392, waitsAt 390 424 392, waitsAt 390 425 392, waitsAt 390 393 393,
        ticking .running].map waitReason
      = [(1, none), (2, some 191), (2, some 191), (0, none), (0, none), (0, none)] := by decide +kernel

theorem witness_ReadsThatMayClear_reason :
    ((waitsAt 390 392 392).scan.cursor = some 390 ∧ (waitsAt 390 392 392).scan.state = .running
        ∧ (waitsAt 390 392 392).scan.tick = none ∧ (waitsAt 390 392 392).tracker.lineTime = some 392)
      ∧ ((waitsAt 390 424 392).tracker.lanes.filter fun e => e.2.record.state == .admitted && 0 < e.2.record.weightInUse
          && !e.2.record.completeThrough.any fun x => 390 + 3 ≤ x) = (waitsAt 390 424 392).tracker.lanes
      ∧ 424 < 390 + 3 + 32
      ∧ ((waitsAt 390 393 393).tracker.lanes.filter fun e => e.2.record.state == .admitted && 0 < e.2.record.weightInUse
          && !e.2.record.completeThrough.any fun x => 390 + 3 ≤ x) = []
      ∧ (ticking .running).scan.tick.isSome = true := by decide +kernel

theorem test_read_port_counters_clears :
    (after .readPortCounters (serving (upward 16 |> after (.downstreamFrameReceived (rollcall 9))) 0x02 [1])).line.dnPort
      = PortCounters.zero
      ∧ (after (.downstreamFrameReceived (rollcall 9)) (upward 16)).line.dnPort.drops = 1 := by decide +kernel

theorem witness_ReadsThatChangeNothing :
    (Begins (serving State.reset 0x08 []) 0x08 (cmd 0x08 []) [])
      ∧ (Begins (serving State.reset 0x0A [5]) 0x0A (cmd 0x0A [5]) [] ∧ (cmd 0x0A [5]).byte 0 ≤ 5)
      ∧ Begins (serving State.reset 0x48 []) 0x48 (cmd 0x48 []) [] ∧ Begins (serving State.reset 0x50 []) 0x50 (cmd 0x50 []) [] :=
  ⟨serving_begins _ _ _ _ rfl rfl rfl rfl, ⟨serving_begins _ _ _ _ rfl rfl rfl rfl, by decide⟩,
    serving_begins _ _ _ _ rfl rfl rfl rfl, serving_begins _ _ _ _ rfl rfl rfl rfl⟩

/-- A field of a fault place that has no value is sent with its presence byte 0 and every bit set. -/
theorem test_fault_places :
    encPlace none = [0, 255, 0, 255, 255, 0, 255, 0, 255, 0, 255, 255, 255, 255, 255, 255, 0, 255, 0, 255,
        0, 255, 255, 255, 255, 255, 255, 0, 255, 255]
      ∧ encPlace (some (.store 513)) = [0, 255, 0, 255, 255, 0, 255, 0, 255, 0, 255, 255, 255, 255, 255, 255, 1, 1, 0, 255,
        0, 255, 255, 255, 255, 255, 255, 1, 2, 1] := by decide +kernel

theorem test_read_parameters_of_the_scan_group :
    (after .readParameters (serving sending 0x0A [2])).line.own = [ownFrame 0x31 [255, 7, 0x0A, 0, 2, 0, 32, 2, 0, 0, 8]] := by
  decide +kernel

/-- A SET PARAMETERS of the SCAN group: GRACE 256, LAG_ALLOWANCE 63, MIN_WEIGHT 0. -/
def outOfRange : Bytes := [2, 1, 0, 0, 63, 0, 0]

/-- A SET PARAMETERS of the LANE group: the cold defaults, with a rate and a tick. -/
def laneGroup (rate tick : Nat) : Bytes :=
  0 :: (encFields (groupWidths 0) ([rate, tick] ++ (Params.cold.values 0).drop 2))

theorem witness_SetParametersStores :
    (Begins (serving State.reset 0x09 outOfRange) 0x09 (cmd 0x09 outOfRange) []
        ∧ setParametersFits (cmd 0x09 outOfRange) = true)
      ∧ (Begins (serving (scan .running) 0x09 (laneGroup 500 8)) 0x09 (cmd 0x09 (laneGroup 500 8)) []
        ∧ setParametersFits (cmd 0x09 (laneGroup 500 8)) = true
        ∧ (Params.cold.store 0 (carriedValues (cmd 0x09 (laneGroup 500 8)))).lane.tickLen ≠ 4
        ∧ (serving (scan .running) 0x09 (laneGroup 500 8)).scan.state = .running) :=
  ⟨⟨serving_begins _ _ _ _ rfl rfl rfl rfl, by decide⟩, serving_begins _ _ _ _ rfl rfl rfl rfl, by decide +kernel,
    by decide +kernel, rfl⟩

theorem test_set_parameters_clamps :
    (after .setParameters (serving sending 0x09 outOfRange)).params.scan
        = { grace := 255, lagAllowance := 64, minWeight := 1 }
      ∧ (after .setParameters (serving sending 0x09 outOfRange)).line.own
        = [ownFrame 0x31 [255, 7, 9, 1, 2, 0, 255, 0, 64, 0, 1]] := by decide +kernel

theorem witness_RateOrTickChanges :
    Begins (serving (mapped (lane .admitted)) 0x09 (laneGroup 250 8)) 0x09 (cmd 0x09 (laneGroup 250 8)) []
      ∧ setParametersFits (cmd 0x09 (laneGroup 250 8)) = true
      ∧ (serving (mapped (lane .admitted)) 0x09 (laneGroup 250 8)).scan.state = .idle
      ∧ ((mapped (lane .admitted)).tracker.lanes = [(191, lane .admitted)] ∧ (lane .admitted).record.state = .admitted)
      ∧ (Params.cold.store 0 (carriedValues (cmd 0x09 (laneGroup 250 8)))).lane.sampleRate ≠ 500 :=
  ⟨serving_begins _ _ _ _ rfl rfl rfl rfl, by decide +kernel, rfl, ⟨rfl, rfl⟩, by decide +kernel⟩

theorem test_tick_change_returns_lanes_to_absent :
    ((laneOf (after .setParameters (serving (mapped (lane .admitted)) 0x09 (laneGroup 500 8))) 191).map
        fun l => l.record.state) = some .absent
      ∧ (after .setParameters (serving (mapped (lane .admitted)) 0x09 (laneGroup 500 8))).tracker.lineTime = none := by
  decide +kernel

theorem witness_ValuesBroughtWithinRange : ParamsInRange Params.cold := by constructor <;> decide

/-- 375 lies midway between two rates, 3 between two tick lengths: the lower is taken. -/
theorem test_nearest_value_lower_of_two :
    (clampRate 375, clampRate 376, clampRate 751, clampTickLen 3, clampTickLen 7, clampTickLen 0) = (250, 500, 1000, 2, 8, 1) := by
  decide

theorem witness_NoticeFlagsKept :
    Begins (serving State.reset 0x49 [0xFF, 0xFF]) 0x49 (cmd 0x49 [0xFF, 0xFF]) []
      ∧ Begins (serving State.reset 0x4A [0xFF, 0xFF]) 0x4A (cmd 0x4A [0xFF, 0xFF]) []
      ∧ (cmd 0x4A [0xFF, 0xFF]).params.length = 2 :=
  ⟨serving_begins _ _ _ _ rfl rfl rfl rfl, serving_begins _ _ _ _ rfl rfl rfl rfl, rfl⟩

theorem test_clear_notices_cancels_the_notice :
    (after .clearNotices (serving (noticeDue 0 []) 0x49 [0, 0x80])).notice.due = false
      ∧ (after .clearNotices (serving (noticeDue 0 []) 0x49 [0, 0x7F])).notice.due = true := by decide +kernel

theorem test_mask_turned_on_makes_a_notice_due :
    (after .setNoticeMask (serving (State.reset.setNotice { NoticeUnit.started 0 with flags := 0x100 }) 0x4A [0xFF, 0])).notice
      = { NoticeUnit.started 0x100 with flags := 0x100, due := true } := by decide +kernel

/-- A fault held: a table fault of the scan. -/
def faultHeld : State := takeFault .scan (.table .a 0 .flag) State.reset

theorem witness_ClearFaultClears :
    (Begins (serving State.reset 0x51 []) 0x51 (cmd 0x51 []) [] ∧ State.reset.notice.faultRecord = none)
      ∧ (Begins (serving faultHeld 0x51 []) 0x51 (cmd 0x51 []) [] ∧ (serving faultHeld 0x51 []).notice.frozen = false
          ∧ (serving faultHeld 0x51 []).notice.faultRecord =
            some { activity := .scan, place := .table .a 0 .flag, cursor := none, detector := .quiet, outcome := .continued }) :=
  ⟨⟨serving_begins _ _ _ _ rfl rfl rfl rfl, rfl⟩, serving_begins _ _ _ _ rfl rfl rfl rfl, rfl, rfl⟩

theorem test_clear_fault_empties_the_record :
    (after .clearFault (serving faultHeld 0x51 [])).notice.faultRecord = none
      ∧ (after .clearFault (serving faultHeld 0x51 [])).notice.isSet .fault = true := by decide +kernel

theorem witness_FaultsTaken :
    frozen.notice.frozen = true ∧ (State.reset.notice.frozen = false ∧ State.reset.notice.faultRecord = none
        ∧ State.reset.params.faultCapture = true)
      ∧ (State.reset.setParams { Params.cold with faultCapture := false }).params.faultCapture = false
      ∧ faultHeld.notice.faultRecord.isSome = true := by decide

/-- FAULT_CAPTURE off, a record in capture, and a CLEAR SCAN that waits. -/
def freezes (x : Executing) : State :=
  (((State.reset.setParams { Params.cold with faultCapture := false }).setQueue [event .capturing]).setStore
      { writePos := 80, freeWords := 65456, words := [] }).setCmd { held := [cmd 0x32 []], executing := some x }

theorem witness_FaultsTaken_commands :
    ((freezes .clearScan).notice.frozen = false ∧ (freezes .clearScan).params.faultCapture = false
        ∧ (freezes .clearScan).cmd.held = cmd 0x32 [] :: [] ∧ OwnRoom (freezes .clearScan))
      ∧ (freezes (.validating .b)).cmd.executing = some (.validating .b)
      ∧ (freezes .clearScan).cmd.executing = some .clearScan
      ∧ (freezes (.laneChange ⟨191, 1, 0, false, false⟩)).cmd.executing = some (.laneChange ⟨191, 1, 0, false, false⟩)
      ∧ (∃ r ∈ (freezes .clearScan).queue, r.status = .waiting ∨ r.status = .capturing) :=
  ⟨⟨rfl, rfl, rfl, rfl, by decide⟩, rfl, rfl, rfl, event .capturing, List.mem_singleton.mpr rfl, Or.inr rfl⟩

/-- The freeze frees the extent in capture, moves the write position back, and answers the waiting CLEAR SCAN. -/
theorem test_freeze_ends_capture_and_command :
    let t := takeFault .scan (.table .a 0 .flag) (freezes .clearScan)
    (t.store.writePos, t.store.freeWords, t.cmd.held) = (0, 65536, []) ∧ t.line.own = [ownFrame 0x31 [255, 7, 0x32, 5]] := by
  decide +kernel

/-- The engine about to be frozen by a fault, with a close in progress that a CLEAR SCAN waits for. -/
def freezesClosing (reason : CloseReason) : State :=
  closingFor (close reason (reason == .quietRun) false) (freezes .clearScan)

theorem witness_FaultsTaken_close :
    ((freezesClosing .silence).notice.frozen = false ∧ (freezesClosing .silence).params.faultCapture = false
        ∧ (freezesClosing .silence).det.closing = some (close .silence false false)
        ∧ (freezesClosing .silence).det.running = some run ∧ Activity.capture ≠ .planning)
      ∧ ((freezesClosing .quietRun).cmd.executing = some .clearScan ∧ (freezesClosing .quietRun).det.closing.isSome = true) := by
  decide

/-- Another block's fault completes the close ABORTED in its own step, and the CLEAR SCAN that waited for it is answered FROZEN
after that; a fault of the planning leaves both to the close. -/
theorem test_freeze_completes_a_close :
    let t := takeFault .capture (.ring 191 5) (freezesClosing .silence)
    let u := takeFault .planning (.table .a 0 (.delay 191)) (freezesClosing .quietRun)
    (t.queue.map fun r => (r.serial, r.status, r.closeReason)) = [(5, .aborted, .quietRun), (65535, .aborted, .silence)]
      ∧ (t.det.state, t.det.closing, t.det.serial, t.det.eventsClosed) = (.holdoff, none, 0, 1)
      ∧ (t.cmd.held, t.line.own) = ([], [ownFrame 0x31 [255, 7, 0x32, 5]])
      ∧ (u.queue.length, u.det.closing.isSome, u.cmd.executing) = (1, true, some .clearScan) := by decide +kernel

theorem test_second_fault_freezes :
    (takeFault .capture (.ring 191 5) (faultHeld.setQueue [event .waiting, event .capturing, event .complete])).notice.frozen
        = true
      ∧ (takeFault .capture (.ring 191 5) (faultHeld.setQueue [event .waiting, event .capturing, event .complete])).queue.map
          EventRecord.status = [.aborted, .aborted, .complete] := by decide

/-! ## The Lane Map and the lanes -/

/-- LOAD LANE MAP with two entries: lanes 191 and 0, station 1, channels 1 and 2. -/
def twoLanes : Bytes := [2, 191, 1, 0xA1, 0x21, 0, 1, 0xF2, 0x81]

theorem witness_LoadLaneMapReplaces :
    (Begins (serving State.reset 0x10 twoLanes) 0x10 (cmd 0x10 twoLanes) [] ∧ loadLaneMapFits (cmd 0x10 twoLanes) = true
        ∧ (mapEntries (cmd 0x10 twoLanes)).all mapEntryFits = true ∧ mapDistinct (mapEntries (cmd 0x10 twoLanes)) = true
        ∧ (serving State.reset 0x10 twoLanes).scan.state = .idle)
      ∧ (loadLaneMapFits (cmd 0x10 [0]) = true ∧ mapEntries (cmd 0x10 [0]) = [])
      ∧ (loadLaneMapFits (cmd 0x10 [1, 192, 1, 0xA1, 0x21]) = true
          ∧ (mapEntries (cmd 0x10 [1, 192, 1, 0xA1, 0x21])).all mapEntryFits = false)
      ∧ (Begins (serving (scan .halting) 0x10 [0]) 0x10 (cmd 0x10 [0]) []
          ∧ (serving (scan .halting) 0x10 [0]).scan.state ≠ .idle) :=
  ⟨⟨serving_begins _ _ _ _ rfl rfl rfl rfl, by decide⟩, by decide, by decide, serving_begins _ _ _ _ rfl rfl rfl rfl, by decide⟩

theorem test_load_lane_map :
    (after .loadLaneMap (serving State.reset 0x10 twoLanes)).tracker.lanes.map
        (fun e => (e.1, e.2.entry.channel, e.2.entry.weight, e.2.record.state)) = [(0, 2, 15, .absent), (191, 1, 10, .absent)] := by
  decide +kernel

theorem witness_SetLaneForms :
    (Begins (serving (mapped (lane .admitted)) 0x11 [192, 16, 9, 1]) 0x11 (cmd 0x11 [192, 16, 9, 1]) []
        ∧ 192 ≤ (cmd 0x11 [192, 16, 9, 1]).byte 0)
      ∧ ((cmd 0x11 [0, 15, 8, 1]).byte 0 < 192 ∧ laneOf (mapped (lane .admitted)) 0 = none)
      ∧ (laneOf (mapped (lane .admitted)) 191 = some (lane .admitted) ∧ (lane .admitted).entry.included = true)
      ∧ (Begins (serving (ticking .running) 0x11 [191, 15, 8, 0]) 0x11 (cmd 0x11 [191, 15, 8, 0]) []
          ∧ laneOf (serving (ticking .running) 0x11 [191, 15, 8, 0]) 191 = some (lane .admitted)
          ∧ (serving (ticking .running) 0x11 [191, 15, 8, 0]).scan.tick.isSome = true) :=
  ⟨⟨serving_begins _ _ _ _ rfl rfl rfl rfl, by decide⟩, by decide, by decide, serving_begins _ _ _ _ rfl rfl rfl rfl,
    by decide, by decide⟩

theorem test_set_lane_clamps_at_once :
    ((laneOf (after .setLane (serving (mapped (lane .admitted)) 0x11 [191, 16, 9, 1])) 191).map
        fun l => (l.entry.weight, l.entry.gainShift, l.record.weightInUse)) = some (15, 8, 10) := by decide +kernel

theorem witness_InclusionChanges :
    Begins (serving (mapped (lane .admitted)) 0x11 [191, 15, 8, 0]) 0x11 (cmd 0x11 [191, 15, 8, 0]) []
      ∧ Begins (serving (mapped (lane .excluded)) 0x11 [191, 15, 8, 1]) 0x11 (cmd 0x11 [191, 15, 8, 1]) []
      ∧ laneOf (serving (mapped (lane .admitted)) 0x11 [191, 15, 8, 0]) 191 = some (lane .admitted)
      ∧ laneOf (serving (mapped (lane .excluded)) 0x11 [191, 15, 8, 1]) 191 = some (lane .excluded)
      ∧ (lane .admitted).entry.included = true ∧ (lane .excluded).entry.included = false
      ∧ (serving (mapped (lane .admitted)) 0x11 [191, 15, 8, 0]).scan.tick = none :=
  ⟨serving_begins _ _ _ _ rfl rfl rfl rfl, serving_begins _ _ _ _ rfl rfl rfl rfl, by decide, by decide, rfl, rfl, rfl⟩

theorem test_exclusion_waits_for_the_boundary :
    (after .setLane (serving (ticking .running) 0x11 [191, 15, 8, 0])).cmd.executing
        = some (.laneChange { lane := 191, weight := 15, gainShift := 8, included := false, clamped := false })
      ∧ ((laneOf (after .tickResultDelivery (after .voxelEvaluation
          (after .setLane (serving (ticking .running) 0x11 [191, 15, 8, 0])))) 191).map
            fun l => (l.record.state, l.entry.included)) = some (.excluded, false) := by decide +kernel

theorem witness_LaneReads :
    (Begins (serving (mapped (lane .admitted)) 0x12 [192, 0]) 0x12 (cmd 0x12 [192, 0]) [] ∧ 192 ≤ (cmd 0x12 [192, 0]).byte 0)
      ∧ (laneOf (mapped (lane .admitted)) 0 = none ∧ (cmd 0x12 [0, 0]).byte 0 = 0)
      ∧ (laneOf (mapped (lane .admitted)) 191 = some (lane .admitted) ∧ (cmd 0x12 [191, 255]).byte 1 ≠ 0)
      ∧ (Begins (serving (mapped (lane .admitted)) 0x13 []) 0x13 (cmd 0x13 []) []
          ∧ Memory.rising (serving (mapped (lane .admitted)) 0x13 []).tracker.lanes = true) :=
  ⟨⟨serving_begins _ _ _ _ rfl rfl rfl rfl, by decide⟩, by decide, by decide, serving_begins _ _ _ _ rfl rfl rfl rfl,
    by decide⟩

/-- Thirty-three lanes, every mark set: the first 32 are returned, and there is more. -/
theorem test_lane_changes_come_in_runs_of_32 :
    let s := State.reset.setTracker { Tracker.cold with
      lanes := (List.range 33).map fun i => (i, { lane .absent with record := { (lane .absent).record with changed := true } }) }
    (returnedLanes s).length = 32 ∧ (markedLanes (after .readLaneChanges (serving s 0x13 []))).map Prod.fst = [32] := by
  decide +kernel

theorem test_read_lane_clears_its_counters :
    let s := mapped { lane .admitted with record := { (lane .admitted).record with
      counters := { LaneCounters.zero with gaps := 3 } } }
    ((laneOf (after .readLane (serving s 0x12 [191, 1])) 191).map fun l => l.record.counters) = some LaneCounters.zero := by
  decide +kernel

/-- A frame of station 1 waits for the Lane Tracker. -/
def inbox (s : State) (f : Bytes) : State := s.setTracker { s.tracker with inbox := [f] }

theorem witness_FramesServeLanes :
    State.reset.tracker.inbox = [] ∧ frozen.notice.frozen = true ∧ hotStarted.cmd.executing = some .hotStart
      ∧ ((inbox (mapped (lane .admitted)) (sampleFrame 1600)).tracker.inbox = sampleFrame 1600 :: []
          ∧ frameRate (sampleFrame 1600) = some Params.cold.lane.sampleRate ∧ frameTag (sampleFrame 1600) % 16 = 0
          ∧ frameChannels (sampleFrame 1600) = 1 ∧ (sampleFrame 1600).length = 20 + 48 * frameChannels (sampleFrame 1600))
      ∧ (byteAt (sampleFrame 1584) 4 = (lane .admitted).entry.station ∧ frameTag (sampleFrame 1584) < 1600)
      ∧ frameTag (sampleFrame 1601) % 16 ≠ 0 := by decide +kernel

/-- A block of lane 191. -/
def block (tag : Nat) : Block :=
  { lane := 191, station := 1, channel := 1, tag := tag, quality := 0, holdoverAge := 0, clips := 0
    samples := List.replicate 16 100 }

/-- A state with one block selected. -/
def selectedBlock (l : Lane) (tag : Nat) : State :=
  (mapped l).setTracker { (mapped l).tracker with blocks := [block tag] }

theorem witness_FramesServeLanes_blocks :
    takeFirst (fun x => x.lane == 191) State.reset.tracker.blocks = none
      ∧ takeFirst (fun x => x.lane == 191) (selectedBlock (lane .admitted) 1600).tracker.blocks = some (block 1600, [])
      ∧ laneOf (State.reset.setTracker { Tracker.cold with blocks := [block 0] }) 191 = none
      ∧ (lane .excluded).record.state = .excluded
      ∧ ((lane .admitted).record.expectedTag = some 1600 ∧ (block 1584).tag < 1600) := by decide

/-- A sample frame through both steps: the lane's block is accepted. -/
theorem test_frame_to_accepted_block :
    ((laneOf (after (.acceptedBlock 191) (after .sampleFrameProcessing
        (inbox (mapped (lane .admitted)) (sampleFrame 1600)))) 191).map
          fun l => (l.record.expectedTag, l.record.counters.blocksAccepted)) = some (some 1616, 1) := by decide +kernel

theorem witness_AcceptedBlockHandled :
    takeFirst (fun x => x.lane == 191) (selectedBlock (lane .admitted) 1600).tracker.blocks = some (block 1600, [])
      ∧ laneOf (selectedBlock (lane .admitted) 1600) 191 = some (lane .admitted)
      ∧ (lane .admitted).entry.station = (block 1600).station ∧ (lane .admitted).record.state ≠ .excluded
      ∧ (∀ e, (lane .admitted).record.expectedTag = some e → e ≤ (block 1600).tag)
      ∧ (block 1600).samples.length = 16 ∧ (block 1600).tag + 16 < 2 ^ 48
      ∧ laneOf (selectedBlock freshLane 0) 191 = some freshLane ∧ freshLane.record.expectedTag = none := by
  refine ⟨by decide, by decide, rfl, by decide, ?_, rfl, by decide, by decide, rfl⟩
  intro e h
  injection h with h
  exact h ▸ le_rfl

/-- The scan RUNNING with a block of lane 191 selected. -/
def scanBlock (tag : Nat) : State :=
  (scan .running).setTracker { (scan .running).tracker with blocks := [block tag] }

/-- The line time 943 passes the margin of cursor 390, that is 390 + 3 + 32 + 512; 403 does not. -/
theorem witness_AcceptedBlockHandled_behind :
    ((scanBlock 3760).scan.state = .running ∧ (scanBlock 3760).scan.tick = none ∧ (scanBlock 3760).det.closing = none
        ∧ (scanBlock 3760).scan.cursor = some 390 ∧ activeDmax (scanBlock 3760) = 3)
      ∧ (390 + 3 + 32 + 512 < (3760 + 15) / 4 ∧ (1600 + 15) / 4 ≤ 390 + 3 + 32 + 512)
      ∧ (selectedBlock (lane .admitted) 1600).scan.cursor = none := by decide

theorem witness_AcceptedBlockHandled_close :
    (∀ c, (closingFor (close .silence false false) (scanBlock 3760)).det.closing = some c → c.boundary = false)
      ∧ (closing (scanBlock 3760)).det.closing = some (close .quietRun true false) :=
  ⟨fun _ h => by injection h with h; rw [← h]; rfl, rfl⟩

/-- A close for SILENCE holds no test back, and keeps the OVERRUN; one for QUIET_RUN holds the test back. -/
theorem test_block_during_a_close :
    let t := after (.acceptedBlock 191) (closingFor (close .silence false false) (scanBlock 3760))
    (t.scan.cursor, t.det.closing) = (some (943 - 3 - 32), some (close .silence false true))
      ∧ (after (.acceptedBlock 191) (closing (scanBlock 3760))).scan.cursor = some 390 := by decide +kernel

theorem test_block_makes_the_cursor_jump :
    (after (.acceptedBlock 191) (scanBlock 3760)).scan.cursor = some (943 - 3 - 32)
      ∧ (after (.acceptedBlock 191) (scanBlock 3760)).scan.skippedTicks = 943 - 3 - 32 - 390
      ∧ (after (.acceptedBlock 191) (scanBlock 1600)).scan.cursor = some 390 := by decide +kernel

/-- The lane's own record, with its run counts. -/
def runCounts (state : LaneState) (good bad : Nat) : LaneRecord :=
  { (lane state).record with goodRun := good, badRun := bad }

theorem witness_BlocksMoveLanes :
    ((runCounts .acquiring 15 0).state ≠ .excluded ∧ (runCounts .acquiring 15 0).state ≠ .absent)
      ∧ (freshLane.record.state = .absent ∧ freshLane.record.expectedTag = none) := by decide

/-- Admission at the sixteenth good block, muting at the fourth bad one, and a restart after a long gap. -/
theorem test_blocks_move_lanes :
    let h := fun r b => handleBlock Params.cold.lane 0 none (lane .admitted).entry r .cleared .cleared b
    ((h (runCounts .acquiring 15 0) (block 1600)).record.state, (h (runCounts .acquiring 14 0) (block 1600)).record.state,
      (h (runCounts .admitted 20 3) (block 1616)).record.state, (h (runCounts .admitted 20 2) (block 1616)).record.state,
      (h (runCounts .admitted 20 0) (block 1680)).record.state, (h freshLane.record (block 0)).record.state)
      = (.admitted, .acquiring, .muted, .admitted, .acquiring, .acquiring) := by decide +kernel

/-- A ring and a track with their newest index and tick. -/
def ringAt (n : Nat) : Ring := { newest := some n, words := [(n, { sample := 5, present := true, eccOk := true })] }
def trackAt (n : Nat) : Track := { newest := some n, cells := [(n, { value := 6, present := true, parityOk := true })] }

/-- A gap of one block, whose indices are missing; the first block of a lane after and within its ring's history; a cell that is late,
and a first block that is not above the track's newest tick. -/
theorem witness_BlocksMoveLanes_memories :
    ((block 1616).samples.length = 16 ∧ (lane .admitted).record.expectedTag = some 1600 ∧ 1600 ≤ (block 1616).tag
        ∧ 1616 + 15 < 1600 + 8192 ∧ (ringAt 1599).newest = some 1599)
      ∧ (freshLane.record.expectedTag = none ∧ (ringAt 15).newest = some 15 ∧ 15 < (block 32).tag ∧ (block 0).tag ≤ 15)
      ∧ (Params.cold.lane.tickLen = 4 ∧ (trackAt 399).newest = some 399 ∧ 399 < 1616 / 4 ∧ 1600 / 4 ≤ 404)
      ∧ ((trackAt 4).newest = some 4 ∧ 16 / 4 ≤ 4) := by decide

/-- Samples of the gap are missing and the history stays; late ticks and ticks of the gap are absent, and the late ones are counted. -/
theorem test_block_writes_ring_and_track :
    let o := handleBlock Params.cold.lane 0 (some 404) (lane .admitted).entry (lane .admitted).record (ringAt 1599) (trackAt 399)
      (block 1616)
    [1599, 1600, 1615, 1616, 1631, 1632].map o.ring.readSample
        = [.sample 5, .missing, .missing, .sample 100, .sample 100, .notReceived]
      ∧ [399, 400, 403, 404, 405, 407, 408].map o.track.readCell
        = [.value 6, .absent, .absent, .absent, .value 0, .value 0, .absent]
      ∧ o.record.counters.lateCells = 1 := by decide +kernel

/-- A lane that starts again behind its own history: the ring keeps nothing it held, and the track is cleared. -/
theorem test_first_block_prepares_ring_and_track :
    let o := handleBlock Params.cold.lane 0 none freshLane.entry freshLane.record (ringAt 5) (trackAt 4) (block 0)
    let p := handleBlock Params.cold.lane 0 none freshLane.entry freshLane.record (ringAt 15) (trackAt 3) (block 32)
    (o.ring.readSample 5, o.ring.newest, o.track.readCell 4, o.track.newest) = (.sample 100, some 15, .absent, some 3)
      ∧ [15, 16, 31, 32].map p.ring.readSample = [.sample 5, .missing, .missing, .sample 100]
      ∧ [3, 4, 7, 8].map p.track.readCell = [.value 6, .absent, .absent, .value 0] := by decide +kernel

/-- A filter that has followed a constant 100. -/
def flat : Machine.Filter := { m := 100, s := 0, l := 0 }

theorem witness_CharacteristicFunction :
    1 ≤ (takenValues Params.cold.lane).ltaFloor ∧ 0 ≤ flat.s ∧ 0 ≤ flat.l := by
  decide

theorem witness_CharacteristicFunction_cells :
    (1 ∈ [1, 2, 4, 8, 16] ∧ 16 ∈ [1, 2, 4, 8, 16]) ∧ (List.range 16).length = 16
      ∧ blockCells 16 (List.range 16) = [15] ∧ blockCells 1 (List.range 16) = List.range 16 := by decide

theorem witness_TimersExpire :
    (laneOf State.reset 191 = none ∧ State.reset.tracker.silenceTimer = none ∧ freshLane.record.timer = none)
      ∧ (laneOf (mapped (lane .admitted)) 191 = some (lane .admitted) ∧ (lane .admitted).record.timer = some 500)
      ∧ (mapped (lane .admitted)).tracker.silenceTimer = some 2000
      ∧ ((det .quiet).state = .quiet ∧ (det .holdoff).state = .holdoff ∧ (closing State.reset).det.closing.isSome = true)
      ∧ ((det .onset).state = .onset ∧ (det .onset).closing = none)
      ∧ ((det .declared).running = some run ∧ (det .declared).closing = none ∧ State.reset.queue.length < 32) := by decide

theorem test_timers_expire :
    ((laneOf (after (.laneTimerExpiry 191) (mapped (lane .admitted))) 191).map
        fun l => (l.record.state, l.record.expectedTag)) = some (.absent, none)
      ∧ (after .lineSilenceExpiry ((mapped (lane .admitted)).setDet (det .declared))).det.closing
        = some { close .silence false false with closeTick := 389 } := by
  decide +kernel

/-- The Event Queue with 31 records before its tail, an event DECLARED and the line-silence timer running. -/
def fullAndSilent : State :=
  ((mapped (lane .admitted)).setDet (det .declared)).setQueue (List.replicate 31 (event .complete) ++ [event .complete])

/-- Lane 191 about to be lost, the line time above the margin of cursor 390 or at it. -/
def losing (lineTime : Nat) : State :=
  (scan .running).setTracker { (scan .running).tracker with lineTime := some lineTime }

theorem witness_TimersExpire_scan :
    ((losing 938).scan.state = .running ∧ (losing 938).scan.tick = none ∧ (losing 938).det.closing = none
        ∧ (losing 938).scan.cursor = some 390 ∧ (losing 938).tracker.lineTime = some 938
        ∧ 390 + activeDmax (losing 938) + 32 + 512 < 938 ∧ 937 ≤ 390 + activeDmax (losing 937) + 32 + 512)
      ∧ (State.reset.scan.cursor = none ∧ State.reset.tracker.lineTime = none)
      ∧ (∀ e ∈ (losing 937).tracker.lanes, e.1 = 191)
      ∧ (fullAndSilent.queue = List.replicate 31 (event .complete) ++ [event .complete]
          ∧ (List.replicate 31 (event .complete)).length = 31 ∧ fullAndSilent.det.running = some run
          ∧ fullAndSilent.tracker.silenceTimer = some 2000) := by decide +kernel

/-- A lane's expiry is followed by the scan's tests; SILENCE with 32 records held discards the record. -/
theorem test_expiries_meet_the_scan_and_a_full_queue :
    (after (.laneTimerExpiry 191) (losing 938)).scan.cursor = some (938 - 3 - 32)
      ∧ ((after (.laneTimerExpiry 191) (losing 937)).scan.cursor, complete (losing 937) 397,
          complete (after (.laneTimerExpiry 191) (losing 937)) 397) = (some 390, false, true)
      ∧ (after .lineSilenceExpiry fullAndSilent).queue.map EventRecord.overflowFollows = List.replicate 31 false ++ [true]
      ∧ (after .lineSilenceExpiry fullAndSilent).det.queueDiscards = 1 := by decide +kernel

/-! ## Worked cases of the spec -/

/-- The LANE values of worked case A (02). -/
def caseA : FilterValues := { dcShift := 10, staShift := 2, ltaShift := 6, ltaFloor := 16, freeze := 1024 }

theorem test_worked_case_A :
    cfBlock caseA .admitted 4 { m := 1000, s := 100, l := 400 } [1485, 1003, 210, 1169]
        = { filter := { m := 999, s := 619, l := 426 }, values := [192, 141, 507, 366], saturations := 0 }
      ∧ blockCells 4 [192, 141, 507, 366] = [507, 0, 0, 0] := by decide +kernel

theorem test_worked_case_A_saturated :
    cfSample caseA .admitted 4 { m := 999, s := 619, l := 426 } 600999
        = ({ m := 1584, s := 268419536, l := 426 }, 65535, true)
      ∧ (cfSample caseA .acquiring 4 { m := 999, s := 619, l := 426 } 600999).1.l = 16776611 := by decide +kernel

theorem test_worked_late_cells :
    let t := Track.writeBlock { newest := some 795, cells := [(795, { value := 7, present := true, parityOk := true })] }
      (some 801) 800 [311, 290, 2480, 2950]
    (t.newest, lateCount (some 801) 800 4) = (some 803, 2)
      ∧ [795, 796, 799, 800, 801, 802, 803, 804].map t.readCell
        = [.value 7, .absent, .absent, .absent, .absent, .value 2480, .value 2950, .absent] := by decide +kernel

/-- A row of worked case B (04): the delays of lanes 3, 8 and 14. -/
def rowB (nuisance : Bool) (d3 d8 d14 : Option Nat) : Row :=
  { flags := { enabled := true, nuisance := nuisance, parityOk := true }
    delays := (List.range 192).map fun l =>
      { delay := if l = 3 then d3 else if l = 8 then d8 else if l = 14 then d14 else none, parityOk := true } }

/-- A track of worked case B. -/
def trackB (cells : List (Nat × Nat)) : Track :=
  { newest := some 9020
    cells := cells.map fun p => (p.1 % 4096, { value := p.2, present := true, parityOk := true }) }

/-- The tick scan of worked case B at voxel 16, the voxels before it not ENABLED. -/
def caseB : State :=
  let s := State.reset.setBanks
    { a := { state := .active, voxelCount := 20, tag := 9, dmax := some 12, check := some 0
             rows := [(16, rowB false (some 4) (some 9) none), (17, rowB false (some 5) (some 9) (some 12)),
                      (18, rowB true (some 2) (some 3) (some 1)), (19, rowB false (some 7) none (some 12))] }
      b := Bank.cold, active := some .a, pendingSwitch := none }
  let s := s.setTracks
    [(3, trackB [(9002, 400), (9004, 600), (9005, 900), (9007, 880)]), (8, trackB [(9003, 700), (9009, 512)]),
     (14, trackB [(9001, 300)])]
  s.setScan
    { Scan.started with
      state := .running, cursor := some 9000, inUse := some { grace := 32, lagAllowance := 512, minWeight := 5 }
      tick := some { origin := 9000, contributing := [(3, 4), (8, 2), (14, 1)], bank := .a, bankTag := 9, dmax := 12, voxel := 16
                     count := 0, total := 0, peak := none, parityMet := [] } }

theorem test_worked_case_B :
    let t := after .voxelEvaluation (after .voxelEvaluation (after .voxelEvaluation (after .voxelEvaluation caseB)))
    t.scan.tick.map TickScan.result = some
        { origin := 9000, bank := .a, bankTag := 9, eligible := 3, peak := 771, peakVoxel := some 17, nuisance := false
          mean := 604, pairs := [(3, 3600), (8, 1024)] }
      ∧ (after .tickResultDelivery t).scan.cursor = some 9001
      ∧ ((after .tickResultDelivery t).scan.lastResult.map LastResult.listLength) = some 2 := by decide +kernel

/-- A tick of worked case C (05). -/
def tickC (origin peak voxel mean : Nat) (nuisance : Bool) : TickResult :=
  { origin := origin, bank := .a, bankTag := 1807, eligible := 9, peak := peak, peakVoxel := some voxel, nuisance := nuisance
    mean := mean, pairs := [] }

/-- The Detector of worked case C, QUIET with its values in use. -/
def caseC : State :=
  State.reset.setDet { Detector.started 118 with
    inUse := some { tOn := 768, tOff := 640, coherence := 40, kOn := 3, qOff := 2, maxDuration := 512, holdoff := 4
                    vetoLimit := 4 } }

/-- Ticks handed to the Detector in turn. -/
def ticksC (s : State) (rs : List TickResult) : State := rs.foldl (fun t r => takeTickResult r t) s

/-- The state after tick 1007 of worked case C. -/
def caseC1007 : State :=
  ticksC caseC [tickC 1000 700 88 240 false, tickC 1001 800 210 250 false, tickC 1002 900 212 260 false,
    tickC 1003 880 212 300 false, tickC 1004 950 212 330 false, tickC 1005 700 212 320 false, tickC 1006 660 211 200 false,
    tickC 1007 600 211 190 false]

theorem test_worked_case_C :
    (caseC1007.det.state, caseC1007.det.running.map fun r => (r.onsetTick, r.maximum.origin, r.maximum.peak, r.quietRun))
        = (.declared, some (1001, 1004, 950, 1)) := by decide +kernel

theorem test_worked_case_C_close :
    let t := after .closeCompletion (ticksC caseC1007 [tickC 1008 720 3901 210 true])
    t.queue.map (fun r => (r.serial, r.closeTick, r.duration, r.peakVoxel, r.mean, r.vetoCount))
        = [(118, 1008, 8, 212, 330, 1)]
      ∧ (t.det.serial, t.det.state, t.det.holdoff) = (119, .holdoff, 4)
      ∧ (ticksC t [tickC 1009 0 0 0 false, tickC 1010 0 0 0 false, tickC 1011 0 0 0 false, tickC 1012 0 0 0 false]).det.state
        = .quiet := by decide +kernel

theorem test_worked_plan_ranks :
    (rankPairs [(2, 9000), (5, 12000), (9, 9000), (11, 3300), (17, 15600), (40, 6000)]).map Prod.fst = [17, 5, 2, 9, 40, 11] := by
  decide

/-- The extent of record 118 (06) wraps past the end of the store. -/
theorem test_worked_extent_wraps :
    (placeEntries 63536 (List.replicate 4 { entry with count := 800 })).map PlanEntry.extentOffset
      = [some 63536, some 64336, some 65136, some 400] := by decide +kernel

/-! ## The travel-time banks -/

/-- Bank A LOADING, and B ACTIVE in an IDLE scan. -/
def loadingA (s : State) : State :=
  s.setBanks { a := bank .loading (row true false), b := bank .active (row true true), active := some .b
               pendingSwitch := none }

theorem witness_BankLoadsBeginAndEnd :
    (Begins (serving State.reset 0x20 [2, 0, 1, 0, 0]) 0x20 (cmd 0x20 [2, 0, 1, 0, 0]) [] ∧ 1 < (cmd 0x20 [2, 0, 1, 0, 0]).byte 0)
      ∧ ((cmd 0x20 [0, 0, 0, 0, 0]).field 1 2 = 0 ∧ 4096 < (cmd 0x20 [0, 0x10, 1, 0, 0]).field 1 2
          ∧ (cmd 0x20 [1, 0x10, 0, 0, 0]).field 1 2 = 4096 ∧ bankOfCode ((cmd 0x20 [1, 0x10, 0, 0, 0]).byte 0) = some .b)
      ∧ (((loadingA State.reset).banks.get .b).state = .active ∧ (State.reset.banks.get .b).state ≠ .active
          ∧ State.reset.banks.pendingSwitch ≠ some .b)
      ∧ (Begins (serving (loadingA State.reset) 0x22 [0]) 0x22 (cmd 0x22 [0]) []
          ∧ ((loadingA State.reset).banks.get .a).state = .loading ∧ ((loadingA State.reset).banks.get .b).state ≠ .loading)
      ∧ 1 < (cmd 0x22 [2]).byte 0 :=
  ⟨⟨serving_begins _ _ _ _ rfl rfl rfl rfl, by decide⟩, by decide, by decide,
    ⟨serving_begins _ _ _ _ rfl rfl rfl rfl, by decide⟩, by decide⟩

theorem test_bank_load_begins :
    ((after .beginBankLoad (serving State.reset 0x20 [1, 0x10, 0, 0, 9])).banks.b.state,
      (after .beginBankLoad (serving State.reset 0x20 [1, 0x10, 0, 0, 9])).banks.b.voxelCount) = (.loading, 4096) := by
  decide +kernel

/-- The parameters of a LOAD ROWS of one row: every delay NONE but lane 0's, `d0`. -/
def oneRow (bank first flags d0 : Nat) : Bytes :=
  encNat 1 bank ++ encNat 2 first ++ [1] ++ encNat 1 flags ++ encNat 2 d0 ++ (List.replicate 191 (encNat 2 1023)).flatten

theorem witness_LoadRowsForms :
    (Begins (serving (loadingA State.reset) 0x21 (oneRow 0 0 1 1024)) 0x21 (cmd 0x21 (oneRow 0 0 1 1024)) []
        ∧ loadRowsFits (cmd 0x21 (oneRow 0 0 1 1024)) = true)
      ∧ 1 < (cmd 0x21 (oneRow 2 0 1 0)).byte 0
      ∧ ((loadingA State.reset).banks.get .b).state ≠ .loading
      ∧ (loadingA State.reset).banks.a.voxelCount < (cmd 0x21 (oneRow 0 1 1 0)).field 1 2 + 1
      ∧ 3 < (cmd 0x21 (oneRow 0 0 4 0)).byte 4
      ∧ ((cmd 0x21 (oneRow 0 0 3 1022)).field 1 2 + 1 ≤ (loadingA State.reset).banks.a.voxelCount
          ∧ (cmd 0x21 (oneRow 0 0 3 1022)).byte 4 ≤ 3) :=
  ⟨⟨serving_begins _ _ _ _ rfl rfl rfl rfl, by decide +kernel⟩, by decide +kernel, by decide, by decide +kernel,
    by decide +kernel, by decide +kernel⟩

theorem test_rows_are_stored :
    ((Memory.find (after .loadRows (serving (loadingA State.reset) 0x21 (oneRow 0 0 3 1022))).banks.a.rows 0).map
        fun r => (r.flags.enabled, r.flags.nuisance, (r.delayEntry 0).delay, (r.delayEntry 1).delay))
      = some (true, true, some 1022, none) := by decide +kernel

/-- A bank of three voxels: written, written with a bad entry, not written. -/
def threeVoxels : Bank :=
  { bank .loading (row true false) with
    voxelCount := 3
    rows := [(0, row true false), (1, { row true false with delays := [{ delay := none, parityOk := false }] })] }

/-- What a finished walk says, less its register. -/
def finishedAs : Validation → Option (Bool × Nat)
  | .finished live dmax _ => some (live, dmax)
  | _ => none

theorem witness_ValidationWalk :
    threeVoxels.validate = .parity 1 (.delay 0)
      ∧ ({ threeVoxels with rows := [(0, row true false)] } : Bank).validate = .unwritten 1
      ∧ finishedAs (bank .loading (row true false)).validate = some (true, 3) := by decide +kernel

/-- END BANK LOAD with its validation in progress. -/
def validating (k : Bank) : State :=
  (State.reset.setBanks { Banks.cold with a := k }).setCmd { held := [cmd 0x22 [0]], executing := some (.validating .a) }

theorem witness_ValidationEnds :
    ((validating threeVoxels).cmd.held = [cmd 0x22 [0]] ∧ (validating threeVoxels).cmd.executing = some (.validating .a)
        ∧ OwnRoom (validating threeVoxels))
      ∧ finishedAs (bank .loading (row true true)).validate = some (false, 3)
      ∧ finishedAs (bank .loading (row true false)).validate = some (true, 3)
      ∧ (∀ k, State.reset.cmd.executing ≠ some (.validating k)) :=
  ⟨⟨rfl, rfl, rfl, by decide⟩, by decide +kernel, by decide +kernel, fun _ h => nomatch h⟩

theorem test_validation_makes_ready :
    ((after .endOfValidation (validating (bank .loading (row true false)))).banks.a.state,
      (after .endOfValidation (validating (bank .loading (row true false)))).banks.a.dmax) = (.ready, some 3)
      ∧ (after .endOfValidation (validating threeVoxels)).notice.faultRecord.isSome = true := by decide +kernel

/-- Bank A READY, B ACTIVE, a switch perhaps pending. -/
def readyA (state : ScanState) : State :=
  (State.reset.setBanks { a := bank .ready (row true false), b := bank .active (row true false), active := some .b
                          pendingSwitch := none }).setScan { Scan.started with state := state }

theorem witness_SwitchBankForms :
    (Begins (serving (readyA .idle) 0x23 [0]) 0x23 (cmd 0x23 [0]) [] ∧ 1 < (cmd 0x23 [2]).byte 0
        ∧ bankOfCode ((cmd 0x23 [0]).byte 0) = some .a ∧ bankOfCode ((cmd 0x23 [1]).byte 0) = some .b)
      ∧ ((State.reset.banks.get .a).state = .empty ∧ (State.reset.banks.active = none))
      ∧ (((readyA .idle).banks.get .b).state = .active ∧ ((readyA .idle).banks.get .a).state = .ready
          ∧ (readyA .idle).banks.active = some BankId.a.other)
      ∧ ((readyA .running).scan.state = .running ∧ (readyA .halting).scan.state = .halting) :=
  ⟨⟨serving_begins _ _ _ _ rfl rfl rfl rfl, by decide, rfl, rfl⟩, by decide, by decide, by decide⟩

theorem test_switch_bank_at_once_and_pending :
    ((after .switchBank (serving (readyA .idle) 0x23 [0])).banks.a.state,
      (after .switchBank (serving (readyA .idle) 0x23 [0])).banks.b.state) = (.active, .ready)
      ∧ (after .switchBank (serving (readyA .halting) 0x23 [0])).banks.pendingSwitch = some .a := by decide +kernel

theorem witness_BankReads :
    (Begins (serving (readyA .idle) 0x24 [0]) 0x24 (cmd 0x24 [0]) [] ∧ 1 < (cmd 0x24 [2]).byte 0)
      ∧ (Begins (serving (readyA .idle) 0x25 [0, 0, 1]) 0x25 (cmd 0x25 [0, 0, 1]) []
          ∧ ((readyA .idle).banks.get .a).state ≠ .empty ∧ ((readyA .idle).banks.get .a).voxelCount ≤ (cmd 0x25 [0, 0, 1]).field 1 2)
      ∧ (State.reset.banks.get .a).state = .empty
      ∧ ((cmd 0x25 [0, 0, 2]).field 1 2 < threeVoxels.voxelCount ∧ Memory.find threeVoxels.rows 2 = none
          ∧ Memory.find threeVoxels.rows 0 = some (row true false)) :=
  ⟨⟨serving_begins _ _ _ _ rfl rfl rfl rfl, by decide⟩, ⟨serving_begins _ _ _ _ rfl rfl rfl rfl, by decide⟩, rfl,
    by decide +kernel⟩

/-- Two of three rows written, the lowest gap at voxel 2; the row of voxel 1 has one bad entry, lane 0's. -/
theorem test_bank_counts :
    (Memory.rising threeVoxels.rows, threeVoxels.writtenCount, threeVoxels.lowestUnwritten 3 0) = (true, 2, some 2)
      ∧ ((bank .ready (row true false)).lowestUnwritten 1 0) = none
      ∧ (((Memory.find threeVoxels.rows 1).map fun r => (r.badCount, r.firstBad, r.checkBytes))
        = some (1, some (.delay 0), [1, 3, 255]))
      ∧ (({ row true false with flags := { enabled := true, nuisance := true, parityOk := false } } : Row).firstBad,
          (row true true).firstBad, (row true true).checkBytes.length) = (some .flag, none, 385) := by decide +kernel

theorem test_read_row_beyond_the_bank :
    (after .readRow (serving sending 0x25 [0, 0, 0])).line.own = [ownFrame 0x31 [255, 7, 0x25, 3]] := by decide +kernel

/-! ## The stacking scan -/

theorem witness_StartScanForms :
    (Begins (serving (scan .running) 0x30 []) 0x30 (cmd 0x30 []) [] ∧ (scan .running).scan.state ≠ .idle)
      ∧ (faultHeld.scan.state = .idle ∧ faultHeld.notice.faultRecord.isSome = true)
      ∧ (State.reset.notice.faultRecord = none ∧ State.reset.banks.active = none)
      ∧ (Begins (serving (scan .idle) 0x30 []) 0x30 (cmd 0x30 []) [] ∧ (scan .idle).banks.active = some .a
          ∧ (scan .idle).tracker.lineTime = some 399 ∧ 399 + 1 < 2 ^ 48
          ∧ ∃ e ∈ (scan .idle).tracker.lanes, e.2.record.state = .admitted) := by
  refine ⟨⟨serving_begins _ _ _ _ rfl rfl rfl rfl, by decide⟩, by decide, by decide, serving_begins _ _ _ _ rfl rfl rfl rfl,
    rfl, rfl, by decide, ⟨(191, lane .admitted), ?_, rfl⟩⟩
  exact List.mem_singleton.mpr rfl

theorem test_start_scan_sets_the_cursor :
    (after .startScan (serving (scan .idle) 0x30 [])).scan.cursor = some 400
      ∧ (after .startScan (serving (scan .idle) 0x30 [])).scan.state = .running := by decide +kernel

theorem witness_HaltScanForms :
    (Begins (serving frozen 0x31 [0]) 0x31 (cmd 0x31 [0]) [] ∧ (cmd 0x31 [0]).params ≠ [])
      ∧ frozen.scan.state = .frozen
      ∧ ((scan .running).scan.state = .running ∧ (scan .halting).scan.state = .halting ∧ (scan .idle).scan.state = .idle)
      ∧ Begins (serving (scan .halting) 0x31 []) 0x31 (cmd 0x31 []) [] :=
  ⟨⟨serving_begins _ _ _ _ rfl rfl rfl rfl, by decide⟩, rfl, ⟨rfl, rfl, rfl⟩, serving_begins _ _ _ _ rfl rfl rfl rfl⟩

theorem test_halt_scan : (after .haltScan (serving (scan .running) 0x31 [])).scan.state = .halting := by decide +kernel

/-- A switch to B pending, A ACTIVE. -/
def pendingB : State :=
  (scan .running).setBanks { a := bank .active (row true false), b := bank .ready (row true false), active := some .a
                             pendingSwitch := some .b }

theorem witness_ClearScanForms :
    (Begins (serving (closing State.reset) 0x32 []) 0x32 (cmd 0x32 []) [] ∧ (closing State.reset).det.closing.isSome = true)
      ∧ (Begins (serving State.reset 0x32 []) 0x32 (cmd 0x32 []) [] ∧ State.reset.scan.state = .idle)
      ∧ (Begins (serving (scan .halting) 0x32 []) 0x32 (cmd 0x32 []) [] ∧ (scan .halting).det.closing = none)
      ∧ (pendingB.banks.pendingSwitch = some .b ∧ pendingB.banks.active = some BankId.b.other) :=
  ⟨⟨serving_begins _ _ _ _ rfl rfl rfl rfl, rfl⟩, ⟨serving_begins _ _ _ _ rfl rfl rfl rfl, rfl⟩,
    ⟨serving_begins _ _ _ _ rfl rfl rfl rfl, rfl⟩, rfl, rfl⟩

theorem test_clear_scan_takes_the_switch :
    (after .clearScan (serving pendingB 0x32 [])).banks.active = some .b
      ∧ (after .clearScan (serving pendingB 0x32 [])).notice.isSet .bank = true := by decide +kernel

theorem witness_TickScansBegin :
    (State.reset.scan.cursor = none ∧ (ticking .running).scan.tick.isSome = true)
      ∧ ((scan .running).scan.cursor = some 390 ∧ (scan .running).banks.active = some .a
          ∧ (scan .running).tracker.lineTime = some 399 ∧ (scan .running).scan.tick = none
          ∧ (scan .running).det.closing = none ∧ (∀ x, (scan .running).cmd.executing ≠ some (.laneChange x)))
      ∧ (390 + 3 ≤ 399 ∧ ¬397 + 3 ≤ 399) :=
  ⟨by decide, ⟨rfl, rfl, rfl, rfl, rfl, fun _ h => nomatch h⟩, by decide⟩

theorem witness_TickScansBegin_close :
    (∀ c, (closingFor (close .silence false false) (scan .running)).det.closing = some c → c.boundary = false)
      ∧ (closing (scan .running)).det.closing = some (close .quietRun true false) :=
  ⟨fun _ h => by injection h with h; rw [← h]; rfl, rfl⟩

/-- A close for SILENCE does not keep a ready tick from beginning; one that holds its boundary back does. -/
theorem test_tick_scan_begins_during_a_close :
    (after .tickScanBegin (closingFor (close .silence false false) (scan .running))).scan.tick.isSome = true
      ∧ (after .tickScanBegin (closing (scan .running))).scan.tick = none := by decide +kernel

theorem test_tick_scan_begins :
    ((ticking .running).scan.tick.map fun k => (k.origin, k.contributing, k.dmax)) = some (390, [(191, 10)], 3)
      ∧ Memory.find (ticking .running).scan.cutoffs 191 = some 393 := by decide

/-- The tick scan in flight on a bank, with the cells of lane 191. -/
def tickingOn (r : Row) (parityOk : Bool) : State :=
  ((ticking .running).setBanks { a := bank .active r, b := Bank.cold, active := some .a, pendingSwitch := none }).setTracks
    [(191, { newest := some 399, cells := [(393, { value := 800, present := true, parityOk := parityOk })] })]

theorem witness_VoxelsEvaluated :
    State.reset.scan.tick = none
      ∧ ((walked .running).scan.tick.isSome = true ∧ ((walked .running).scan.tick.map TickScan.voxel) = some 1
          ∧ ((walked .running).banks.get .a).voxelCount = 1)
      ∧ ((readFlags (bank .active (row false false)) 0).parityOk = true
          ∧ (readFlags (bank .active (row false false)) 0).enabled = false)
      ∧ (readFlags (bank .active { row true false with flags := { enabled := true, nuisance := false, parityOk := false } })
          0).parityOk = false
      ∧ (((ticking .running).scan.tick.map TickScan.contributing) = some ([] ++ (191, 10) :: [])
          ∧ (readDelay (bank .active { row true false with delays := List.replicate 192 { delay := none, parityOk := false } })
              0 191).parityOk = false)
      ∧ ((readDelay ((tickingOn (row true false) true).banks.get .a) 0 191).parityOk = true
          ∧ (trackOf (tickingOn (row true false) true) 191).readCell 393 = .value 800) := by decide +kernel

/-- A cell that fails its parity check: not met before, with the fault leaving the engine running or freezing it; and met before. -/
theorem witness_VoxelsEvaluated_parity :
    (((tickingOn (row true false) false).scan.tick.map fun k => (k.origin, k.contributing, k.parityMet)) = some (390, [(191, 10)], [])
        ∧ (readDelay ((tickingOn (row true false) false).banks.get .a) 0 191).delay = some 3
        ∧ (trackOf (tickingOn (row true false) false) 191).readCell (390 + 3) = .parityFailure)
      ∧ (takeFault .scan (.track 191 393) (tickingOn (row true false) false)).notice.frozen = false
      ∧ (takeFault .scan (.track 191 393) ((tickingOn (row true false) false).setParams
          { Params.cold with faultCapture := false })).notice.frozen = true
      ∧ ((((tickingOn (row true false) false).setScan { (ticking .running).scan with
            tick := (ticking .running).scan.tick.map fun k => { k with parityMet := [(191, 393)] } }).scan.tick.map
              TickScan.parityMet) = some [(191, 393)]
          ∧ (tickingOn (row true false) false).notice.frozen = false) := by decide +kernel

theorem test_voxel_is_counted :
    ((walked .running).scan.tick.map fun k => (k.count, k.total, k.peak.map Peak.stack)) = some (1, 800, some 800)
      ∧ (after .voxelEvaluation (tickingOn (row true false) false)).notice.faultRecord.map FaultRecord.place
        = some (.track 191 393) := by decide +kernel

/-- The walk at its end, with a Detector. -/
def walkedWith (state : ScanState) (d : Detector) : State := (walked state).setDet { d with inUse := (walked state).det.inUse }

theorem witness_TickResultsDelivered :
    State.reset.scan.tick = none
      ∧ (((ticking .running).scan.tick.map TickScan.voxel) = some 0 ∧ ((ticking .running).banks.get .a).voxelCount = 1)
      ∧ (((walked .halting).scan.tick.map TickScan.voxel) = some 1 ∧ (walked .halting).det.closing = none)
      ∧ ((after .tickResultDelivery (walkedWith .halting (det .holdoff))).scan.state = .idle)
      ∧ ((after .tickResultDelivery (walkedWith .running { det .declared with
            running := some { run with durationLimit := 3 } })).det.closing.isSome = true)
      ∧ ((after .tickResultDelivery ((walkedWith .running (det .quiet)).setBanks pendingB.banks)).banks.active = some .b) := by
  decide +kernel

/-- The walk at its end, and a SET LANE of lane 191 that waits, its line as given. -/
def laneWaits (included : Bool) (l : Line) (s : State) : State :=
  (s.setLine l).setCmd { held := [cmd 0x11 [191, 16, 8, if included then 1 else 0]]
                         executing := some (.laneChange ⟨191, 15, 8, included, true⟩) }

theorem witness_TickResultsDelivered_laneChange :
    ((laneWaits false Line.cold (walked .running)).cmd.executing = some (.laneChange ⟨191, 15, 8, false, true⟩)
        ∧ laneOf (laneWaits false Line.cold (walked .running)) 191 = some (lane .admitted)
        ∧ OwnRoom (laneWaits false Line.cold (walked .running)))
      ∧ (laneWaits true Line.cold (walked .running)).cmd.executing = some (.laneChange ⟨191, 15, 8, true, true⟩)
      ∧ (Config.ownDepth ≤ (laneWaits false (ownLine 16 [] none).line (walked .running)).line.own.length
          ∧ .commandUnit ∉ (laneWaits false (ownLine 16 [] none).line (walked .running)).line.waiters
          ∧ (laneWaits false (ownLine 16 [] none).line (walked .running)).line.dnTx.isSome = true) :=
  ⟨⟨rfl, by decide, rfl, by decide⟩, rfl, by decide⟩

theorem test_waiting_set_lane_is_answered :
    let t := fun l => after .tickResultDelivery (laneWaits false l (walked .running))
    (t (ownLine 0 [] none).line).line.own = [ownFrame 0x31 [255, 7, 0x11, 1]]
      ∧ (t (ownLine 0 [] none).line).notice.isSet .laneChange = true
      ∧ (t (ownLine 16 [] none).line).cmd.executing = some (.replyWaiting (ownFrame 0x31 [255, 7, 0x11, 1])) := by
  decide +kernel

/-- A scan at a cursor, its line time below, at and above the margin cursor + DMAX + GRACE + LAG_ALLOWANCE, and its walk at its end. -/
def farBehind (s : State) (lineTime : Nat) : State := s.setTracker { s.tracker with lineTime := some lineTime }

theorem witness_TickResultsDelivered_behind :
    ((farBehind (walked .running) 939).tracker.lineTime = some 939 ∧ (farBehind (walked .running) 939).scan.state = .running
        ∧ (farBehind (walked .running) 939).det.closing = none
        ∧ (takeTickResult { origin := 390, bank := .a, bankTag := 77, eligible := 1, peak := 800, peakVoxel := some 0
                            nuisance := false, mean := 800, pairs := [(191, 8000)] } (walked .running)).det.closing = none)
      ∧ (390 + 1 + 3 + 32 + 512 < 939 ∧ ¬390 + 1 + 3 + 32 + 512 < 938)
      ∧ (State.reset.scan.cursor = none
          ∧ ((farBehind (scan .running) 937).scan.cursor = some 390
            ∧ 937 ≤ 390 + (activeDmax (farBehind (scan .running) 937) + 32 + 512)
            ∧ 390 + (activeDmax (farBehind (scan .running) 938) + 32 + 512) < 938)) := by decide +kernel

theorem test_boundary_jumps :
    let t := after .tickResultDelivery (farBehind (walked .running) 939)
    (t.scan.cursor, t.scan.skippedTicks, t.notice.isSet .scanOverrun) = (some 904, 513, true)
      ∧ (after .tickResultDelivery (farBehind (walked .running) 938)).scan.cursor = some 391 := by decide +kernel

theorem test_boundary_moves_the_cursor :
    ((after .tickResultDelivery (walked .running)).scan.cursor, (after .tickResultDelivery (walked .running)).scan.ticksScanned)
      = (some 391, 1) := by decide +kernel

/-! ## Event detection -/

/-- The state with a Detector. -/
def detecting (state : DetState) : State := State.reset.setDet (det state)

/-- Ticks of each class. -/
def onTick : TickResult := tickC 390 768 1 307 false
def quietTick : TickResult := tickC 390 0 1 0 false
def vetoTick : TickResult := tickC 390 900 1 0 true

theorem witness_DetectorTakesTicks :
    ((detecting .quiet).det.state = .quiet ∧ (detecting .onset).det.running = some run
        ∧ (detecting .declared).det.running = some run ∧ (detecting .holdoff).det.state = .holdoff)
      ∧ (768 ≤ onTick.peak ∧ onTick.mean * 40 ≤ onTick.peak * 16 ∧ onTick.nuisance = false ∧ 1 ≤ onTick.eligible)
      ∧ quietTick.peak < 640 ∧ vetoTick.nuisance = true
      ∧ (3 ≤ run.onsetCount + 1 ∧ run.quietRun + 1 = 8 ∧ onTick.origin - run.onsetTick + 1 < run.durationLimit) := by decide

theorem test_detector_by_state :
    ((takeTickResult onTick (detecting .quiet)).det.state, (takeTickResult vetoTick (detecting .quiet)).det.nuisanceHits,
      (takeTickResult onTick (detecting .onset)).det.state, (takeTickResult quietTick (detecting .onset)).det.abortedOnsets,
      (takeTickResult quietTick (detecting .declared)).det.closing.isSome, (takeTickResult onTick (detecting .holdoff)).det.state)
      = (.onset, 1, .declared, 1, true, .quiet) := by decide

/-- The Event Queue with 31 records before its tail. -/
def fullQueue : State := (detecting .declared).setQueue (List.replicate 31 (event .complete) ++ [event .waiting])

theorem witness_ClosesBegin :
    ((detecting .declared).det.running = some run ∧ (detecting .declared).queue.length < 32)
      ∧ (fullQueue.queue = List.replicate 31 (event .complete) ++ [event .waiting]
          ∧ (List.replicate 31 (event .complete)).length = 31)
      ∧ ((detecting .quiet).det.state = .quiet ∧ (detecting .onset).det.state = .onset
          ∧ (detecting .holdoff).det.state = .holdoff)
      ∧ ((detecting .declared).det.closing = none
          ∧ (closing State.reset).det.closing = some (close .quietRun true false)) := by decide

theorem test_full_queue_discards :
    (takeOverrun fullQueue).queue.map EventRecord.overflowFollows = List.replicate 31 false ++ [true]
      ∧ ((takeOverrun fullQueue).det.serial, (takeOverrun fullQueue).det.queueDiscards, (takeOverrun fullQueue).det.holdoff)
        = (65535, 1, 16) := by decide

theorem witness_ClosesComplete :
    State.reset.det.closing = none
      ∧ ((closing State.reset).det.running = some run
          ∧ (closing State.reset).det.closing = some (close .quietRun true false))
      ∧ (let s := (closing (scan .running)).setCmd { held := [cmd 0x32 []], executing := some .clearScan }
         s.cmd.executing = some .clearScan ∧ s.scan.state = .running
          ∧ (after .closeCompletion s).notice.frozen = false) := by decide +kernel

/-- The close of a scan, its CAPTURE group with or without the enable. -/
def closingWith (enable : Bool) (s : State) : State :=
  closingFor { close .quietRun true false with capture := { Params.cold.capture with enable := enable } } s

/-- A record that settles as it is appended, ABORTED or NONE; one that waits, alone or behind another or a capture. -/
theorem witness_ClosesComplete_status :
    (let t := fun s => (after .closeCompletion s).queue.map EventRecord.status
     (t (closing frozen), t (closingWith false (scan .running)), t (closing (scan .running)),
        t ((closing (scan .running)).setQueue [event .waiting])) = ([.aborted], [.none], [.waiting], [.waiting, .waiting]))
      ∧ (makePlan (close .quietRun true false) run.maximum (scan .running)).1 ≠ []
      ∧ (scan .running).capture.active = none := by decide +kernel

/-- A CLEAR SCAN that waits for the close. -/
def clearWaits (s : State) : State := s.setCmd { held := [cmd 0x32 []], executing := some .clearScan }

/-- A close whose plan meets a cell that fails its parity check, FAULT_CAPTURE off. -/
def closingFreezes : State :=
  (closing (tickingOn (row true false) false)).setParams { Params.cold with faultCapture := false }

theorem witness_ClosesComplete_clear :
    ((makePlan (close .quietRun true false) run.maximum (clearWaits closingFreezes)).2.notice.frozen = true
        ∧ (clearWaits closingFreezes).cmd.executing = some .clearScan
        ∧ (clearWaits closingFreezes).cmd.held = cmd 0x32 [] :: [])
      ∧ closingFreezes.cmd.executing ≠ some .clearScan
      ∧ ((makePlan (close .quietRun true false) run.maximum (clearWaits (closing pendingB))).2.notice.frozen = false
          ∧ (clearWaits (closing pendingB)).scan.state = .running ∧ pendingB.banks.pendingSwitch = some .b)
      ∧ (clearWaits (closing (scan .idle))).scan.state = .idle := by decide +kernel

theorem test_clear_scan_waits_for_its_close :
    let t := after .closeCompletion (clearWaits closingFreezes)
    let u := after .closeCompletion (clearWaits (closing pendingB))
    (t.notice.frozen, t.cmd.executing, t.queue.map EventRecord.status, t.det.closing) = (true, none, [.aborted], none)
      ∧ (u.scan.state, u.det.state, u.det.holdoff, u.banks.active) = (.idle, .quiet, 0, some .b) := by decide +kernel

/-- A scan with a close that holds its boundary back, at a line time; the margin of cursor 390 is 937. -/
def closesAt (state : ScanState) (lineTime : Nat) (overrun : Bool) : State :=
  closingFor (close .durationLimit true overrun) (farBehind (scan state) lineTime)

theorem witness_ClosesComplete_boundary :
    ((makePlan (close .durationLimit true false) run.maximum (closesAt .running 938 false)).2.notice.frozen = false
        ∧ (closesAt .running 938 false).cmd.executing = none ∧ (closesAt .running 938 false).scan.tick = none
        ∧ (closesAt .running 938 false).scan.cursor = some 390 ∧ (closesAt .running 938 false).tracker.lineTime = some 938)
      ∧ (390 + 3 + 32 + 512 < 938 ∧ 937 ≤ 390 + 3 + 32 + 512)
      ∧ (activeDmax (after .closeCompletion (closesAt .running 938 false)) = 3
          ∧ activeDmax (after .closeCompletion (closesAt .running 937 false)) = 3)
      ∧ (closesAt .halting 937 false).scan.state = .halting
      ∧ ((closing pendingB).banks.pendingSwitch = some .b ∧ (close .quietRun true false).boundary = true)
      ∧ ((laneWaits false Line.cold (closing (scan .running))).cmd.executing = some (.laneChange ⟨191, 15, 8, false, true⟩)
          ∧ laneOf (laneWaits false Line.cold (closing (scan .running))) 191 = some (lane .admitted))
      ∧ (closing State.reset).scan.state = .idle
      ∧ ((close .silence false true).boundary = false ∧ (close .silence false true).overrun = true) := by decide +kernel

/-- After the record: a HALTING scan becomes IDLE; the cursor jumps, which drops HOLDOFF, or stays; the pending switch is taken; the
waiting SET LANE is answered. -/
theorem test_boundary_follows_the_close :
    let t := after .closeCompletion
    ((t (closesAt .halting 937 false)).scan.state, (t (closesAt .halting 937 false)).notice.isSet .scanState,
        (t (closesAt .halting 937 false)).det.state) = (.idle, true, .quiet)
      ∧ ((t (closesAt .running 938 false)).scan.cursor, (t (closesAt .running 938 false)).det.state) = (some 903, .quiet)
      ∧ ((t (closesAt .running 937 false)).scan.cursor, (t (closesAt .running 937 false)).det.state) = (some 390, .holdoff)
      ∧ ((t (closesAt .running 937 true)).det.state, (t (closesAt .running 937 true)).det.holdoff) = (.quiet, 0)
      ∧ ((t (closing pendingB)).banks.active, (t (closing pendingB)).notice.isSet .bank) = (some .b, true)
      ∧ (t (laneWaits false (ownLine 0 [] none).line (closing (scan .running)))).line.own = [ownFrame 0x31 [255, 7, 0x11, 1]] := by
  decide +kernel

/-- A close for SILENCE leaves the scan alone; the OVERRUN kept meanwhile drops HOLDOFF. -/
theorem test_close_without_a_boundary :
    let t := fun o => after .closeCompletion (closingFor (close .silence false o) (farBehind (scan .halting) 938))
    ((t false).scan = (farBehind (scan .halting) 938).scan ∧ (t false).det.state = .holdoff) ∧ (t true).det.state = .quiet := by
  decide +kernel

/-- The serial after 65535 is 0; the record at the tail keeps 65535. -/
theorem test_serial_wraps :
    (after .closeCompletion (closing (scan .running))).det.serial = 0
      ∧ (after .closeCompletion (closing (scan .running))).queue.map (fun r => (r.serial, r.status)) = [(65535, .waiting)] := by
  decide +kernel

theorem witness_PlansMade :
    Params.cold.capture.enable = true ∧ ({ Params.cold.capture with enable := false } : CaptureParams).enable = false
      ∧ (scan .running).notice.frozen = false
      ∧ (∀ p ∈ run.maximum.pairs, (readDelay ((scan .running).banks.get .a) 0 p.1).parityOk = true)
      ∧ (trackOf (scan .running) 191).readCell 393 = .value 800 := by decide +kernel

/-- Lane 191's delay, or its cell, fails its parity check; the delay is NONE; the cell is absent; and no entry is left to make. -/
theorem witness_PlansMade_walk :
    (readDelay ((tickingOn { row true false with delays := List.replicate 192 { delay := none, parityOk := false } } true).banks.get .a)
        0 191).parityOk = false
      ∧ ((readDelay ((tickingOn (row true false) true).banks.get .a) 0 0).parityOk = true
          ∧ (readDelay ((tickingOn (row true false) true).banks.get .a) 0 0).delay = none)
      ∧ ((readDelay ((tickingOn (row true false) true).banks.get .a) 0 191).delay = some 3
          ∧ (trackOf (tickingOn (row true false) false) 191).readCell (390 + 3) = .parityFailure
          ∧ (trackOf (tickingOn (row true false) true) 191).readCell (391 + 3) = .absent
          ∧ (trackOf (tickingOn (row true false) true) 191).readCell (390 + 3) = .value 800)
      ∧ (tickingOn (row true false) false).notice.frozen = false := by decide +kernel

/-- A failing cell is passed over with a fault of the planning; where that fault freezes the engine the walk ends. -/
theorem test_plan_meets_a_parity_failure :
    let w := fun s => walkPlan run.maximum Params.cold.capture [(191, 8000), (0, 100)] 4 s
    ((w (tickingOn (row true false) false)).1, (w (tickingOn (row true false) false)).2.notice.faultRecord.map FaultRecord.activity,
      (w ((tickingOn (row true false) false).setParams { Params.cold with faultCapture := false })).2.notice.frozen)
      = ([], some .planning, true) := by decide +kernel

/-! ## Events and snippets -/

theorem witness_HeadFetchedAndReleased :
    (Begins (serving State.reset 0x40 []) 0x40 (cmd 0x40 []) [] ∧ State.reset.queue = [])
      ∧ ((queued .waiting).queue = event .waiting :: [] ∧ (event .waiting).status = .waiting
          ∧ (event .noSpace).status.settled = true)
      ∧ (((queued .capturing).setCapture { active := some { next := 1, storeError := false }, waitTimer := none }).capture.active
          = some { next := 1, storeError := false })
      ∧ (Begins (serving (queued .complete) 0x42 [0, 5]) 0x42 (cmd 0x42 [0, 5]) []
          ∧ (event .complete).serial = (cmd 0x42 [0, 5]).field 0 2 ∧ (event .complete).serial ≠ (cmd 0x42 [0, 6]).field 0 2) :=
  ⟨⟨serving_begins _ _ _ _ rfl rfl rfl rfl, rfl⟩, by decide, by decide, serving_begins _ _ _ _ rfl rfl rfl rfl, by decide,
    by decide⟩

theorem test_release_removes_the_head :
    (after .releaseEvent (serving ((queued .complete).setStore { SnippetStore.empty [] with freeWords := 65456 }) 0x42
        [0, 5])).store.freeWords = 65536
      ∧ (after .releaseEvent (serving (queued .complete) 0x42 [0, 6])).queue.length = 1 := by decide +kernel

theorem test_fetch_refuses_a_waiting_head :
    (after .fetchEvent (serving ((queued .waiting).setLine sending.line) 0x40 [])).line.own
      = [ownFrame 0x31 [255, 7, 0x40, 2, 0, 5, 1, 1]] := by decide +kernel

theorem witness_ReadSnippetForms :
    (Begins (serving State.reset 0x41 [191, 0, 0, 0, 0]) 0x41 (cmd 0x41 [191, 0, 0, 0, 0]) [] ∧ State.reset.queue = [])
      ∧ ((cmd 0x41 [191, 0, 0, 0, 0]).byte 0 < 192 ∧ (cmd 0x41 [255, 0, 0, 0, 0]).byte 0 = 255)
      ∧ ((event .waiting).status.settled = false ∧ (event .aborted).status = .aborted)
      ∧ (Begins (serving (queued .complete) 0x41 [255, 0, 79, 0, 2]) 0x41 (cmd 0x41 [255, 0, 79, 0, 2]) []
          ∧ (cmd 0x41 [255, 0, 79, 0, 2]).field 1 2 < 80 ∧ 80 ≤ (cmd 0x41 [255, 0, 80, 0, 2]).field 1 2
          ∧ (event .complete).plan.filter (fun e => e.lane == 0) = []) :=
  ⟨⟨serving_begins _ _ _ _ rfl rfl rfl rfl, rfl⟩, by decide, by decide, serving_begins _ _ _ _ rfl rfl rfl rfl, by decide,
    by decide, rfl⟩

/-- A stream over the 80 words of the head, `n` of them sent. -/
def stream (n : Nat) : Stream :=
  { serial := 5, selector := 255, first := 0, total := 80, clamped := true, sent := n, frames := n / 64, replaced := 0
    faultMet := false }

/-- READ SNIPPET with its stream in progress. -/
def streaming (n : Nat) (own : List Bytes) : State :=
  ((queued .complete).setLine { sending.line with own := own }).setCmd
    { held := [cmd 0x41 [255, 0, 0, 0, 0]], executing := some (.streaming (stream n)) }

theorem witness_SnippetFramesPlaced :
    (∀ st, State.reset.cmd.executing ≠ some (.streaming st))
      ∧ ((streaming 0 []).cmd.executing = some (.streaming (stream 0)) ∧ (streaming 0 []).queue = event .complete :: []
          ∧ (streaming 0 []).line.dnTx.isSome = true ∧ locateWord (event .complete).plan 0 = some (entry, 0)
          ∧ locateWord (event .complete).plan 79 = some (entry, 79))
      ∧ (16 ≤ (streaming 0 (List.replicate 16 [1])).line.own.length
          ∧ .commandUnit ∉ (streaming 0 (List.replicate 16 [1])).line.waiters)
      ∧ (OwnRoom (streaming 0 []) ∧ 0 + min 64 (min 80 80) < 80)
      ∧ ((streaming 64 []).line.own.length < 15 ∧ 80 ≤ 64 + min 64 (min 16 16)) :=
  ⟨fun _ h => (nomatch h), by decide, by decide, ⟨⟨rfl, by decide⟩, by decide⟩, by decide⟩

/-- The stream's Command Unit waits at the front, another producer behind it or none; another waits in front of it; and a last frame
that takes the last place. -/
def streamWaitsAs (n own : Nat) (waiters : List Producer) : State :=
  (streaming n (List.replicate own [1])).setLine
    { (streaming n (List.replicate own [1])).line with waiters := waiters }

theorem witness_SnippetFramesPlaced_waiters :
    ((streamWaitsAs 0 15 [.commandUnit, .noticeUnit]).line.waiters = .commandUnit :: [.noticeUnit]
        ∧ (streamWaitsAs 0 15 [.commandUnit, .noticeUnit]).line.own.length < 16 ∧ 0 + min 64 (min 80 80) < 80)
      ∧ ((streamWaitsAs 64 14 [.commandUnit, .noticeUnit]).line.waiters = .commandUnit :: [.noticeUnit]
          ∧ 80 ≤ 64 + min 64 (min 16 16))
      ∧ ((streamWaitsAs 64 15 []).line.waiters = [] ∧ (streamWaitsAs 64 15 []).line.own.length = 15)
      ∧ (streamWaitsAs 64 15 [.commandUnit]).line.waiters = [.commandUnit]
      ∧ ((∃ p others, (streamWaitsAs 0 0 [.noticeUnit]).line.waiters = p :: others ∧ p ≠ .commandUnit)
          ∧ .commandUnit ∉ (streamWaitsAs 0 0 [.noticeUnit]).line.waiters)
      ∧ .commandUnit ∈ (streamWaitsAs 0 16 [.commandUnit]).line.waiters :=
  ⟨by decide, by decide, by decide, rfl, ⟨⟨_, _, rfl, by decide⟩, by decide⟩, by decide⟩

/-- The last frame takes the last place, and its reply waits; with another producer behind the stream, the reply waits behind it. -/
theorem test_last_frame_leaves_its_reply_waiting :
    let t := fun n w => after .snippetFramePlaced (streamWaitsAs 64 n w)
    ((t 15 []).line.own.length, (t 15 []).line.waiters) = (16, [.commandUnit])
      ∧ ((t 15 [.commandUnit]).line.own.length, (t 15 [.commandUnit]).line.waiters) = (16, [.commandUnit])
      ∧ ((t 0 [.commandUnit, .noticeUnit]).line.own.length, (t 0 [.commandUnit, .noticeUnit]).line.waiters)
        = (1, [.noticeUnit, .commandUnit]) := by decide +kernel

theorem test_stream_ends_with_its_reply :
    (after .snippetFramePlaced (after .snippetFramePlaced (streaming 0 []))).line.own.length = 3
      ∧ ((after .snippetFramePlaced (after .snippetFramePlaced (streaming 0 []))).line.own.getD 2 []
        = ownFrame 0x31 [255, 7, 0x41, 1, 0, 5, 255, 0, 0, 0, 80, 0, 2, 0, 0]) := by decide +kernel

/-- The stream begun on words of which 0 and 1 fail their ECC check. -/
def failingStream (faultMet frozen : Bool) : State :=
  (((streaming 0 []).setStore { SnippetStore.empty [(0, { sample := 3, eccOk := false }), (1, { sample := 4, eccOk := false })] with
      freeWords := 65456 }).setNotice { NoticeUnit.started 0 with frozen := frozen }).setCmd
    { held := [cmd 0x41 [255, 0, 0, 0, 0]], executing := some (.streaming { stream 0 with faultMet := faultMet }) }

theorem witness_SnippetFramesPlaced_failures :
    (((failingStream false false).store.readWord 0).isNone = true ∧ ((failingStream false false).store.readWord 2).isSome = true
        ∧ (failingStream false false).notice.frozen = false ∧ OwnRoom (failingStream false false))
      ∧ (failingStream true false).cmd.executing = some (.streaming { stream 0 with faultMet := true })
      ∧ (failingStream false true).notice.frozen = true :=
  ⟨⟨by decide, by decide, rfl, rfl, by decide⟩, rfl, rfl⟩

/-- The first failing word takes a fault, once a command; while FROZEN each is counted; each is replaced. -/
theorem test_failing_words :
    let t := fun a b => after .snippetFramePlaced (failingStream a b)
    ((t false false).notice.faultRecord.map FaultRecord.place, (t true false).notice.faultRecord,
      (t false true).notice.frozenStoreErrors, (t false false).notice.frozenStoreErrors)
      = (some (.store 0), none, 2, 0) := by decide +kernel

/-- The candidate WAITING, its wait timer running, with a ring's newest index. -/
def candidateWaits (newest freeWords : Nat) : State :=
  (((queued .waiting).setCapture { active := none, waitTimer := some 60 }).setRings
    [(191, { newest := some newest, words := [] })]).setStore { SnippetStore.empty [] with freeWords := freeWords }

theorem witness_WaitTimerExpires :
    State.reset.capture.waitTimer = none
      ∧ ((candidateWaits 1579 80).capture.waitTimer = some 60 ∧ (candidateWaits 1579 80).capture.active = none
          ∧ (candidateWaits 1579 80).queue = [] ++ event .waiting :: [] ∧ (candidateWaits 1579 80).notice.frozen = false)
      ∧ (entry.start + entry.count - 1 ≤ 1579 ∧ ¬entry.start + entry.count - 1 ≤ 1578)
      ∧ ((event .waiting).plan.map PlanEntry.count).sum = 80
      ∧ (laneOf (candidateWaits 1578 80) 191 = some (lane .admitted) ∧ ¬(event .waiting).closeTime + 3000 ≤ 60) := by decide

theorem test_wait_test :
    ((after .waitTimerExpiry (candidateWaits 1579 80)).queue.map EventRecord.status,
      (after .waitTimerExpiry (candidateWaits 1579 79)).queue.map EventRecord.status,
      (after .waitTimerExpiry (candidateWaits 1578 80)).capture.waitTimer) = ([.capturing], [.noSpace], some 3010) := by
  decide

/-- The candidate, a plan that names lane 191 and not lane 5, its lane receiving or not; and no candidate. -/
theorem witness_Candidate :
    Candidate (candidateWaits 1578 80) (candidateWaits 1578 80).captures [] (event .waiting) []
      ∧ ((∃ e ∈ (event .waiting).plan, e.lane = 191) ∧ ∀ e ∈ (event .waiting).plan, e.lane ≠ 5)
      ∧ laneOf (candidateWaits 1578 80) 191 = some (lane .admitted)
      ∧ (laneOf (mapped (lane .absent)) 191 = some (lane .absent) ∧ (lane .absent).record.state = .absent)
      ∧ ∀ before r after, ¬Candidate State.reset State.reset.captures before r after :=
  ⟨⟨rfl, rfl, rfl, rfl, by simp⟩, by decide, by decide, by decide, fun before r _ k => by
    have h : [] = before ++ r :: _ := k.queue
    simp at h⟩

/-- Each row after which the wait test is made lets the capture of the waiting candidate begin; without room it is NO_SPACE. -/
theorem test_rows_make_the_wait_test :
    let t := fun i w => (after i w).queue.map EventRecord.status
    let s := candidateWaits 1578
    (t (.acceptedBlock 191) ((s 80).setTracker { (s 80).tracker with blocks := [block 1600] }),
      t (.laneTimerExpiry 191) (s 80), t .setLane (serving (s 80) 0x11 [191, 15, 8, 0]),
      t .loadLaneMap (serving (s 80) 0x10 [0]), t .setParameters (serving (s 80) 0x09 (laneGroup 250 8)),
      t .loadLaneMap (serving (s 79) 0x10 [0]))
      = ([.capturing], [.capturing], [.capturing], [.capturing], [.capturing], [.noSpace]) := by decide +kernel

/-- A capture at its only entry, of two samples. -/
def capturing : State :=
  (((mapped (lane .admitted)).setQueue [{ event .capturing with plan := [{ entry with count := 2, extentOffset := some 65535 }] }]).setCapture
      { active := some { next := 1, storeError := false }, waitTimer := none }).setRings
    [(191, { newest := some 1500, words := [(1500, { sample := 9, present := true, eccOk := true })] })]

theorem witness_CopyStepsCopy :
    (capturing.capture.active = some { next := 1, storeError := false } ∧ State.reset.capture.active = none)
      ∧ (capturing.queue = [] ++ { event .capturing with plan := [{ entry with count := 2, extentOffset := some 65535 }] } :: []
          ∧ ([{ entry with count := 2, extentOffset := some 65535 }] : List PlanEntry)[1 - 1]?
            = some { entry with count := 2, extentOffset := some 65535 })
      ∧ (∀ j < 2, (ringOf capturing 191).readSample (1500 + j) ≠ .eccFailure)
      ∧ capturing.notice.frozen = false := by decide

theorem test_copy_step_wraps_and_ends :
    (after .copyStep capturing).queue.map (fun r => (r.status, r.plan.map PlanEntry.omitEnd)) = [(.partialCopy, [1])]
      ∧ (after .copyStep capturing).store.readWord 65535 = some 9
      ∧ (after .copyStep capturing).notice.isSet .eventReady = true := by decide +kernel

/-- The capture at its only entry, whose second sample fails its ECC check. -/
def eccCapture (faultCapture storeError : Bool) : State :=
  ((capturing.setRings
      [(191, { newest := some 1501, words := [(1500, { sample := 9, present := true, eccOk := true }),
        (1501, { sample := 8, present := true, eccOk := false })] })]).setParams
    { Params.cold with faultCapture := faultCapture }).setCapture
      { active := some { next := 1, storeError := storeError }, waitTimer := none }

theorem witness_CopyStepsCopy_ecc :
    ((ringOf (eccCapture true false) 191).readSample (1500 + 1) = .eccFailure
        ∧ (ringOf (eccCapture true false) 191).readSample (1500 + 0) ≠ .eccFailure
        ∧ (eccCapture true false).capture.active = some { next := 1, storeError := false })
      ∧ (takeFault .capture (.ring 191 1501) (eccCapture true true)).notice.frozen = false
      ∧ (takeFault .capture (.ring 191 1501) (eccCapture false true)).notice.frozen = true
      ∧ (eccCapture true true).capture.active = some { next := 1, storeError := true } := by decide +kernel

/-- The failing sample is copied as the missing marker; a fault that leaves the engine running lets the step go on. -/
theorem test_copy_step_meets_an_ecc_failure :
    let t := fun b => after .copyStep (eccCapture b false)
    (((t true).store.readWord 0, (t true).queue.map EventRecord.status), (t true).notice.faultRecord.map FaultRecord.place)
        = ((some missingMarker, [.partialCopy]), some (.ring 191 1501))
      ∧ (t false).queue.map EventRecord.status = [.aborted] ∧ (t false).notice.frozen = true := by decide +kernel

/-! ## The frame and the invariants -/

theorem witness_RowsLeaveOtherParts :
    exec .holdReceived State.reset = .next (after .holdReceived State.reset) ∧ Part.cmd ∉ mayChange .holdReceived :=
  ⟨rfl, by decide⟩

theorem witness_QueuesAndStoreStayRight :
    (∃ t, step (upward 16) = .next t) ∧ QueuesBounded (upward 16)
      ∧ StoreAccounts ((queued .complete).setStore { SnippetStore.empty [] with freeWords := 65456 }) :=
  ⟨⟨_, rfl⟩, by constructor <;> decide, by constructor <;> decide⟩

theorem witness_MemoriesStayCanonical : MemoriesCanonical capturing :=
  ⟨by decide, by decide, by decide, by decide, by decide, fun k => by cases k <;> decide, by decide, by decide⟩

theorem witness_SelectorStaysRight : SelectorAgrees pendingB :=
  ⟨fun k => by cases k <;> decide, fun k => by cases k <;> decide, by decide, by decide, fun _ h => nomatch h⟩

theorem witness_FrozenStaysFrozen : FrozenAgrees frozen :=
  ⟨by decide, by decide, by decide, by decide, fun _ _ h => (nomatch h), fun _ _ h => (nomatch h)⟩

theorem witness_QueuesAndStoreStayRight_serials :
    SerialsFollow ((State.reset.setQueue [{ event .complete with serial := 65534 }, { event .waiting with serial := 65535 }]).setDet
      (Detector.started 0)) := by
  unfold SerialsFollow
  decide

theorem witness_SelectorStaysRight_scan :
    ScanAgrees (ticking .running)
      ∧ ((ticking .running).scan.cursor = some 390 ∧ 390 + 1 < 2 ^ 48 ∧ startInFront (ticking .running) = false)
      ∧ Memory.find (ticking .running).scan.cutoffs 191 = some 393
      ∧ (∃ t, step (ticking .running) = .next t) ∧ FrozenAgrees (ticking .running) :=
  ⟨⟨fun k h => by cases h; rfl, fun _ => by decide, fun _ h => (nomatch h), fun _ h => (nomatch h)⟩, by decide, by decide,
    ⟨_, rfl⟩, by decide, by decide, by decide, by decide, by decide, fun _ _ h => nomatch h⟩

theorem witness_SelectorStaysRight_close :
    ScanAgrees (closing (scan .running)) ∧ (closing (scan .running)).det.closing.isSome = true :=
  ⟨⟨fun _ h => (nomatch h), fun h => (nomatch h), fun _ _ _ => rfl, fun _ _ => ⟨rfl, rfl, rfl⟩⟩, rfl⟩

theorem witness_FrozenStaysFrozen_kept :
    frozen.notice.frozen = true ∧ startInFront (frozen.setPending [.haltScan]) = false
      ∧ startInFront (frozen.setPending [.restart]) = true ∧ ∃ t, step (frozen.setPending [.haltScan]) = .next t :=
  ⟨rfl, rfl, rfl, _, rfl⟩

theorem witness_ParametersAndMapStayRight : ParamsInRange Params.cold ∧ MapDistinct (mapped (lane .admitted)) :=
  ⟨witness_ValuesBroughtWithinRange, by decide, by decide, by decide⟩

end Sys2Proof.Tests
end

