-- ==== Sys2Proof/Proofs/Canonical.lean ====
section
namespace Sys2Proof.Machine

/-! ## The canonical form of every table (O56) -/

/-- `t` lists in every table and addressed store what `s` lists there. -/
structure SameMemories (s t : State) : Prop where
  lanes : t.tracker.lanes = s.tracker.lanes
  tracks : t.tracks = s.tracks
  rings : t.rings = s.rings
  rows : ∀ bank, (t.banks.get bank).rows = (s.banks.get bank).rows
  cutoffs : t.scan.cutoffs = s.scan.cutoffs
  words : t.store.words = s.store.words

theorem SameMemories.refl (s : State) : SameMemories s s := ⟨rfl, rfl, rfl, fun _ => rfl, rfl, rfl⟩

theorem SameMemories.trans {s t u : State} (h : SameMemories s t) (k : SameMemories t u) : SameMemories s u :=
  ⟨k.lanes.trans h.lanes, k.tracks.trans h.tracks, k.rings.trans h.rings, fun i => (k.rows i).trans (h.rows i),
    k.cutoffs.trans h.cutoffs, k.words.trans h.words⟩

theorem SameMemories.canonical {s t : State} (h : SameMemories s t) (hs : MemoriesCanonical s) : MemoriesCanonical t :=
  ⟨h.lanes ▸ hs.lanes, h.tracks ▸ hs.tracks, h.tracks ▸ hs.cells, h.rings ▸ hs.rings, h.rings ▸ hs.samples,
    fun i => h.rows i ▸ hs.rows i, h.cutoffs ▸ hs.cutoffs, h.words ▸ hs.store⟩

/-! ### Operations that leave every table as it stands -/

theorem same_answer (k : ReplyCode) (x : Bytes) (s : State) : SameMemories s (answer k x s) := by constructor <;> simp

theorem same_settleLine (s : State) : SameMemories s (settleLine s) := by constructor <;> simp

theorem same_setFlag (f : Flag) (s : State) : SameMemories s (setFlag f s) := by constructor <;> simp

theorem same_setFlagIf (c : Bool) (f : Flag) (s : State) : SameMemories s (setFlagIf c f s) := by constructor <;> simp

theorem same_serveCandidate (n : Nat) (s : State) : SameMemories s (serveCandidate n s) := by
  induction n generalizing s with
  | zero => exact .refl s
  | succ n ih =>
    have refused : SameMemories s (refuseCapture s) := by constructor <;> simp
    unfold serveCandidate
    split
    · exact .refl s
    · split
      · split
        · exact refused.trans (ih _)
        · constructor <;> simp [beginCapture]
      · constructor <;> simp

theorem same_waitTest (s : State) : SameMemories s (waitTest s) := same_serveCandidate _ s

theorem same_waitTestFor (lane : Nat) (s : State) : SameMemories s (waitTestFor lane s) := by
  unfold waitTestFor
  split
  · exact same_waitTest s
  · exact .refl s

theorem same_abortCaptures (s : State) : SameMemories s (abortCaptures s) := by
  constructor <;> simp [abortCaptures]

theorem same_appendRecord (r : EventRecord) (s : State) : SameMemories s (appendRecord r s) := by
  have appended : SameMemories s (s.setQueue (s.queue ++ [r])) := by constructor <;> simp
  unfold appendRecord
  dsimp only
  split
  · constructor <;> simp
  · split
    · exact appended.trans (same_waitTest _)
    · exact appended

theorem same_appendClosed (c : Closing) (run : Running) (plan : List PlanEntry) (s : State) :
    SameMemories s (appendClosed c run plan s) :=
  SameMemories.trans (t := s.setDet _) (by constructor <;> simp) (same_appendRecord _ _)

theorem same_freezeClose (a : Activity) (s : State) : SameMemories s (freezeClose a s) := by
  unfold freezeClose
  split
  · exact .refl s
  · split
    · exact .refl s
    · split
      · exact same_appendClosed _ _ _ s
      · constructor <;> simp

theorem same_enterFrozen (a : Activity) (s : State) : SameMemories s (enterFrozen a s) := by
  have stopped (u : State) : SameMemories u (freezeCommand u) := by constructor <;> simp
  unfold enterFrozen
  refine SameMemories.trans ?_ (stopped _)
  refine SameMemories.trans ?_ (same_freezeClose _ _)
  refine SameMemories.trans ?_ (same_abortCaptures _)
  constructor <;> simp

theorem same_takeFault (a : Activity) (p : FaultPlace) (s : State) : SameMemories s (takeFault a p s) := by
  unfold takeFault
  dsimp only
  split
  · exact .refl s
  · split
    · exact SameMemories.trans (by constructor <;> simp) (same_enterFrozen _ _)
    · split
      · constructor <;> simp
      · exact SameMemories.trans (by constructor <;> simp) (same_enterFrozen _ _)

theorem same_retest (s : State) : SameMemories s (retest s) := by
  unfold retest fallBehind
  split
  · split
    · dsimp only
      split
      · constructor <;> simp [jumpCursor]
      · exact .refl s
    · exact .refl s
  · exact .refl s

theorem rows_set_of_same {k : Banks} {i : BankId} {x : Bank} (h : x.rows = (k.get i).rows) (bank : BankId) :
    ((k.set i x).get bank).rows = (k.get bank).rows := by
  cases i <;> cases bank <;> simp_all [Banks.set, Banks.get]

theorem rows_activate (k : Banks) (i bank : BankId) : ((k.activate i).get bank).rows = (k.get bank).rows := by
  have marked (k : Banks) (j : BankId) (st : BankState) :
      ((k.set j { k.get j with state := st }).get bank).rows = (k.get bank).rows := rows_set_of_same (by rfl) bank
  have chosen (k : Banks) : ((({ k.set i { k.get i with state := .active } with
      active := some i, pendingSwitch := none } : Banks)).get bank).rows = (k.get bank).rows := by
    rw [← marked k i .active]
    cases bank <;> rfl
  unfold Banks.activate
  dsimp only
  rw [chosen]
  split
  · rfl
  · exact marked ..

theorem same_takeSwitch (s : State) : SameMemories s (takeSwitch s) := by
  unfold takeSwitch
  split
  · exact .refl s
  · constructor <;> simp [rows_activate]

theorem same_endHalting (s : State) : SameMemories s (endHalting s) := by
  unfold endHalting
  have idle : SameMemories s ((s.setScan { s.scan with state := .idle }).setDet s.det.stop) := by constructor <;> simp
  exact (idle.trans (same_takeSwitch _)).trans (by constructor <;> simp)

theorem same_clearScanEffect (s : State) : SameMemories s (clearScanEffect s) := by
  unfold clearScanEffect
  split
  · exact SameMemories.trans (t := (s.setScan _).setDet _) (by constructor <;> simp) (same_takeSwitch _)
  · exact .refl s

theorem same_planRead (m : Maximum) (lane : Nat) (s : State) : SameMemories s (planRead m lane s).2 := by
  unfold planRead
  dsimp only
  split
  · exact same_takeFault _ _ s
  · split
    · exact .refl s
    · split
      · exact .refl s
      · exact .refl s
      · exact same_takeFault _ _ s

theorem same_walkPlan (m : Maximum) (cap : CaptureParams) (ps : List (Nat × Nat)) (n : Nat) (s : State) :
    SameMemories s (walkPlan m cap ps n s).2 := by
  induction ps generalizing n s with
  | nil => exact .refl s
  | cons p ps ih =>
    have read := same_planRead m p.1 s
    unfold walkPlan
    split
    · exact .refl s
    · split
      · rename_i d t heq
        rw [heq] at read
        exact read.trans (ih _ _)
      · rename_i t heq
        rw [heq] at read
        split
        · exact read
        · exact read.trans (ih _ _)

theorem same_completeClose (c : Closing) (run : Running) (s : State) : SameMemories s (completeClose c run s) := by
  have planned : SameMemories s (makePlan c run.maximum s).2 := by
    unfold makePlan
    split
    · exact .refl s
    · exact same_walkPlan _ _ _ _ s
  exact planned.trans (same_appendClosed _ _ _ _)

theorem same_updateTick (f : TickScan → TickScan) (s : State) : SameMemories s (updateTick f s) := by
  constructor <;> simp [updateTick]

theorem same_meetTrackParity (lane u : Nat) (s : State) : SameMemories s (meetTrackParity lane u s) := by
  unfold meetTrackParity
  split
  · exact .refl s
  · exact (same_updateTick _ s).trans (same_takeFault _ _ _)

theorem same_stackLanes (bank : BankId) (v t : Nat) (c : List (Nat × Nat)) (k : Stack) (s : State) :
    SameMemories s (stackLanes bank v t c k s).2 := by
  induction c generalizing k s with
  | nil => exact .refl s
  | cons p rest ih =>
    obtain ⟨lane, w⟩ := p
    unfold stackLanes
    dsimp only
    split
    · exact same_takeFault _ _ s
    · split
      · exact ih k s
      · split
        · exact ih _ s
        · exact ih _ s
        · split
          · exact same_meetTrackParity _ _ s
          · exact (same_meetTrackParity _ _ s).trans (ih _ _)

theorem same_evaluateVoxel (k : TickScan) (s : State) : SameMemories s (evaluateVoxel k s) := by
  have taken (n : Bool) (x : Option Stack) (u : State) : SameMemories u (takeVoxel n x u) := by
    unfold takeVoxel
    split
    · exact .refl u
    · split
      · exact .refl u
      · exact same_updateTick _ u
  unfold evaluateVoxel nextVoxel
  dsimp only
  split
  · exact (same_takeFault _ _ s).trans (same_updateTick _ _)
  · split
    · exact same_updateTick _ s
    · exact ((same_stackLanes _ _ _ _ _ s).trans (taken _ _ _)).trans (same_updateTick _ _)

theorem same_deliver (r : TickResult) (s : State) : SameMemories s (deliver r s) := by
  constructor <;> simp [deliver]

theorem same_readWords (n w : Nat) (st : Stream) (s : State) : SameMemories s (readWords n w st s).2.2 := by
  induction n generalizing w st s with
  | zero => exact .refl s
  | succ n ih =>
    have met (w : Nat) : SameMemories s (meetStoreFailure w st s).2 := by
      unfold meetStoreFailure
      dsimp only
      split
      · constructor <;> simp
      · split
        · exact .refl s
        · exact same_takeFault _ _ s
    unfold readWords
    dsimp only
    split
    · exact ih _ _ s
    · exact (met _).trans (ih _ _ _)

theorem same_snippetFramePlaced (s : State) : SameMemories s (snippetFramePlaced s) := by
  have placed (st : Stream) (e : PlanEntry) (w : Nat) : SameMemories s (placeSnippet st e w s) := by
    unfold placeSnippet streamReply
    dsimp only
    refine (same_readWords (frameWords st e w) (e.extentOffset.getD 0 + w) st s).trans ?_
    split <;> constructor <;> simp
  unfold snippetFramePlaced
  split
  · split
    · exact .refl s
    · split
      · exact placed _ _ _
      · unfold streamWaits
        split <;> constructor <;> simp
  · exact .refl s

theorem same_upstreamFrame (f : Bytes) (s : State) : SameMemories s (upstreamFrame f s) := by
  unfold upstreamFrame handSample
  dsimp only
  split
  · split <;> constructor <;> simp
  · constructor <;> simp

/-! ### Operations that write a table -/

theorem canonical_setTracker {s : State} (x : Tracker) (h : Memory.rising x.lanes = true) (hs : MemoriesCanonical s) :
    MemoriesCanonical (s.setTracker x) :=
  ⟨h, hs.tracks, hs.cells, hs.rings, hs.samples, hs.rows, hs.cutoffs, hs.store⟩

theorem canonical_updateLane {s : State} (lane : Nat) (f : Lane → Lane) (hs : MemoriesCanonical s) :
    MemoriesCanonical (updateLane lane f s) :=
  canonical_setTracker _ (Memory.rising_modify _ _ _ hs.lanes) hs

/-- What a table of tables holds after a write holds of every entry that the table held and of the written value. -/
theorem Memory.forall_write {α : Type} [DecidableEq α] {P : α → Prop} (d : α) (m : Memory α) (k : Nat) (v : α)
    (hm : ∀ e ∈ m, P e.2) (hv : P v) : ∀ e ∈ Memory.write d m k v, P e.2 := by
  intro e he
  unfold Memory.write at he
  split at he
  · exact hm e (List.mem_of_mem_filter he)
  · rcases Memory.put_mem m k v e he with rfl | he
    · exact hv
    · exact hm e he

/-- What holds of every entry and of the unlisted value holds of every value read. -/
theorem Memory.read_of_forall {α : Type} {P : α → Prop} (d : α) (m : Memory α) (k : Nat) (hm : ∀ e ∈ m, P e.2) (hd : P d) :
    P (Memory.read d m k) := by
  induction m with
  | nil => exact hd
  | cons e t ih =>
    obtain ⟨j, v⟩ := e
    by_cases hk : k = j
    · simpa [Memory.read, Memory.find, hk] using hm (j, v) (List.mem_cons_self ..)
    · simpa [Memory.read, Memory.find, hk] using ih fun e he => hm e (List.mem_cons_of_mem _ he)

theorem canonical_setTrack {s : State} (lane : Nat) (x : Track) (hx : Memory.wf TrackCell.absent x.cells = true)
    (hs : MemoriesCanonical s) : MemoriesCanonical (setTrack s lane x) :=
  ⟨hs.lanes, Memory.wf_write _ _ _ _ hs.tracks,
    Memory.forall_write (P := fun x : Track => Memory.wf TrackCell.absent x.cells = true) _ _ _ _ hs.cells hx,
    hs.rings, hs.samples, hs.rows, hs.cutoffs, hs.store⟩

theorem canonical_setRing {s : State} (lane : Nat) (x : Ring) (hx : Memory.wf RingWord.absent x.words = true)
    (hs : MemoriesCanonical s) : MemoriesCanonical (setRing s lane x) :=
  ⟨hs.lanes, hs.tracks, hs.cells, Memory.wf_write _ _ _ _ hs.rings,
    Memory.forall_write (P := fun x : Ring => Memory.wf RingWord.absent x.words = true) _ _ _ _ hs.samples hx,
    hs.rows, hs.cutoffs, hs.store⟩

theorem MemoriesCanonical.trackOf {s : State} (hs : MemoriesCanonical s) (lane : Nat) :
    Memory.wf TrackCell.absent (trackOf s lane).cells = true :=
  Memory.read_of_forall (P := fun x : Track => Memory.wf TrackCell.absent x.cells = true) _ _ _ hs.cells rfl

theorem MemoriesCanonical.ringOf {s : State} (hs : MemoriesCanonical s) (lane : Nat) :
    Memory.wf RingWord.absent (ringOf s lane).words = true :=
  Memory.read_of_forall (P := fun x : Ring => Memory.wf RingWord.absent x.words = true) _ _ _ hs.samples rfl

theorem canonical_applyLaneChange {s : State} (c : LaneChange) (hs : MemoriesCanonical s) :
    MemoriesCanonical (applyLaneChange c s) := by
  unfold applyLaneChange
  dsimp only
  refine (same_waitTestFor _ _).canonical ((same_setFlag _ _).canonical ?_)
  split
  · exact canonical_updateLane _ _ hs
  · exact canonical_setRing _ _ rfl (canonical_setTrack _ _ rfl (canonical_updateLane _ _ hs))

theorem canonical_tickBoundary {s : State} (hs : MemoriesCanonical s) : MemoriesCanonical (tickBoundary s) := by
  have applied (u : State) (hu : MemoriesCanonical u) : MemoriesCanonical (applyWaitingChange u) := by
    unfold applyWaitingChange
    split
    · exact (same_answer _ _ _).canonical (canonical_applyLaneChange _ hu)
    · exact hu
  unfold tickBoundary
  split
  · exact applied _ ((same_endHalting s).canonical hs)
  · refine (same_retest _).canonical (applied _ ?_)
    split
    · exact (same_takeSwitch s).canonical hs
    · exact hs

theorem canonical_tickResultDelivery {s : State} (hs : MemoriesCanonical s) : MemoriesCanonical (tickResultDelivery s) := by
  unfold tickResultDelivery
  split
  · exact hs
  · split
    · exact hs
    · have delivered := fun r => (same_deliver r s).canonical hs
      dsimp only
      split
      · exact delivered _
      · exact canonical_tickBoundary (delivered _)

theorem canonical_closeCompletion {s : State} (hs : MemoriesCanonical s) : MemoriesCanonical (closeCompletion s) := by
  unfold closeCompletion
  split
  · rename_i c run _ _
    have kept : SameMemories (completeClose c run s) (keptOverrun c (completeClose c run s)) := by constructor <;> simp
    have done := kept.canonical ((same_completeClose c run s).canonical hs)
    unfold afterCompletion
    split
    · split
      · exact (same_answer _ _ _).canonical done
      · exact (same_answer _ _ _).canonical ((same_clearScanEffect _).canonical done)
    · split
      · exact canonical_tickBoundary done
      · exact done
  · exact hs

theorem rising_foldl_put {α β : Type} (key : β → Nat) (value : Memory α → β → α) (xs : List β) (m : Memory α)
    (hm : Memory.rising m = true) :
    Memory.rising (xs.foldl (fun m x => Memory.put m (key x) (value m x)) m) = true := by
  induction xs generalizing m with
  | nil => exact hm
  | cons x xs ih => exact ih _ (Memory.rising_put _ _ _ hm)

theorem canonical_tickScanBegin {s : State} (hs : MemoriesCanonical s) : MemoriesCanonical (tickScanBegin s) := by
  unfold tickScanBegin
  split
  · split
    · rename_i t bank _ _ _
      exact ⟨hs.lanes, hs.tracks, hs.cells, hs.rings, hs.samples, hs.rows,
        rising_foldl_put Prod.fst (fun m e => max (t + activeDmax s) ((Memory.find m e.1).getD 0)) _ _ hs.cutoffs, hs.store⟩
    · exact hs
  · exact hs

theorem canonical_writeStore {s : State} (w : Nat) (x : Sample) (hs : MemoriesCanonical s) :
    MemoriesCanonical (writeStore w x s) :=
  ⟨hs.lanes, hs.tracks, hs.cells, hs.rings, hs.samples, hs.rows, hs.cutoffs, Memory.wf_write _ _ _ _ hs.store⟩

theorem same_copyEccFailure (lane i : Nat) (s : State) : SameMemories s (copyEccFailure lane i s) := by
  unfold copyEccFailure
  split
  · exact .refl s
  · split
    · exact .refl s
    · exact SameMemories.trans (t := s.setCapture _) (by constructor <;> simp) (same_takeFault _ _ _)

theorem canonical_copyWord (lane i w : Nat) (p : CopyProgress) (hp : MemoriesCanonical p.state) :
    MemoriesCanonical (copyWord lane i w p).state := by
  have written (x : Sample) : MemoriesCanonical (writeStore w x p.state) := canonical_writeStore w x hp
  unfold copyWord
  split
  · exact written _
  · exact written _
  · exact written _
  · exact written _
  · exact (same_copyEccFailure _ _ _).canonical (written _)

theorem canonical_copyWords (lane n i w : Nat) (p : CopyProgress) (hp : MemoriesCanonical p.state) :
    MemoriesCanonical (copyWords lane n i w p).state := by
  induction n generalizing i w p with
  | zero => exact hp
  | succ n ih =>
    have copied := canonical_copyWord lane i w p hp
    unfold copyWords
    dsimp only
    split
    · exact copied
    · exact ih _ _ _ copied

theorem canonical_copyStep {s : State} (hs : MemoriesCanonical s) : MemoriesCanonical (copyStep s) := by
  unfold copyStep
  split
  · split
    · exact hs
    · rename_i e _
      have copied := canonical_copyWords e.lane e.count e.start (e.extentOffset.getD 0)
        { state := s, omitStart := 0, omitEnd := 0 } hs
      dsimp only
      split
      · exact copied
      · split
        · exact SameMemories.canonical (by constructor <;> simp) copied
        · unfold endCapture
          refine (same_waitTest _).canonical (SameMemories.canonical (by constructor <;> simp) copied)
  · exact hs

/-! ### Accepted blocks, lane maps and banks -/

theorem wf_blockRing (r : LaneRecord) (tag : Nat) (samples : List Sample) {ring : Ring}
    (h : Memory.wf RingWord.absent ring.words = true) :
    Memory.wf RingWord.absent (blockRing r tag samples ring).words = true := by
  have prepared : Memory.wf RingWord.absent (ring.prepare tag).words = true := by
    unfold Ring.prepare
    split
    · exact h
    · split
      · exact Memory.wf_eraseRun _ _ _ _ _ h
      · rfl
  unfold blockRing
  dsimp only
  refine Memory.wf_writeRun _ _ _ _ _ ?_
  split
  · exact prepared
  · exact Memory.wf_eraseRun _ _ _ _ _ h

theorem wf_writeBlock (cutoff : Option Nat) (k0 : Nat) (cells : List Nat) {track : Track}
    (h : Memory.wf TrackCell.absent track.cells = true) :
    Memory.wf TrackCell.absent (track.writeBlock cutoff k0 cells).cells = true :=
  writeCells_wf _ _ _ _ (Memory.wf_eraseRun _ _ _ _ _ h)

theorem wf_preparedTrack (r : LaneRecord) (k0 : Nat) {track : Track}
    (h : Memory.wf TrackCell.absent track.cells = true) :
    Memory.wf TrackCell.absent (preparedTrack r k0 track).cells = true := by
  unfold preparedTrack
  split
  · rfl
  · exact h

/-- The handling of the block `k` of a lane in the state `s` (R14). -/
def blockResult (lane : Nat) (k : Block) (l : Lane) (s : State) : BlockResult :=
  handleBlock s.params.lane (s.now + s.params.timers.laneTimeout) (Memory.find s.scan.cutoffs lane) l.entry l.record
    (ringOf s lane) (trackOf s lane) k

/-- The Lane Tracker after a block whose handling has left the record `r` (R14, R26, R27). -/
def blockTracker (lane : Nat) (k : Block) (r : LaneRecord) (s : State) : Tracker :=
  { s.tracker with
    lanes := Memory.modify s.tracker.lanes lane fun x => { x with record := r }
    lineTime := raiseLineTime s.tracker.lineTime ((k.tag + 15) / s.params.lane.tickLen)
    silenceTimer := some (s.now + s.params.timers.lineSilence) }

@[simp] theorem blockTracker_lanes (lane : Nat) (k : Block) (r : LaneRecord) (s : State) :
    (blockTracker lane k r s).lanes = Memory.modify s.tracker.lanes lane fun x => { x with record := r } := rfl

/-- The record, the ring and the track of a handled block stored, before the tests that follow the block. -/
def storeBlock (lane : Nat) (k : Block) (o : BlockResult) (s : State) : State :=
  setTrack (setRing (s.setTracker (blockTracker lane k o.record s)) lane o.ring) lane o.track

theorem acceptBlock_eq (lane : Nat) (k : Block) (l : Lane) (s : State) :
    acceptBlock lane k l s = waitTestFor lane (retest (setFlagIf (blockResult lane k l s).stateChanged .laneChange
      (storeBlock lane k (blockResult lane k l s) s))) := rfl

theorem canonical_acceptBlock {s : State} (lane : Nat) (k : Block) (l : Lane) (hs : MemoriesCanonical s) :
    MemoriesCanonical (acceptBlock lane k l s) := by
  have lanes := canonical_setTracker (blockTracker lane k (blockResult lane k l s).record s)
    (by rw [blockTracker_lanes]; exact Memory.rising_modify _ _ _ hs.lanes) hs
  have ring := canonical_setRing lane (blockResult lane k l s).ring (wf_blockRing _ _ _ (hs.ringOf lane)) lanes
  have stored := canonical_setTrack lane (blockResult lane k l s).track
    (wf_writeBlock _ _ _ (wf_preparedTrack _ _ (hs.trackOf lane))) ring
  rw [acceptBlock_eq]
  exact (same_waitTestFor _ _).canonical ((same_retest _).canonical ((same_setFlagIf _ _ _).canonical stored))

theorem canonical_acceptedBlock {s : State} (lane : Nat) (hs : MemoriesCanonical s) :
    MemoriesCanonical (acceptedBlock lane s) := by
  unfold acceptedBlock
  split
  · exact hs
  · split
    · exact hs
    · have taken (x : List Block) := canonical_setTracker (s := s) { s.tracker with blocks := x } hs.lanes hs
      unfold takeBlock
      split
      · exact taken _
      · split
        · exact taken _
        · split
          · exact canonical_updateLane _ _ (taken _)
          · exact canonical_acceptBlock _ _ _ (taken _)

theorem canonical_processFrame {s : State} (hs : MemoriesCanonical s) : MemoriesCanonical (processFrame s) := by
  unfold processFrame
  split
  · exact hs
  · split
    · exact hs
    · rename_i f rest _
      have taken := canonical_setTracker (s := s) { s.tracker with inbox := rest } hs.lanes hs
      dsimp only
      split
      · exact canonical_setTracker _ (by dsimp only; exact Memory.rising_mapValues _ _ hs.lanes) taken
      · exact SameMemories.canonical (by constructor <;> simp) taken

theorem canonical_laneTimerExpiry {s : State} (lane : Nat) (hs : MemoriesCanonical s) :
    MemoriesCanonical (laneTimerExpiry lane s) := by
  unfold laneTimerExpiry
  split
  · exact hs
  · split
    · exact hs
    · split
      · exact hs
      · rename_i e _
        have moved : MemoriesCanonical (s.setNow (max s.now e)) := SameMemories.canonical (by constructor <;> simp) hs
        exact (same_waitTestFor _ _).canonical ((same_retest _).canonical
          ((same_setFlagIf _ _ _).canonical (canonical_updateLane _ _ moved)))

theorem canonical_setBank {s : State} (i : BankId) (x : Bank) (hx : Memory.rising x.rows = true)
    (hs : MemoriesCanonical s) : MemoriesCanonical (s.setBanks (s.banks.set i x)) := by
  refine ⟨hs.lanes, hs.tracks, hs.cells, hs.rings, hs.samples, fun bank => ?_, hs.cutoffs, hs.store⟩
  have kept := hs.rows bank
  cases i <;> cases bank <;> first | exact hx | exact kept

theorem canonical_endOfValidation {s : State} (hs : MemoriesCanonical s) : MemoriesCanonical (endOfValidation s) := by
  unfold endOfValidation
  split
  · rename_i bank _
    have ended : MemoriesCanonical (s.setCmd { s.cmd with executing := none }) :=
      SameMemories.canonical (by constructor <;> simp) hs
    unfold endValidation
    dsimp only
    split
    · exact (same_answer _ _ _).canonical ended
    · exact (same_answer _ _ _).canonical ((same_takeFault _ _ _).canonical ended)
    · split
      · exact (same_answer _ _ _).canonical (canonical_setBank _ _ (hs.rows bank) ended)
      · exact (same_answer _ _ _).canonical ended
  · exact hs

/-- Every row that is no engine command keeps the canonical form, the line's settling left out. -/
theorem canonical_eventBody (i : Instr) {s : State} (hs : MemoriesCanonical s) : MemoriesCanonical (eventBody i s) := by
  have same {t : State} (h : SameMemories s t) : MemoriesCanonical t := h.canonical hs
  cases i with
  | upstreamFrameReceived f => exact same (same_upstreamFrame f s)
  | sampleFrameProcessing => exact canonical_processFrame hs
  | acceptedBlock lane => exact canonical_acceptedBlock lane hs
  | laneTimerExpiry lane => exact canonical_laneTimerExpiry lane hs
  | lineSilenceExpiry =>
    show MemoriesCanonical (lineSilenceExpiry s)
    unfold lineSilenceExpiry
    split
    · exact hs
    · split
      · exact hs
      · exact same (by constructor <;> simp)
  | endOfValidation => exact canonical_endOfValidation hs
  | snippetFramePlaced => exact same (same_snippetFramePlaced s)
  | tickScanBegin => exact canonical_tickScanBegin hs
  | voxelEvaluation =>
    show MemoriesCanonical (voxelEvaluation s)
    unfold voxelEvaluation
    split
    · exact hs
    · split
      · exact same (same_evaluateVoxel _ s)
      · exact hs
  | tickResultDelivery => exact canonical_tickResultDelivery hs
  | closeCompletion => exact canonical_closeCompletion hs
  | waitTimerExpiry =>
    show MemoriesCanonical (waitTimerExpiry s)
    unfold waitTimerExpiry
    split
    · exact hs
    · split
      · exact hs
      · exact (same_waitTest _).canonical (same (by constructor <;> simp))
  | copyStep => exact canonical_copyStep hs
  | _ => exact same (by constructor <;> simp [eventBody])

theorem rising_newMap (entries : List (Nat × LaneEntry × Nat)) : Memory.rising (newMap entries) = true :=
  rising_foldl_put Prod.fst (fun _ (x : Nat × LaneEntry × Nat) => newLane x.2.1) entries [] rfl

theorem canonical_loadLaneMap {s : State} (c : Held) (hs : MemoriesCanonical s) : MemoriesCanonical (loadLaneMap c s) := by
  unfold loadLaneMap
  dsimp only
  split
  · exact (same_answer _ _ _).canonical hs
  · split
    · refine (same_answer _ _ _).canonical ((same_waitTest _).canonical ((same_setFlagIf _ _ _).canonical ?_))
      exact ⟨rising_newMap _, rfl, fun _ he => (nomatch he), rfl, fun _ he => (nomatch he), hs.rows, hs.cutoffs, hs.store⟩
    · exact (same_answer _ _ _).canonical hs

theorem canonical_setLane {s : State} (c : Held) (hs : MemoriesCanonical s) : MemoriesCanonical (setLane c s) := by
  have replied (k : ReplyCode) : MemoriesCanonical (answer k [] s) := (same_answer _ _ _).canonical hs
  unfold setLane
  dsimp only
  split
  · exact replied _
  · split
    · exact replied _
    · split
      · exact (same_answer _ _ _).canonical (canonical_updateLane _ _ hs)
      · split
        · exact SameMemories.canonical (by constructor <;> simp) hs
        · exact (same_retest _).canonical ((same_answer _ _ _).canonical (canonical_applyLaneChange _ hs))

theorem canonical_readLane {s : State} (c : Held) (hs : MemoriesCanonical s) : MemoriesCanonical (readLane c s) := by
  unfold readLane
  dsimp only
  split
  · exact (same_answer _ _ _).canonical hs
  · split
    · exact (same_answer _ _ _).canonical hs
    · refine (same_answer _ _ _).canonical ?_
      split
      · exact canonical_updateLane _ _ hs
      · exact hs

theorem canonical_clearMarks {s : State} (lanes : List (Nat × Lane)) (hs : MemoriesCanonical s) :
    MemoriesCanonical (clearMarks lanes s) := by
  unfold clearMarks
  induction lanes generalizing s with
  | nil => exact hs
  | cons e rest ih => exact ih (canonical_updateLane _ _ hs)

/-- A bank command keeps the canonical form where its handling of a bank does. -/
theorem canonical_withBank {s : State} {body : BankId → State → State} (c : Held)
    (hb : ∀ bank, MemoriesCanonical (body bank s)) (hs : MemoriesCanonical s) : MemoriesCanonical (withBank body c s) := by
  unfold withBank
  split
  · exact (same_answer _ _ _).canonical hs
  · exact hb _

theorem canonical_beginBankLoad {s : State} (c : Held) (hs : MemoriesCanonical s) :
    MemoriesCanonical (beginBankLoad c s) := by
  refine canonical_withBank c (fun bank => ?_) hs
  dsimp only
  split
  · exact (same_answer _ _ _).canonical hs
  · split
    · exact (same_answer _ _ _).canonical hs
    · split
      · exact (same_answer _ _ _).canonical hs
      · exact (same_answer _ _ _).canonical (canonical_setBank bank _ rfl hs)

theorem canonical_loadRows {s : State} (c : Held) (hs : MemoriesCanonical s) : MemoriesCanonical (loadRows c s) := by
  refine canonical_withBank c (fun bank => ?_) hs
  dsimp only
  split
  · exact (same_answer _ _ _).canonical hs
  · split
    · exact (same_answer _ _ _).canonical hs
    · split
      · exact (same_answer _ _ _).canonical hs
      · exact (same_answer _ _ _).canonical (canonical_setBank bank _
          (rising_foldl_put (fun i => firstVoxel c + i) (fun _ i => storedRow c i) _ _ (hs.rows bank)) hs)

theorem same_activate (i : BankId) (s : State) : SameMemories s (s.setBanks (s.banks.activate i)) := by
  constructor <;> simp [rows_activate]

theorem canonical_switchBank {s : State} (c : Held) (hs : MemoriesCanonical s) : MemoriesCanonical (switchBank c s) := by
  have pending (x : Option BankId) : SameMemories s (s.setBanks { s.banks with pendingSwitch := x }) := by
    refine ⟨rfl, rfl, rfl, fun bank => ?_, rfl, rfl⟩
    cases bank <;> rfl
  refine canonical_withBank c (fun bank => ?_) hs
  split
  · unfold switchAtOnce
    split
    · exact (same_answer _ _ _).canonical ((same_activate bank s).canonical hs)
    all_goals exact (same_answer _ _ _).canonical hs
  · unfold switchPending
    split
    · exact (same_answer _ _ _).canonical ((pending _).canonical hs)
    · exact (same_answer _ _ _).canonical ((pending _).canonical hs)
    all_goals exact (same_answer _ _ _).canonical hs

theorem canonical_changeEffects {s : State} (rate tick : Bool) (hs : MemoriesCanonical s) :
    MemoriesCanonical (changeEffects rate tick s) := by
  have lost : MemoriesCanonical (loseLanes s) :=
    (same_setFlagIf _ _ _).canonical (canonical_setTracker _ (by dsimp only; exact Memory.rising_mapValues _ _ hs.lanes) hs)
  have ringless {u : State} (hu : MemoriesCanonical u) : MemoriesCanonical (clearRings u) :=
    ⟨hu.lanes, hu.tracks, hu.cells, rfl, fun _ he => (nomatch he), hu.rows, hu.cutoffs, hu.store⟩
  have trackless {u : State} (hu : MemoriesCanonical u) : MemoriesCanonical (clearTicks u) :=
    ⟨hu.lanes, rfl, fun _ he => (nomatch he), hu.rings, hu.samples, hu.rows, rfl, hu.store⟩
  cases rate <;> cases tick
  · exact hs
  · exact trackless lost
  · exact ringless lost
  · exact trackless (ringless lost)

theorem canonical_setParameters {s : State} (c : Held) (hs : MemoriesCanonical s) :
    MemoriesCanonical (setParameters c s) := by
  unfold setParameters
  dsimp only
  split
  · exact (same_answer _ _ _).canonical hs
  · have stored := fun p : Params => SameMemories.canonical (s := s) (t := s.setParams p) (by constructor <;> simp) hs
    refine (same_answer _ _ _).canonical ?_
    split
    · exact (same_waitTest _).canonical (canonical_changeEffects _ _ (stored _))
    · exact canonical_changeEffects _ _ (stored _)

theorem canonical_hotStart {s : State} (c : Held) (hs : MemoriesCanonical s) : MemoriesCanonical (hotStart c s) := by
  refine ⟨Memory.rising_mapValues _ _ hs.lanes, rfl, fun _ he => (nomatch he), rfl, fun _ he => (nomatch he), fun bank => ?_, rfl,
    hs.store⟩
  have kept : Memory.rising (Bank.hotStart (s.banks.get bank)).rows = true := by
    unfold Bank.hotStart
    split
    · rfl
    · exact hs.rows bank
  cases bank <;> exact kept

theorem canonical_startScan {s : State} (c : Held) (hs : MemoriesCanonical s) : MemoriesCanonical (startScan c s) := by
  have replied (k : ReplyCode) : MemoriesCanonical (answer k [] s) := (same_answer _ _ _).canonical hs
  unfold startScan
  split
  · exact replied _
  · split
    · exact replied _
    · split
      · split
        · exact (same_retest _).canonical (SameMemories.canonical (by constructor <;> simp) hs)
        · exact replied _
      · exact replied _

theorem same_haltScan (c : Held) (s : State) : SameMemories s (haltScan c s) := by
  unfold haltScan
  split <;> constructor <;> simp

theorem same_clearScan (c : Held) (s : State) : SameMemories s (clearScan c s) := by
  unfold clearScan
  split
  · constructor <;> simp
  · exact (same_clearScanEffect s).trans (same_answer _ _ _)

theorem same_readScan (c : Held) (s : State) : SameMemories s (readScan c s) := by
  unfold readScan
  refine SameMemories.trans ?_ (same_answer _ _ _)
  split
  · constructor <;> simp [Scan.clearCounters]
  · exact .refl s

theorem same_releaseEvent (c : Held) (s : State) : SameMemories s (releaseEvent c s) := by
  have removed : SameMemories s (removeHead s) := by
    unfold removeHead
    split
    · exact .refl s
    · constructor <;> simp
  unfold releaseEvent
  split
  · exact same_answer _ _ s
  · split
    · exact same_answer _ _ s
    · split
      · exact same_answer _ _ s
      · exact removed.trans (same_answer _ _ _)

/-- Every engine command's own handling keeps the canonical form. -/
theorem canonical_commandBody (i : Instr) (c : Held) {s : State} (hs : MemoriesCanonical s) :
    MemoriesCanonical (commandBody i c s) := by
  have same {t : State} (h : SameMemories s t) : MemoriesCanonical t := h.canonical hs
  cases i with
  | setParameters => exact canonical_setParameters c hs
  | loadLaneMap => exact canonical_loadLaneMap c hs
  | setLane => exact canonical_setLane c hs
  | readLane => exact canonical_readLane c hs
  | readLaneChanges => exact (same_answer _ _ _).canonical (canonical_clearMarks _ hs)
  | beginBankLoad => exact canonical_beginBankLoad c hs
  | loadRows => exact canonical_loadRows c hs
  | switchBank => exact canonical_switchBank c hs
  | restart => exact canonical_hotStart c hs
  | startScan => exact canonical_startScan c hs
  | haltScan => exact same (same_haltScan c s)
  | clearScan => exact same (same_clearScan c s)
  | readScan => exact same (same_readScan c s)
  | releaseEvent => exact same (same_releaseEvent c s)
  | _ => exact same (by constructor <;> simp [commandBody])

theorem canonical_reset : MemoriesCanonical State.reset :=
  ⟨rfl, rfl, fun _ he => (nomatch he), rfl, fun _ he => (nomatch he), fun bank => by cases bank <;> rfl, rfl, rfl⟩

/-- Every row keeps the canonical form. -/
theorem canonical_exec {i : Instr} {s t : State} (hs : MemoriesCanonical s) (h : exec i s = .next t) :
    MemoriesCanonical t :=
  exec_keeps (fun u hu => (same_settleLine u).canonical hu) (fun k x => (same_answer k x s).canonical hs) hs
    (canonical_eventBody i hs) (fun c _ _ _ _ => canonical_commandBody i c hs)
    (fun cause _ => SameMemories.canonical (s := State.reset) (by constructor <;> simp [coldStart]) canonical_reset)
    (fun _ => SameMemories.canonical (by constructor <;> simp) hs) h

/-- Settles O56: the tables are canonical after every row, and the passing of a millisecond touches none of them. -/
theorem memoriesStayCanonical : Obligations.MemoriesStayCanonical := by
  intro s t hs h
  unfold step at h
  split at h
  · injection h with h
    subst h
    unfold passMillisecond
    split
    · exact hs
    · exact SameMemories.canonical (by constructor <;> simp) hs
  · exact canonical_exec (SameMemories.canonical (s := s) (by constructor <;> simp) hs) h

end Sys2Proof.Machine
end

