-- ==== Sys2Proof/Proofs/ScanTests.lean ====
section
namespace Sys2Proof.Machine

/-! ## The scan's tests after a change of the lanes (R74, R86) -/

/-! ### A notice flag that stands is not cleared -/

theorem isSet_setFlag_self (f : Flag) (s : State) : (setFlag f s).notice.isSet f = true := isSet_raise_self _ f

theorem isSet_setFlag {f : Flag} (g : Flag) {s : State} (h : s.notice.isSet f = true) :
    (setFlag g s).notice.isSet f = true := isSet_raise g h

theorem isSet_setFlagIf_self {c : Bool} (f : Flag) (s : State) (h : c = true) :
    (setFlagIf c f s).notice.isSet f = true := by
  subst h
  exact isSet_setFlag_self f s

theorem isSet_setFlagIf {c : Bool} {f : Flag} (g : Flag) {s : State} (h : s.notice.isSet f = true) :
    (setFlagIf c g s).notice.isSet f = true := by
  unfold setFlagIf
  split
  · exact isSet_setFlag g h
  · exact h

theorem isSet_waitTestFor {f : Flag} (lane : Nat) {s : State} (h : s.notice.isSet f = true) :
    (waitTestFor lane s).notice.isSet f = true := by
  unfold waitTestFor
  split
  · exact isSet_waitTest h
  · exact h

theorem isSet_beginClose {f : Flag} (reason : CloseReason) (tick : Nat) (boundary : Bool) {s : State}
    (h : s.notice.isSet f = true) : (beginClose reason tick boundary s).notice.isSet f = true := by
  unfold beginClose
  split
  · exact h
  · exact isSet_raise _ h

theorem isSet_cutOpenEvent {f : Flag} (reason : CloseReason) {s : State} (h : s.notice.isSet f = true) :
    (cutOpenEvent reason s).notice.isSet f = true := by
  unfold cutOpenEvent
  split
  · exact h
  · exact isSet_beginClose _ _ _ h
  · exact h

theorem isSet_takeOverrun {f : Flag} {s : State} (h : s.notice.isSet f = true) :
    (takeOverrun s).notice.isSet f = true := by
  unfold takeOverrun
  split
  · exact h
  · split
    · exact h
    · exact isSet_cutOpenEvent _ h

theorem isSet_takeSilence {f : Flag} {s : State} (h : s.notice.isSet f = true) :
    (takeSilence s).notice.isSet f = true := by
  unfold takeSilence
  split
  · exact h
  · exact isSet_cutOpenEvent _ h

theorem isSet_retest {f : Flag} {s : State} (h : s.notice.isSet f = true) : (retest s).notice.isSet f = true := by
  unfold retest fallBehind
  split
  · split
    · dsimp only
      split
      · exact isSet_setFlag _ (isSet_takeOverrun h)
      · exact h
    · exact h
  · exact h

/-! ### What the Detector makes of a cut depends on itself, the queue and the parameters -/

/-- The states `s` and `u` have one Detector, one parameter set and Event Queues of one length. -/
structure SameForCut (s u : State) : Prop where
  det : u.det = s.det
  params : u.params = s.params
  length : u.queue.length = s.queue.length

theorem SameForCut.beginClose_det {s u : State} (h : SameForCut s u) (reason : CloseReason) (tick : Nat) (boundary : Bool) :
    (beginClose reason tick boundary u).det = (beginClose reason tick boundary s).det := by
  simp only [beginClose, discardClose, detValues, h.det, h.params, h.length]
  split <;> simp

theorem SameForCut.takeOverrun_det {s u : State} (h : SameForCut s u) : (takeOverrun u).det = (takeOverrun s).det := by
  simp only [takeOverrun, cutOpenEvent, h.det]
  split
  · rfl
  · split
    · rfl
    · split
      · rfl
      · exact h.beginClose_det _ _ _
      · exact h.det

theorem SameForCut.beginClose_queue {s u : State} (h : SameForCut s u) (hq : u.queue = s.queue) (reason : CloseReason)
    (tick : Nat) (boundary : Bool) :
    (beginClose reason tick boundary u).queue = (beginClose reason tick boundary s).queue := by
  simp only [beginClose, discardClose, h.length]
  split <;> simp [hq]

theorem SameForCut.takeOverrun_queue {s u : State} (h : SameForCut s u) (hq : u.queue = s.queue) :
    (takeOverrun u).queue = (takeOverrun s).queue := by
  simp only [takeOverrun, cutOpenEvent, h.det]
  split
  · exact hq
  · split
    · exact hq
    · split
      · exact hq
      · exact h.beginClose_queue hq _ _ _
      · exact hq

/-! ### The fall-behind test -/

/-- The scan makes its tests: it runs, no tick scan is in flight, and no boundary waits for a close (R74; assumption 12). -/
def ScanTests (s : State) : Prop :=
  (s.scan.state = .running ∨ s.scan.state = .halting) ∧ s.scan.tick = none
    ∧ ∀ c, s.det.closing = some c → c.boundary = false

theorem scanTests_iff (s : State) :
    (scanning s && s.scan.tick.isNone && !boundaryWaits s) = true ↔ ScanTests s := by
  have waits : boundaryWaits s = false ↔ ∀ c, s.det.closing = some c → c.boundary = false := by
    unfold boundaryWaits
    cases s.det.closing <;> simp
  simp only [Bool.and_eq_true, Bool.not_eq_true', waits, and_assoc, scanning, Bool.or_eq_true, beq_iff_eq,
    Option.isNone_iff_eq_none]
  rfl

/-- The margin of the fall-behind test is passed: the cursor stands at `x`, line time at `k` (R86). -/
structure Behind (s : State) (x k : Nat) : Prop where
  tests : ScanTests s
  cursor : s.scan.cursor = some x
  lineTime : s.tracker.lineTime = some k
  passed : x + activeDmax s + (scanValues s).grace + (scanValues s).lagAllowance < k

/-- The jump of a scan that has fallen behind, and what the Detector, told OVERRUN, makes of it (R86, R101). -/
structure Jumped (s t : State) (x k : Nat) : Prop where
  scan : t.scan = { s.scan with
    cursor := some (k - activeDmax s - (scanValues s).grace)
    skippedTicks := satAdd s.scan.skippedTicks (k - activeDmax s - (scanValues s).grace - x) }
  flag : t.notice.isSet .scanOverrun = true
  det : t.det = (takeOverrun s).det
  queue : t.queue = (takeOverrun s).queue

theorem retest_jumps {s : State} {x k : Nat} (h : Behind s x k) : Jumped s (retest s) x k := by
  have passed : x + (activeDmax s + (scanValues s).grace + (scanValues s).lagAllowance) < k := by
    have := h.passed
    omega
  have jump : retest s = jumpCursor x (k - activeDmax s - (scanValues s).grace) s := by
    unfold retest fallBehind
    rw [if_pos ((scanTests_iff s).2 h.tests), h.cursor, h.lineTime]
    exact if_pos passed
  have cut (y : Scan) : SameForCut s (s.setScan y) := ⟨rfl, rfl, rfl⟩
  rw [jump]
  refine ⟨by simp [jumpCursor], isSet_setFlag_self _ _, ?_, ?_⟩
  · rw [jumpCursor, setFlag_det]
    exact (cut _).takeOverrun_det
  · rw [jumpCursor, setFlag_queue]
    exact (cut _).takeOverrun_queue rfl

/-- Without tests, a cursor or line time, or within the margin, the scan's tests change nothing (R74, R86). -/
theorem retest_stays {s : State} (h : ¬ScanTests s ∨ s.scan.cursor = none ∨ s.tracker.lineTime = none
    ∨ ∃ x k, s.scan.cursor = some x ∧ s.tracker.lineTime = some k
        ∧ k ≤ x + activeDmax s + (scanValues s).grace + (scanValues s).lagAllowance) : retest s = s := by
  unfold retest
  split
  · rename_i tests
    unfold fallBehind
    obtain no | cursor | lineTime | ⟨x, k, cursor, lineTime, within⟩ := h
    · exact absurd ((scanTests_iff s).1 tests) no
    · simp [cursor]
    · simp [lineTime]
    · rw [cursor, lineTime]
      exact if_neg (by omega)
  · rfl

/-- The scan's tests find in `u` what they find in `s`, but for line time. -/
structure SameForScan (s u : State) : Prop extends SameForCut s u where
  scan : u.scan = s.scan
  banks : u.banks = s.banks

theorem SameForScan.scanTests {s u : State} (h : SameForScan s u) : ScanTests u ↔ ScanTests s := by
  unfold ScanTests
  rw [h.scan, h.det]

theorem SameForScan.activeDmax {s u : State} (h : SameForScan s u) : activeDmax u = activeDmax s := by
  unfold Machine.activeDmax activeBank
  rw [h.banks]

theorem SameForScan.scanValues {s u : State} (h : SameForScan s u) : scanValues u = scanValues s := by
  unfold Machine.scanValues
  rw [h.scan, h.params]

/-- The jump of the cursor after a change that left the scan, the Detector and the banks of `s` alone (R86, R101). -/
theorem SameForScan.retest_jumps {s u : State} (h : SameForScan s u) {x k : Nat} (tests : ScanTests s)
    (cursor : s.scan.cursor = some x) (lineTime : u.tracker.lineTime = some k)
    (passed : x + Machine.activeDmax s + (Machine.scanValues s).grace + (Machine.scanValues s).lagAllowance < k) :
    (retest u).scan = { s.scan with
        cursor := some (k - Machine.activeDmax s - (Machine.scanValues s).grace)
        skippedTicks :=
          satAdd s.scan.skippedTicks (k - Machine.activeDmax s - (Machine.scanValues s).grace - x) }
      ∧ (retest u).notice.isSet .scanOverrun = true ∧ (retest u).det = (takeOverrun s).det
      ∧ (retest u).queue = (takeOverrun (s.setQueue u.queue)).queue := by
  have behind : Behind u x k :=
    ⟨h.scanTests.2 tests, h.scan ▸ cursor, lineTime, by rw [h.activeDmax, h.scanValues]; exact passed⟩
  have jumped := Machine.retest_jumps behind
  refine ⟨?_, jumped.flag, jumped.det.trans h.takeOverrun_det, jumped.queue.trans ?_⟩
  · rw [jumped.scan, h.scan, h.activeDmax, h.scanValues]
  · exact SameForCut.takeOverrun_queue (s := s.setQueue u.queue) ⟨h.det, h.params, rfl⟩ rfl

/-- No jump of the cursor after such a change. -/
theorem SameForScan.retest_stays {s u : State} (h : SameForScan s u)
    (stays : ¬ScanTests s ∨ s.scan.cursor = none ∨ u.tracker.lineTime = none
      ∨ ∃ x k, s.scan.cursor = some x ∧ u.tracker.lineTime = some k
          ∧ k ≤ x + Machine.activeDmax s + (Machine.scanValues s).grace + (Machine.scanValues s).lagAllowance) :
    retest u = u := by
  rw [← h.scanTests, ← h.activeDmax, ← h.scanValues, ← h.scan] at stays
  exact Machine.retest_stays stays

/-! ### A lane, its ring and its track in states that list the same -/

theorem SameMemories.laneOf {s t : State} (h : SameMemories s t) (lane : Nat) : laneOf t lane = laneOf s lane := by
  unfold Machine.laneOf
  rw [h.lanes]

theorem SameMemories.ringOf {s t : State} (h : SameMemories s t) (lane : Nat) : ringOf t lane = ringOf s lane := by
  unfold Machine.ringOf
  rw [h.rings]

theorem SameMemories.trackOf {s t : State} (h : SameMemories s t) (lane : Nat) : trackOf t lane = trackOf s lane := by
  unfold Machine.trackOf
  rw [h.tracks]

theorem ringOf_setRing (s : State) (lane other : Nat) (r : Ring) :
    ringOf (setRing s lane r) other = if other = lane then r else ringOf s other := Memory.read_write _ _ _ _ _

theorem trackOf_setTrack (s : State) (lane other : Nat) (x : Track) :
    trackOf (setTrack s lane x) other = if other = lane then x else trackOf s other := Memory.read_write _ _ _ _ _

theorem laneOf_updateLane (s : State) (lane other : Nat) (f : Lane → Lane) :
    laneOf (updateLane lane f s) other = if other = lane then (laneOf s other).map f else laneOf s other :=
  Memory.find_modify _ _ _ _

@[simp] theorem laneOf_setTrack (s : State) (lane other : Nat) (x : Track) :
    laneOf (setTrack s lane x) other = laneOf s other := rfl

@[simp] theorem laneOf_setRing (s : State) (lane other : Nat) (r : Ring) :
    laneOf (setRing s lane r) other = laneOf s other := rfl

@[simp] theorem ringOf_setTrack (s : State) (lane other : Nat) (x : Track) :
    ringOf (setTrack s lane x) other = ringOf s other := rfl

@[simp] theorem ringOf_setTracker (s : State) (x : Tracker) (other : Nat) :
    ringOf (s.setTracker x) other = ringOf s other := rfl

@[simp] theorem ringOf_updateLane (s : State) (lane other : Nat) (f : Lane → Lane) :
    ringOf (updateLane lane f s) other = ringOf s other := rfl

@[simp] theorem trackOf_setRing (s : State) (lane other : Nat) (r : Ring) :
    trackOf (setRing s lane r) other = trackOf s other := rfl

@[simp] theorem trackOf_setTracker (s : State) (x : Tracker) (other : Nat) :
    trackOf (s.setTracker x) other = trackOf s other := rfl

@[simp] theorem trackOf_updateLane (s : State) (lane other : Nat) (f : Lane → Lane) :
    trackOf (updateLane lane f s) other = trackOf s other := rfl

theorem sameForTest_answer (k : ReplyCode) (x : Bytes) (s : State) : SameForTest s (answer k x s) :=
  ⟨by simp, by simp, by simp, by simp, by simp, by simp⟩

theorem sameForTest_settleLine (s : State) : SameForTest s (settleLine s) :=
  ⟨by simp, by simp, by simp, by simp, by simp, by simp⟩

theorem sameForTest_retest (s : State) : SameForTest s (retest s) :=
  ⟨by simp, by simp, by simp, by simp, by simp, isSet_retest⟩

theorem SameForTest.trans {s t u : State} (h : SameForTest s t) (k : SameForTest t u) : SameForTest s u :=
  ⟨k.frozen.trans h.frozen, k.lanes.trans h.lanes, k.rings.trans h.rings, k.capture.trans h.capture, k.now.trans h.now,
    fun x => k.ready (h.ready x)⟩

end Sys2Proof.Machine
end

