-- ==== Sys2Proof/Proofs/LaneCommands.lean ====
section
namespace Sys2Proof.Machine

/-! ## LOAD LANE MAP, SET LANE, READ LANE and READ LANE CHANGES (R2 to R6) -/

/-! ### LOAD LANE MAP -/

theorem mapDistinct_cons {x : Nat × LaneEntry × Nat} {xs : List (Nat × LaneEntry × Nat)}
    (h : mapDistinct (x :: xs) = true) : (∀ y ∈ xs, y.1 ≠ x.1) ∧ mapDistinct xs = true := by
  simp only [mapDistinct, Bool.and_eq_true, List.all_eq_true, bne_iff_ne] at h
  exact ⟨fun y hy => (h.1 y hy).1, h.2⟩

/-- The lanes listed one after another over the lanes `m` already listed (R2). -/
def listLanes (m : Memory Lane) (entries : List (Nat × LaneEntry × Nat)) : Memory Lane :=
  entries.foldl (fun m x => Memory.put m x.1 (newLane x.2.1)) m

theorem find_listLanes_of_not (entries : List (Nat × LaneEntry × Nat)) (m : Memory Lane) (lane : Nat)
    (h : ∀ x ∈ entries, x.1 ≠ lane) : Memory.find (listLanes m entries) lane = Memory.find m lane := by
  induction entries generalizing m with
  | nil => rfl
  | cons x xs ih =>
    have later := ih (Memory.put m x.1 (newLane x.2.1)) fun y hy => h y (List.mem_cons_of_mem _ hy)
    rw [Memory.find_put, if_neg (h x (List.mem_cons_self ..)).symm] at later
    exact later

theorem find_listLanes_of_mem (entries : List (Nat × LaneEntry × Nat)) (m : Memory Lane)
    (hd : mapDistinct entries = true) : ∀ x ∈ entries, Memory.find (listLanes m entries) x.1 = some (newLane x.2.1) := by
  induction entries generalizing m with
  | nil => exact fun _ h => (nomatch h)
  | cons x xs ih =>
    obtain ⟨distinct, hd⟩ := mapDistinct_cons hd
    intro y hy
    rcases List.mem_cons.1 hy with rfl | hy
    · exact (find_listLanes_of_not xs _ _ distinct).trans (Memory.find_put_same ..)
    · exact ih _ hd y hy

theorem exec_loadLaneMap {s : State} {c : Held} {rest : List Held} (h : Begins s 0x10 c rest)
    (hf : loadLaneMapFits c = true) (hn : s.notice.frozen = false) :
    exec .loadLaneMap s = .next (settleLine (loadLaneMap c s)) :=
  exec_begins (i := .loadLaneMap) rfl h.toOldest hf (by simp [hn])

/-- The engine after an accepted LOAD LANE MAP: the new map, the wait test, the reply (R2, R126). -/
def mapLoaded (c : Held) (rest : List Held) (s : State) : State :=
  replied .ok [] c rest (waitTest (replaceMap (mapEntries c) s))

theorem mapLoaded_lanes (c : Held) (rest : List Held) (s : State) :
    (mapLoaded c rest s).tracker.lanes = listLanes [] (mapEntries c) := by
  simp [mapLoaded, replied, replaceMap, newMap, listLanes]

theorem mapLoaded_tested (c : Held) (rest : List Held) (s : State) :
    WaitTested (mapLoaded c rest s) s.captures (mapLoaded c rest s).captures := by
  have kept : (replaceMap (mapEntries c) s).captures = s.captures := by simp [State.captures, replaceMap]
  have tested := waitTest_tested (replaceMap (mapEntries c) s)
  have same : SameForTest (waitTest (replaceMap (mapEntries c) s)) (mapLoaded c rest s) := ⟨rfl, rfl, rfl, rfl, rfl, id⟩
  rw [kept] at tested
  exact tested.congr same

/-- Settles O24: the map is built by one listing after another, and the wait test is that of `waitTest_tested`. -/
theorem loadLaneMapReplaces : Obligations.LoadLaneMapReplaces := by
  intro s c rest h hf hn entries accepted
  have answered (k : ReplyCode) : settleLine (answer k [] s) = replied k [] c rest s :=
    settleLine_answer k [] h.held h.toOwnRoom
  rw [exec_loadLaneMap h hf hn]
  refine ⟨fun busy => ?_, fun idle bad => ?_, fun idle ok => ⟨mapLoaded c rest s, ?_, ?_⟩⟩
  · simp only [loadLaneMap, bne_iff_ne, ne_eq, busy, not_false_eq_true, if_true, answered]
  · have refused : (entries.all mapEntryFits && mapDistinct entries) = false := by
      simpa [accepted, Bool.and_eq_false_iff, -List.all_eq_true] using bad
    simp only [loadLaneMap, idle, bne_self_eq_false, Bool.false_eq_true, if_false, refused, answered, entries]
  · have fits : (entries.all mapEntryFits && mapDistinct entries) = true := by simpa [accepted] using ok
    have loaded : loadLaneMap c s = answer .ok [] (waitTest (replaceMap entries s)) := by
      simp only [loadLaneMap, idle, bne_self_eq_false, Bool.false_eq_true, if_false, fits, if_true, entries]
    rw [loaded]
    exact reply_placed .ok [] h (by simp) (by simp) (by simp)
  · have lanes := mapLoaded_lanes c rest s
    refine ⟨rfl, ?_, ?_, ?_, ?_, ?_, ?_, ?_, ?_, ?_, ?_, mapLoaded_tested c rest s, fun lane hn => ?_, fun x hx => ?_⟩
    · simp [mapLoaded, replied, replaceMap, replyFrame, kindReply, encNat, ReplyCode.code]
    iterate 8 · simp [mapLoaded, replied, replaceMap]
    · intro listed
      have flag : (replaceMap entries s).notice.isSet .laneChange = true :=
        isSet_setFlagIf_self _ _ (by simpa using listed)
      exact isSet_waitTest flag
    · rw [laneOf, lanes]
      exact find_listLanes_of_not _ _ _ hn
    · rw [laneOf, lanes]
      exact find_listLanes_of_mem _ _ ok.2 x hx

/-! ### SET LANE -/

theorem exec_setLane {s : State} {c : Held} {rest : List Held} (h : Begins s 0x11 c rest) (hl : c.params.length = 4)
    (hn : s.notice.frozen = false) : exec .setLane s = .next (settleLine (setLane c s)) :=
  exec_begins (i := .setLane) rfl h.toOldest (by simp [paramsFit, fixedBytes, hl]) (by simp [hn])

theorem setLane_of_unmapped {c : Held} {s : State} (h : c.byte 0 < 192) (hl : laneOf s (c.byte 0) = none) :
    setLane c s = answer .notReady [] s := by
  simp [setLane, laneChangeOf, Config.lanes, Nat.not_le.2 h, hl]

theorem setLane_of_same {c : Held} {s : State} {l : Lane} (h : c.byte 0 < 192) (hl : laneOf s (c.byte 0) = some l)
    (hi : l.entry.included = c.yes 3) :
    setLane c s = answer (okOr (laneChangeOf c).clamped) [] (writeEntry (laneChangeOf c) s) := by
  simp [setLane, laneChangeOf, Config.lanes, Nat.not_le.2 h, hl, hi]

theorem setLane_of_change {c : Held} {s : State} {l : Lane} (h : c.byte 0 < 192) (hl : laneOf s (c.byte 0) = some l)
    (hi : l.entry.included ≠ c.yes 3) :
    setLane c s = if s.scan.tick.isSome then s.setCmd { s.cmd with executing := some (.laneChange (laneChangeOf c)) }
      else retest (answer (okOr (laneChangeOf c).clamped) [] (applyLaneChange (laneChangeOf c) s)) := by
  simp [setLane, laneChangeOf, Config.lanes, Nat.not_le.2 h, hl, hi]

/-- Settles O25: each form is one branch of `setLane`, and its reply finds room. -/
theorem setLaneForms : Obligations.SetLaneForms := by
  intro s c rest h hl hn lane weight gain included clamped
  rw [exec_setLane h hl hn]
  refine ⟨fun above => ?_, fun below unmapped => ?_, fun l below mapped same => ?_, fun l below mapped change flight => ?_⟩
  · have refused : setLane c s = answer .badRequest [] s := if_pos above
    rw [refused, settleLine_answer _ _ h.held h.toOwnRoom]
  · rw [setLane_of_unmapped below unmapped, settleLine_answer _ _ h.held h.toOwnRoom]
  · rw [setLane_of_same below mapped same]
    exact reply_placed _ _ h (by simp) (by simp) (by simp)
  · rw [setLane_of_change below mapped change, if_pos flight]
    exact congrArg _ (waiting_begins _ h.held h.noWaiter)

/-! ### A change of INCLUDED -/

/-- The lanes, tracks and rings after a change of INCLUDED, before the flag and the wait test (R4). -/
def changeIncluded (x : LaneChange) (s : State) : State :=
  if x.included then updateLane x.lane (Lane.include x) s
  else setRing (setTrack (updateLane x.lane (Lane.exclude x) s) x.lane .cleared) x.lane .cleared

theorem applyLaneChange_eq (x : LaneChange) (s : State) :
    applyLaneChange x s = waitTestFor x.lane (setFlag .laneChange (changeIncluded x s)) := rfl

theorem same_applyLaneChange (x : LaneChange) (s : State) : SameMemories (changeIncluded x s) (applyLaneChange x s) :=
  (same_setFlag _ _).trans (same_waitTestFor _ _)

/-- What the change of INCLUDED has done to the lanes stands in every state that lists the same. -/
theorem laneChangeApplied {x : LaneChange} {l : Lane} {s t : State} (hl : laneOf s x.lane = some l)
    (h : SameMemories (changeIncluded x s) t) (hf : t.notice.isSet .laneChange = true) : LaneChangeApplied x l s t := by
  refine ⟨hf, fun out => ?_, fun into => ?_, fun lane other => ?_⟩
  · have cleared : changeIncluded x s =
        setRing (setTrack (updateLane x.lane (Lane.exclude x) s) x.lane .cleared) x.lane .cleared := by
      simp [changeIncluded, out]
    have excluded : laneOf (updateLane x.lane (Lane.exclude x) s) x.lane = some (Lane.exclude x l) := by
      rw [laneOf_updateLane, if_pos rfl, hl]
      rfl
    rw [h.trackOf, h.ringOf, h.laneOf, cleared]
    exact ⟨by simp [trackOf_setTrack], by simp [ringOf_setRing], excluded⟩
  · have changed : changeIncluded x s = updateLane x.lane (Lane.include x) s := by simp [changeIncluded, into]
    have included : laneOf (updateLane x.lane (Lane.include x) s) x.lane = some (Lane.include x l) := by
      rw [laneOf_updateLane, if_pos rfl, hl]
      rfl
    rw [h.trackOf, h.ringOf, h.laneOf, changed]
    exact ⟨rfl, rfl, included⟩
  · have lanes (f : Lane → Lane) : laneOf (updateLane x.lane f s) lane = laneOf s lane := by
      rw [laneOf_updateLane, if_neg other]
    rw [h.trackOf, h.ringOf, h.laneOf]
    unfold changeIncluded
    split
    · exact ⟨lanes _, rfl, rfl⟩
    · exact ⟨lanes _, by simp [trackOf_setTrack, other], by simp [ringOf_setRing, other]⟩

theorem applyLaneChange_captures (x : LaneChange) (s : State) :
    (setFlag .laneChange (changeIncluded x s)).captures = s.captures := by
  unfold changeIncluded
  split <;> simp [State.captures]

theorem changeIncluded_queue (x : LaneChange) (s : State) : (changeIncluded x s).queue = s.queue := by
  unfold changeIncluded
  split <;> simp

theorem changeIncluded_scan (x : LaneChange) (s : State) : (changeIncluded x s).scan = s.scan := by
  unfold changeIncluded
  split <;> simp

theorem changeIncluded_lineTime (x : LaneChange) (s : State) :
    (changeIncluded x s).tracker.lineTime = s.tracker.lineTime := by
  unfold changeIncluded
  split <;> rfl

/-- The engine after a SET LANE that has changed INCLUDED, before the line settles: the change with its wait test, the reply, the
scan's tests (R4, R74). -/
def inclusionChanged (x : LaneChange) (s : State) : State :=
  retest (answer (okOr x.clamped) [] (applyLaneChange x s))

theorem same_inclusionChanged (x : LaneChange) (s : State) :
    SameMemories (changeIncluded x s) (settleLine (inclusionChanged x s)) :=
  (((same_applyLaneChange x s).trans (same_answer _ _ _)).trans (same_retest _)).trans (same_settleLine _)

theorem inclusionChanged_tested (x : LaneChange) (s : State) : LaneTested (settleLine (inclusionChanged x s)) x.lane s.captures
    { (settleLine (inclusionChanged x s)).captures with queue := (applyLaneChange x s).queue } := by
  have tested := waitTestFor_tested x.lane (setFlag .laneChange (changeIncluded x s))
  rw [applyLaneChange_captures, ← applyLaneChange_eq] at tested
  have same : SameForTest (applyLaneChange x s) (settleLine (inclusionChanged x s)) :=
    ((sameForTest_answer _ _ _).trans (sameForTest_retest _)).trans (sameForTest_settleLine _)
  have kept : { (settleLine (inclusionChanged x s)).captures with queue := (applyLaneChange x s).queue }
      = (applyLaneChange x s).captures := by simp [State.captures, inclusionChanged]
  rw [kept]
  exact tested.congr same

theorem isSet_inclusionChanged (x : LaneChange) (s : State) :
    (settleLine (inclusionChanged x s)).notice.isSet .laneChange = true := by
  have flag : (applyLaneChange x s).notice.isSet .laneChange = true := isSet_waitTestFor _ (isSet_setFlag_self _ _)
  have answered : (answer (okOr x.clamped) [] (applyLaneChange x s)).notice.isSet .laneChange = true := by simpa using flag
  simpa [inclusionChanged] using isSet_retest answered

theorem replyFrame_okOr (source : Nat) (c : Held) (clamped : Bool) : replyFrame source c (okOr clamped) [] =
    ownFrame 0x31 (encNat 1 source ++ [c.tag, c.code] ++ [if clamped then 1 else 0]) := by
  cases clamped <;> simp [replyFrame, okOr, kindReply, encNat, ReplyCode.code]

theorem answer_of_room {u : State} {c : Held} {rest : List Held} (k : ReplyCode) (x : Bytes) (hh : u.cmd.held = c :: rest)
    (ho : OwnRoom u) : (answer k x u).cmd = { held := rest, executing := none }
      ∧ (answer k x u).line = { u.line with own := u.line.own ++ [replyFrame u.line.source c k x] } := by
  have free : u.line.mayPlace .commandUnit = true := by simp [Line.mayPlace, Line.room, ho.noWaiter, ho.room]
  simp [answer, hh, free, placeReply, ho.noWaiter]

theorem inclusionChanged_replied {x : LaneChange} {s : State} {c : Held} {rest : List Held} (h : Begins s 0x11 c rest) :
    (settleLine (inclusionChanged x s)).cmd = { held := rest, executing := none }
    ∧ (settleLine (inclusionChanged x s)).line = s.line.withOwn (replyFrame s.line.source c (okOr x.clamped) []) := by
  have line : (applyLaneChange x s).line = s.line := by simp
  have held : (applyLaneChange x s).cmd.held = c :: rest := by simpa using h.held
  obtain ⟨cmd, placed⟩ := answer_of_room (u := applyLaneChange x s) (okOr x.clamped) [] held
    ⟨line ▸ h.noWaiter, line ▸ h.room⟩
  have noWaiter : (inclusionChanged x s).line.waiters = [] := by
    rw [inclusionChanged, retest_line, placed, line]
    exact h.noWaiter
  rw [settleLine_of_noWaiter noWaiter]
  refine ⟨by simpa [settled, inclusionChanged] using cmd, ?_⟩
  simp [settled, inclusionChanged, placed, Line.withOwn]

/-- Settles O26: the change of `laneChangeApplied`, then the jump of `retest_jumps` or nothing by `retest_stays`. -/
theorem inclusionChanges : Obligations.InclusionChanges := by
  intro s c rest l h hl hn below hlane notick weight gain included clamped v tests change
  have run : exec .setLane s = .next (settleLine (inclusionChanged (laneChangeOf c) s)) := by
    rw [exec_setLane h hl hn, setLane_of_change below hlane change, notick]
    rfl
  generalize hx : laneChangeOf c = x at run
  have lane : x.lane = c.byte 0 := by rw [← hx]; rfl
  obtain ⟨cmd, line⟩ := inclusionChanged_replied (x := x) h
  have same := same_inclusionChanged x s
  have scan : SameForScan s (answer (okOr x.clamped) [] (applyLaneChange x s)) :=
    ⟨⟨by simp, by simp, by simp [applyLaneChange_eq, changeIncluded_queue]⟩, by simp, by simp⟩
  have lineTime : (answer (okOr x.clamped) [] (applyLaneChange x s)).tracker.lineTime = s.tracker.lineTime := by
    simp [applyLaneChange_eq, changeIncluded_lineTime]
  refine ⟨_, (applyLaneChange x s).queue, run, lane ▸ inclusionChanged_tested x s, fun y k htests hcursor hline passed => ?_,
    fun stays => ?_, cmd, ?_, ?_, ?_, ?_, ?_, ?_⟩
  · obtain ⟨jumped, flag, det, queue⟩ :=
      scan.retest_jumps ⟨htests.1, notick, htests.2⟩ hcursor (lineTime.trans hline) passed
    exact ⟨(settleLine_scan _).trans jumped, by simpa [inclusionChanged] using flag, (settleLine_det _).trans det,
      by simpa [inclusionChanged] using queue⟩
  · have kept : inclusionChanged x s = answer (okOr x.clamped) [] (applyLaneChange x s) := by
      refine scan.retest_stays (stays.imp (fun no htests => no ⟨htests.1, htests.2.2⟩) ?_)
      rw [lineTime]
      exact id
    refine ⟨by simp [kept], by simp [kept], by simp [kept]⟩
  · rw [line, replyFrame_okOr, ← hx]
    rfl
  · have applied := laneChangeApplied (lane ▸ hlane) same (isSet_inclusionChanged x s)
    rw [← hx] at applied ⊢
    exact applied
  · exact same.cutoffs.trans (congrArg Scan.cutoffs (changeIncluded_scan x s))
  · simp [inclusionChanged]
  · simp [inclusionChanged]
  · simpa [inclusionChanged] using lineTime

/-! ### READ LANE and READ LANE CHANGES -/

/-- A lane with its changed mark cleared (R6). -/
def Lane.unmark (l : Lane) : Lane := { l with record := { l.record with changed := false } }

theorem foldl_modify_unmark (keys : List (Nat × Lane)) (m : Memory Lane) :
    keys.foldl (fun m e => Memory.modify m e.1 Lane.unmark) m
      = m.map fun e => if e.1 ∈ keys.map Prod.fst then (e.1, e.2.unmark) else e := by
  induction keys generalizing m with
  | nil => simp
  | cons k ks ih =>
    rw [List.foldl_cons, ih, Memory.modify, List.map_map]
    refine List.map_congr_left fun e _ => ?_
    by_cases first : e.1 = k.1 <;> by_cases later : e.1 ∈ ks.map Prod.fst <;> simp [first, later, Lane.unmark]

theorem clearMarks_eq (lanes : List (Nat × Lane)) (s : State) :
    clearMarks lanes s = s.setTracker { s.tracker with
      lanes := lanes.foldl (fun m e => Memory.modify m e.1 Lane.unmark) s.tracker.lanes } := by
  induction lanes generalizing s with
  | nil => rfl
  | cons e rest ih => exact ih (updateLane e.1 Lane.unmark s)

/-- Settles O27: READ LANE is one branch each of `readLane`, and the marks of READ LANE CHANGES are cleared lane by lane. -/
theorem laneReads : Obligations.LaneReads := by
  refine ⟨fun s c rest h hl => ?_, fun s c rest h hl rising => ?_⟩
  · have run : exec .readLane s = .next (settleLine (readLane c s)) :=
      exec_begins (i := .readLane) rfl h.toOldest (by simp [paramsFit, fixedBytes, hl]) (fun _ => rfl)
    rw [run]
    refine ⟨fun above => ?_, fun below unmapped => ?_, fun l below mapped => ?_⟩
    · have refused : readLane c s = answer .badRequest [] s := if_pos above
      rw [refused, settleLine_answer _ _ h.held h.toOwnRoom]
    · have refused : readLane c s = answer .notReady [] s := by
        simp [readLane, Config.lanes, Nat.not_le.2 below, unmapped]
      rw [refused, settleLine_answer _ _ h.held h.toOwnRoom]
    · have read : readLane c s = answer .ok (laneResult s (c.byte 0) l)
          (if c.yes 1 then updateLane (c.byte 0) Lane.clearCounters s else s) := by
        simp [readLane, Config.lanes, Nat.not_le.2 below, mapped]
      refine ⟨fun keep => ?_, fun clear => ?_⟩
      · rw [read, if_neg (by simp [Held.yes, keep]), settleLine_answer _ _ h.held h.toOwnRoom]
        rfl
      · rw [read, if_pos (by simp [Held.yes, clear])]
        exact reply_placed _ _ h (by simp) (by simp) (by simp)
  · have run : exec .readLaneChanges s = .next (settleLine (readLaneChanges c s)) :=
      exec_begins (i := .readLaneChanges) rfl h.toOldest (by simp [paramsFit, fixedBytes, hl]) (fun _ => rfl)
    intro marked
    rw [run, readLaneChanges, reply_placed _ _ h (by simp) (by simp) (by simp), clearMarks_eq, foldl_modify_unmark]
    rfl

end Sys2Proof.Machine
end

