-- ==== Sys2Proof/Proofs/LaneRecords.lean ====
section
namespace Sys2Proof.Machine

/-! ## The record of a lane over an accepted block (R13 to R20) -/

/-! ### Changes of state -/

@[simp] theorem withState_state (r : LaneRecord) (st : LaneState) : (r.withState st).state = st := by
  unfold LaneRecord.withState
  split
  · assumption
  · rfl

theorem withState_changed (r : LaneRecord) (st : LaneState) :
    (r.withState st).changed = true ↔ r.changed = true ∨ st ≠ r.state := by
  unfold LaneRecord.withState
  split
  · rename_i same
    simp [same]
  · rename_i other
    simp [Ne.symm other]

/-- A change of state touches nothing but the state and the changed mark (R8). -/
theorem withState_eq (r : LaneRecord) (st : LaneState) :
    r.withState st = { r with state := st, changed := (r.withState st).changed } := by
  unfold LaneRecord.withState
  split
  · rename_i same
    rw [← same]
  · rfl

/-! ### The transitions (R18 to R20) -/

/-- A record whose lane is admitted by its run counts (R18, R20). -/
def LaneRecord.Admits (r : LaneRecord) (p : LaneParams) : Prop :=
  (r.state = .acquiring ∧ p.admitCount ≤ r.goodRun ∧ 2 ^ p.ltaShift ≤ r.warmup)
    ∨ (r.state = .muted ∧ p.admitCount ≤ r.goodRun)

/-- A record whose lane is muted by its run counts (R19). -/
def LaneRecord.Mutes (r : LaneRecord) (p : LaneParams) : Prop := r.state = .admitted ∧ p.muteCount ≤ r.badRun

theorem transition_of_admits {r : LaneRecord} {p : LaneParams} (h : r.Admits p) :
    r.transition p = { r.withState .admitted with badRun := 0 } := by
  unfold LaneRecord.transition
  rcases h with ⟨state, runs⟩ | ⟨state, run⟩ <;> simp [*]

theorem transition_of_mutes {r : LaneRecord} {p : LaneParams} (h : r.Mutes p) : r.transition p = r.withState .muted := by
  obtain ⟨state, run⟩ := h
  simp [LaneRecord.transition, state, run]

theorem transition_of_neither {r : LaneRecord} {p : LaneParams} (ha : ¬r.Admits p) (hm : ¬r.Mutes p) :
    r.transition p = r := by
  simp only [LaneRecord.Admits, LaneRecord.Mutes, not_or, not_and] at ha hm
  cases state : r.state <;> simp_all [LaneRecord.transition]

/-- A transition touches nothing but the state, the changed mark and the bad run. -/
theorem transition_eq (r : LaneRecord) (p : LaneParams) : r.transition p =
    { r with state := (r.transition p).state, changed := (r.transition p).changed, badRun := (r.transition p).badRun } := by
  by_cases ha : r.Admits p
  · rw [transition_of_admits ha, withState_eq]
  · by_cases hm : r.Mutes p
    · rw [transition_of_mutes hm, withState_eq]
    · rw [transition_of_neither ha hm]

theorem transition_changed (r : LaneRecord) (p : LaneParams) :
    (r.transition p).changed = true ↔ r.changed = true ∨ (r.transition p).state ≠ r.state := by
  by_cases ha : r.Admits p
  · rw [transition_of_admits ha]
    simpa using withState_changed r .admitted
  · by_cases hm : r.Mutes p
    · rw [transition_of_mutes hm]
      simpa using withState_changed r .muted
    · simp [transition_of_neither ha hm]

/-! ### The gap and the start of acquisition -/

theorem countGap_eq (r : LaneRecord) (gap : Nat) : r.countGap gap = { r with counters := (r.countGap gap).counters } := by
  unfold LaneRecord.countGap
  split <;> rfl

/-- The gap counters after the gap, and the counters that it leaves (R13). -/
theorem countGap_counters (r : LaneRecord) (gap : Nat) : (r.countGap gap).counters = { r.counters with
    gaps := if gap = 0 then r.counters.gaps else satAdd r.counters.gaps 1
    gapSamples := if gap = 0 then r.counters.gapSamples else satAdd r.counters.gapSamples gap } := by
  unfold LaneRecord.countGap
  split <;> rfl

/-- The record as a block is filtered: steps 1 to 3 of R14. -/
def filteredRecord (p : LaneParams) (e : LaneEntry) (r : LaneRecord) (tag : Nat) : LaneRecord :=
  (if r.acquires tag p.maxGap then (r.countGap (r.gap tag)).startAcquisition else r.countGap (r.gap tag)).takeParameters e
    (takenValues p)

/-- Where the block restarts acquisition the lane is ACQUIRING, its run counts at 0; else nothing but the gap counters and the
taken parameters have changed (R13, R15, R29). -/
theorem filteredRecord_eq (p : LaneParams) (e : LaneEntry) (r : LaneRecord) (tag : Nat) : filteredRecord p e r tag =
    { (if r.acquires tag p.maxGap then
        { r.withState .acquiring with goodRun := 0, badRun := 0, warmup := 0 } else r) with
      counters := (r.countGap (r.gap tag)).counters, weightInUse := e.weight, gainInUse := e.gainShift
      taken := some (takenValues p) } := by
  unfold filteredRecord LaneRecord.startAcquisition LaneRecord.takeParameters
  rw [countGap_eq]
  unfold LaneRecord.withState
  split
  · split <;> rfl
  · rfl

/-! ### The whole handling -/

/-- What the CF unit makes of the block `b` (R30, R31, R37). -/
def blockCf (p : LaneParams) (e : LaneEntry) (r : LaneRecord) (b : Block) : CfResult :=
  let xs := (b.samples.map clampSample).map BitVec.toInt
  cfBlock (takenValues p) (filteredRecord p e r b.tag).state e.gainShift
    (blockFilter r (r.acquires b.tag p.maxGap) xs) xs

/-- The record after the run counts of step 6 of R14, before the transitions. -/
def countedRecord (p : LaneParams) (cutoff : Option Nat) (e : LaneEntry) (r : LaneRecord) (b : Block) : LaneRecord :=
  let cf := blockCf p e r b
  let bad := blockBad p b cf.saturations (r.gap b.tag)
  let late := lateCount cutoff (b.tag / p.tickLen) (blockCells p.tickLen cf.values).length
  LaneRecord.countRuns { filteredRecord p e r b.tag with
    filter := some cf.filter
    counters := (filteredRecord p e r b.tag).counters.countBlock cf.saturations late bad } bad

theorem handleBlock_record (p : LaneParams) (timerAt : Nat) (cutoff : Option Nat) (e : LaneEntry) (r : LaneRecord)
    (ring : Ring) (track : Track) (b : Block) : (handleBlock p timerAt cutoff e r ring track b).record =
      { (countedRecord p cutoff e r b).transition p with
        expectedTag := some (count48 (b.tag + 16)), completeThrough := some ((b.tag + 15) / p.tickLen)
        timer := some timerAt } := rfl

theorem handleBlock_ring (p : LaneParams) (timerAt : Nat) (cutoff : Option Nat) (e : LaneEntry) (r : LaneRecord)
    (ring : Ring) (track : Track) (b : Block) : (handleBlock p timerAt cutoff e r ring track b).ring =
      blockRing r b.tag (b.samples.map clampSample) ring := rfl

theorem handleBlock_track (p : LaneParams) (timerAt : Nat) (cutoff : Option Nat) (e : LaneEntry) (r : LaneRecord)
    (ring : Ring) (track : Track) (b : Block) : (handleBlock p timerAt cutoff e r ring track b).track =
      (preparedTrack r (b.tag / p.tickLen) track).writeBlock cutoff (b.tag / p.tickLen)
        (blockCells p.tickLen (blockCf p e r b).values) := rfl

theorem handleBlock_stateChanged (p : LaneParams) (timerAt : Nat) (cutoff : Option Nat) (e : LaneEntry) (r : LaneRecord)
    (ring : Ring) (track : Track) (b : Block) : (handleBlock p timerAt cutoff e r ring track b).stateChanged =
      ((filteredRecord p e r b.tag).state != r.state
        || ((countedRecord p cutoff e r b).transition p).state != (filteredRecord p e r b.tag).state) := rfl

end Sys2Proof.Machine
end

