-- ==== Sys2Proof/Proofs/LaneTracker.lean ====
section
namespace Sys2Proof.Machine

/-! ## SAMPLE frames, accepted blocks and the timers (R9 to R14, R21, R27) -/

theorem trackerStill_iff (s : State) :
    trackerStill s = true ↔ s.notice.frozen = true ∨ s.cmd.executing = some .hotStart := by
  simp [trackerStill, hotStarting]

theorem trackerMoves {s : State} (hf : s.notice.frozen = false) (hh : s.cmd.executing ≠ some .hotStart) :
    trackerStill s = false := by
  simp [trackerStill, hotStarting, hf, hh]

/-! ### SAMPLE_FRAME_PROCESSING -/

theorem exec_sampleFrameProcessing {s : State} (h : s.resetHeld = false) :
    exec .sampleFrameProcessing s = .next (processFrame s) := live_of_free _ _ h

theorem exec_acceptedBlock {s : State} (lane : Nat) (h : s.resetHeld = false) :
    exec (.acceptedBlock lane) s = .next (acceptedBlock lane s) := live_of_free _ _ h

theorem frameFits_iff (rate : Nat) (f : Bytes) : frameFits rate f = true ↔ frameRate f = some rate ∧ frameTag f % 16 = 0
    ∧ 1 ≤ frameChannels f ∧ frameChannels f ≤ 3 ∧ f.length = 20 + 48 * frameChannels f := by
  simp [frameFits, and_assoc]

theorem serves_iff (f : Bytes) (l : Lane) : serves f l = true ↔
    l.entry.station = byteAt f 4 ∧ l.record.state ≠ .excluded ∧ l.entry.channel ≤ frameChannels f := by
  simp [serves, and_assoc]

theorem stale_iff (r : LaneRecord) (tag : Nat) : r.stale tag = true ↔ ∃ e, r.expectedTag = some e ∧ tag < e := by
  simp [LaneRecord.stale, Option.any_eq_true]

/-- The frame taken, where the Lane Tracker handles it (R9, R10). -/
theorem processFrame_of_frame {s : State} {f : Bytes} {rest : List Bytes} (still : trackerStill s = false)
    (hi : s.tracker.inbox = f :: rest) :
    processFrame s = if frameFits s.params.lane.sampleRate f
      then serveFrame f (s.setTracker { s.tracker with inbox := rest })
      else countFormatDrop (s.setTracker { s.tracker with inbox := rest }) := by
  simp [processFrame, still, hi]

/-- A lane after a frame of tag `frameTag f`: a served lane for which it is stale counts it (R12). -/
def countIfStale (f : Bytes) (l : Lane) : Lane := if serves f l && l.record.stale (frameTag f) then l.countStale else l

theorem laneOf_serveFrame (f : Bytes) (s : State) (lane : Nat) :
    laneOf (serveFrame f s) lane = (laneOf s lane).map (countIfStale f) :=
  Memory.find_mapValues s.tracker.lanes (countIfStale f) lane

theorem countIfStale_of {f : Bytes} {l : Lane} (h : serves f l = true ∧ l.record.stale (frameTag f) = true) :
    countIfStale f l = l.countStale := by
  simp [countIfStale, h]

theorem countIfStale_of_not {f : Bytes} {l : Lane} (h : ¬(serves f l = true ∧ l.record.stale (frameTag f) = true)) :
    countIfStale f l = l := by
  simp only [countIfStale, Bool.and_eq_true, if_neg h]

/-! ### ACCEPTED_BLOCK -/

theorem takeFirst_accepts {α : Type} {p : α → Bool} {xs : List α} {x : α} {rest : List α}
    (h : takeFirst p xs = some (x, rest)) : p x = true := by
  induction xs generalizing rest with
  | nil => exact nomatch h
  | cons y ys ih =>
    unfold takeFirst at h
    split at h
    · simp_all
    · obtain ⟨⟨z, zs⟩, later, same⟩ := Option.map_eq_some_iff.1 h
      obtain ⟨rfl, rfl⟩ := Prod.mk.inj same
      exact ih later

theorem acceptedBlock_of_block {s : State} {lane : Nat} {b : Block} {others : List Block} (still : trackerStill s = false)
    (hb : takeFirst (fun x => x.lane == lane) s.tracker.blocks = some (b, others)) :
    b.lane = lane ∧ acceptedBlock lane s = takeBlock b (s.setTracker { s.tracker with blocks := others }) := by
  refine ⟨by simpa using takeFirst_accepts hb, ?_⟩
  simp [acceptedBlock, still, hb]

theorem takeBlock_of_unmapped {b : Block} {s : State} (hl : laneOf s b.lane = none) : takeBlock b s = s := by
  simp [takeBlock, hl]

theorem takeBlock_of_unserved {b : Block} {s : State} {l : Lane} (hl : laneOf s b.lane = some l)
    (hs : stillServed b l = false) : takeBlock b s = s := by
  simp [takeBlock, hl, hs]

theorem takeBlock_of_stale {b : Block} {s : State} {l : Lane} (hl : laneOf s b.lane = some l)
    (hs : stillServed b l = true) (ht : l.record.stale b.tag = true) :
    takeBlock b s = updateLane b.lane Lane.countStale s := by
  simp [takeBlock, hl, hs, ht]

theorem takeBlock_of_accepted {b : Block} {s : State} {l : Lane} (hl : laneOf s b.lane = some l)
    (hs : stillServed b l = true) (ht : l.record.stale b.tag = false) : takeBlock b s = acceptBlock b.lane b l s := by
  simp [takeBlock, hl, hs, ht]

theorem stillServed_iff (b : Block) (l : Lane) : stillServed b l = true ↔
    l.entry.station = b.station ∧ l.entry.channel = b.channel ∧ l.record.state ≠ .excluded := by
  simp [stillServed, and_assoc]

theorem processFrame_idle {s : State}
    (h : s.tracker.inbox = [] ∨ s.notice.frozen = true ∨ s.cmd.executing = some .hotStart) : processFrame s = s := by
  rw [← trackerStill_iff] at h
  unfold processFrame
  split
  · rfl
  · rename_i moves
    rw [h.resolve_right moves]

theorem acceptedBlock_idle {s : State} {lane : Nat} (h : s.notice.frozen = true ∨ s.cmd.executing = some .hotStart
    ∨ takeFirst (fun x => x.lane == lane) s.tracker.blocks = none) : acceptedBlock lane s = s := by
  rw [← or_assoc, ← trackerStill_iff] at h
  unfold acceptedBlock
  split
  · rfl
  · rename_i moves
    rw [h.resolve_left moves]

theorem mem_served_blocks (f : Bytes) (lanes : Memory Lane) (b : Block) :
    b ∈ lanes.filterMap (fun e => if serves f e.2 && !e.2.record.stale (frameTag f) then some (frameBlock f e.1 e.2.entry)
        else none)
      ↔ ∃ e ∈ lanes, serves f e.2 = true ∧ ¬e.2.record.stale (frameTag f) = true ∧ b = frameBlock f e.1 e.2.entry := by
  simp only [List.mem_filterMap, Option.ite_none_right_eq_some, Bool.and_eq_true, Bool.not_eq_true', Bool.not_eq_true,
    Option.some.injEq, and_assoc, @eq_comm _ b]

/-- Settles O28: a frame is served lane by lane, and a block taken is one branch each of `takeBlock`. -/
theorem framesServeLanes : Obligations.FramesServeLanes := by
  refine ⟨fun s live => ?_, fun s lane live => ?_⟩
  · rw [exec_sampleFrameProcessing live]
    refine ⟨fun idle => congrArg _ (processFrame_idle idle), ?_⟩
    intro f rest hi hf hh fits served stale
    have served_stale (l : Lane) : (serves f l = true ∧ l.record.stale (frameTag f) = true) ↔ served l ∧ stale l :=
      and_congr (serves_iff f l) (stale_iff l.record _)
    rw [processFrame_of_frame (trackerMoves hf hh) hi]
    refine ⟨fun bad => ?_, fun good => ?_⟩
    · rw [if_neg (mt (frameFits_iff _ _).1 bad)]
      rfl
    · rw [if_pos ((frameFits_iff _ _).2 good)]
      refine ⟨_, rfl, rfl, rfl, fun lane unmapped => ?_, fun lane l mapped hs => ?_, fun lane l mapped hs => ?_, _, rfl, fun b => ?_⟩
      · exact (laneOf_serveFrame f _ lane).trans (congrArg (Option.map _) unmapped)
      · exact (laneOf_serveFrame f _ lane).trans
          ((congrArg (Option.map _) mapped).trans (congrArg _ (countIfStale_of ((served_stale l).2 hs))))
      · exact (laneOf_serveFrame f _ lane).trans
          ((congrArg (Option.map _) mapped).trans (congrArg _ (countIfStale_of_not (mt (served_stale l).1 hs))))
      · simp only [served, stale, ← serves_iff, ← stale_iff]
        exact mem_served_blocks f s.tracker.lanes b
  · rw [exec_acceptedBlock lane live]
    refine ⟨fun idle => congrArg _ (acceptedBlock_idle idle), fun b others hf hh hb => ?_⟩
    obtain ⟨rfl, taken⟩ := acceptedBlock_of_block (trackerMoves hf hh) hb
    rw [taken]
    refine ⟨fun unmapped => ?_, fun l mapped => ⟨fun lost => ?_, fun e station channel included position before => ?_⟩⟩
    · exact congrArg _ (takeBlock_of_unmapped unmapped)
    · have unserved : stillServed b l = false := by
        rw [← Bool.not_eq_true, stillServed_iff]
        tauto
      exact congrArg _ (takeBlock_of_unserved mapped unserved)
    · exact congrArg _ (takeBlock_of_stale mapped ((stillServed_iff b l).2 ⟨station, channel, included⟩)
        ((stale_iff _ _).2 ⟨e, position, before⟩))

/-! ### What an accepted block leaves -/

theorem count48_of_lt {n : Nat} (h : n < 2 ^ 48) : count48 n = n := if_pos h

/-- The counters of a lane that step 4 of R14 leaves to step 1. -/
theorem countedRecord_counters (p : LaneParams) (cutoff : Option Nat) (e : LaneEntry) (r : LaneRecord) (b : Block) :
    (countedRecord p cutoff e r b).counters.blocksAccepted = satAdd r.counters.blocksAccepted 1
    ∧ (countedRecord p cutoff e r b).counters.staleFrames = r.counters.staleFrames
    ∧ (countedRecord p cutoff e r b).counters.gaps =
        (if r.gap b.tag = 0 then r.counters.gaps else satAdd r.counters.gaps 1)
    ∧ (countedRecord p cutoff e r b).counters.gapSamples =
        (if r.gap b.tag = 0 then r.counters.gapSamples else satAdd r.counters.gapSamples (r.gap b.tag)) := by
  simp [countedRecord, LaneRecord.countRuns, LaneCounters.countBlock, filteredRecord_eq, countGap_counters]

/-- The position, the weight and gain in use, the timer and the counts of a lane after a block (R12 to R14, R21, R23). -/
structure BlockCounted (p : LaneParams) (timerAt : Nat) (e : LaneEntry) (r : LaneRecord) (b : Block) (r' : LaneRecord) :
    Prop where
  expectedTag : r'.expectedTag = some (count48 (b.tag + 16))
  completeThrough : r'.completeThrough = some ((b.tag + 15) / p.tickLen)
  weightInUse : r'.weightInUse = e.weight
  gainInUse : r'.gainInUse = e.gainShift
  timer : r'.timer = some timerAt
  blocksAccepted : r'.counters.blocksAccepted = satAdd r.counters.blocksAccepted 1
  staleFrames : r'.counters.staleFrames = r.counters.staleFrames
  gaps : r'.counters.gaps = (if r.gap b.tag = 0 then r.counters.gaps else satAdd r.counters.gaps 1)
  gapSamples : r'.counters.gapSamples =
    (if r.gap b.tag = 0 then r.counters.gapSamples else satAdd r.counters.gapSamples (r.gap b.tag))

theorem handleBlock_counted (p : LaneParams) (timerAt : Nat) (cutoff : Option Nat) (e : LaneEntry) (r : LaneRecord)
    (ring : Ring) (track : Track) (b : Block) :
    BlockCounted p timerAt e r b (handleBlock p timerAt cutoff e r ring track b).record := by
  obtain ⟨accepted, stale, gaps, samples⟩ := countedRecord_counters p cutoff e r b
  rw [handleBlock_record, transition_eq]
  exact ⟨rfl, rfl, by simp [countedRecord, LaneRecord.countRuns, filteredRecord_eq],
    by simp [countedRecord, LaneRecord.countRuns, filteredRecord_eq], rfl, accepted, stale, gaps, samples⟩

/-- The newest index and the samples of the ring after a block (R24). -/
theorem blockRing_samples (r : LaneRecord) (tag : Nat) (xs : List Sample) (ring : Ring) (hl : xs.length = 16) :
    (blockRing r tag xs ring).newest = some (tag + 15)
    ∧ ∀ i < 16, (blockRing r tag xs ring).readSample (tag + i) = .sample (xs.getD i 0) := by
  have written (prepared : Ring) := Ring.readSample_writeBlock prepared tag xs (by omega) (by rw [hl]; decide)
  unfold blockRing
  obtain ⟨newest, samples, -⟩ := written (if r.expectedTag.isNone then ring.prepare tag
    else ring.markMissing (tag - r.gap tag) (r.gap tag))
  rw [hl] at newest samples
  exact ⟨newest, samples⟩

theorem getD_clampSample (xs : List Sample) (i : Nat) (h : i < xs.length) :
    (xs.map clampSample).getD i 0 = clampSample (xs.getD i 0) := by
  simp [List.getD_eq_getElem?_getD, h]

/-! ### The state after an accepted block -/

/-- The state after the block is stored and LANE_CHANGE set, before the tests (R14, R8). -/
def blockStored (lane : Nat) (b : Block) (l : Lane) (s : State) : State :=
  setFlagIf (blockResult lane b l s).stateChanged .laneChange (storeBlock lane b (blockResult lane b l s) s)

theorem acceptBlock_tested (lane : Nat) (b : Block) (l : Lane) (s : State) : LaneTested (acceptBlock lane b l s) lane
    { s.captures with queue := (retest (blockStored lane b l s)).queue } (acceptBlock lane b l s).captures := by
  have tested := waitTestFor_tested lane (retest (blockStored lane b l s))
  have kept : (retest (blockStored lane b l s)).captures
      = { s.captures with queue := (retest (blockStored lane b l s)).queue } := by
    simp [State.captures, blockStored, storeBlock]
  rw [kept] at tested
  exact tested

theorem same_acceptBlock (lane : Nat) (b : Block) (l : Lane) (s : State) :
    SameMemories (storeBlock lane b (blockResult lane b l s) s) (acceptBlock lane b l s) :=
  ((same_setFlagIf _ _ _).trans (same_retest _)).trans (same_waitTestFor _ _)

/-- The lanes, rings and tracks after the block: those of its handling for its own lane, and no other changed. -/
theorem laneOf_acceptBlock {lane : Nat} {l : Lane} {s : State} (b : Block) (hl : laneOf s lane = some l) (other : Nat) :
    laneOf (acceptBlock lane b l s) other =
      if other = lane then some { l with record := (blockResult lane b l s).record } else laneOf s other := by
  rw [(same_acceptBlock lane b l s).laneOf]
  refine (Memory.find_modify s.tracker.lanes lane other
    fun x => { x with record := (blockResult lane b l s).record }).trans ?_
  split
  · rename_i own
    rw [own]
    exact congrArg (Option.map _) hl
  · rfl

theorem ringOf_acceptBlock (lane : Nat) (b : Block) (l : Lane) (s : State) (other : Nat) :
    ringOf (acceptBlock lane b l s) other = if other = lane then (blockResult lane b l s).ring else ringOf s other := by
  rw [(same_acceptBlock lane b l s).ringOf, storeBlock, ringOf_setTrack, ringOf_setRing, ringOf_setTracker]

theorem trackOf_acceptBlock (lane : Nat) (b : Block) (l : Lane) (s : State) (other : Nat) :
    trackOf (acceptBlock lane b l s) other = if other = lane then (blockResult lane b l s).track else trackOf s other := by
  rw [(same_acceptBlock lane b l s).trackOf, storeBlock, trackOf_setTrack, trackOf_setRing, trackOf_setTracker]

theorem sameForScan_blockStored (lane : Nat) (b : Block) (l : Lane) (s : State) :
    SameForScan s (blockStored lane b l s) :=
  ⟨⟨by simp [blockStored, storeBlock], by simp [blockStored, storeBlock], by simp [blockStored, storeBlock]⟩,
    by simp [blockStored, storeBlock], by simp [blockStored, storeBlock]⟩

theorem lineTime_blockStored (lane : Nat) (b : Block) (l : Lane) (s : State) :
    (blockStored lane b l s).tracker.lineTime
      = raiseLineTime s.tracker.lineTime ((b.tag + 15) / s.params.lane.tickLen) := by
  simp [blockStored, storeBlock, blockTracker]

/-- The Lane Tracker after an accepted block, less its lanes (R26, R27). -/
theorem tracker_acceptBlock (lane : Nat) (b : Block) (l : Lane) (s : State) :
    (acceptBlock lane b l s).tracker = blockTracker lane b (blockResult lane b l s).record s := by
  simp [acceptBlock_eq, storeBlock]

theorem isSet_acceptBlock {lane : Nat} {b : Block} {l : Lane} {s : State} (h : (blockResult lane b l s).stateChanged = true) :
    (acceptBlock lane b l s).notice.isSet .laneChange = true :=
  isSet_waitTestFor lane (isSet_retest (isSet_setFlagIf_self _ _ h))

/-- The scan's tests after a block, left as they stand by the wait test. -/
theorem scan_acceptBlock (lane : Nat) (b : Block) (l : Lane) (s : State) :
    (acceptBlock lane b l s).scan = (retest (blockStored lane b l s)).scan
    ∧ (acceptBlock lane b l s).det = (retest (blockStored lane b l s)).det :=
  ⟨waitTestFor_scan _ _, waitTestFor_det _ _⟩

/-- Settles O29: the block's own handling is stored by `storeBlock`, and the tests that follow it change neither the lanes nor
the rings and tracks. -/
theorem acceptedBlockHandled : Obligations.AcceptedBlockHandled := by
  intro s lane b others l live hf hh hb hl station channel included position length tagBound gap last o now v tests
  obtain ⟨rfl, taken⟩ := acceptedBlock_of_block (trackerMoves hf hh) hb
  generalize hu : s.setTracker { s.tracker with blocks := others } = u at taken
  have fresh : l.record.stale b.tag = false := by
    rw [← Bool.not_eq_true, stale_iff]
    rintro ⟨e, he, lt⟩
    exact absurd (position e he) (by omega)
  have mapped : laneOf u b.lane = some l := by rw [← hu]; exact hl
  have run : exec (.acceptedBlock b.lane) s = .next (acceptBlock b.lane b l u) := by
    rw [exec_acceptedBlock _ live, taken, takeBlock_of_accepted mapped ((stillServed_iff b l).2 ⟨station, channel, included⟩) fresh]
  have handled : blockResult b.lane b l u = o := by rw [← hu]; rfl
  have counted : BlockCounted _ _ _ _ _ o.record := handleBlock_counted ..
  have ring := blockRing_samples l.record b.tag (b.samples.map clampSample) (ringOf s b.lane) (by simpa using length)
  have scan : SameForScan s (blockStored b.lane b l u) := by
    have kept := sameForScan_blockStored b.lane b l u
    rw [← hu] at kept ⊢
    exact ⟨⟨kept.det, kept.params, kept.length⟩, kept.scan, kept.banks⟩
  have lineTime : (blockStored b.lane b l u).tracker.lineTime = some now := by
    rw [lineTime_blockStored, ← hu]
    simp only [now, last]
    cases s.tracker.lineTime <;> simp [raiseLineTime, Nat.max_comm]
  have queueKept : (blockStored b.lane b l u).queue = s.queue := by simp [blockStored, storeBlock, ← hu]
  obtain ⟨hscan, hdet⟩ := scan_acceptBlock b.lane b l u
  have own : ringOf (acceptBlock b.lane b l u) b.lane = o.ring := by rw [ringOf_acceptBlock, if_pos rfl, handled]
  refine ⟨_, { l with record := o.record }, (retest (blockStored b.lane b l u)).queue, run, ?_, ?_, rfl, rfl, own, ?_, ?_,
    fun x htests cursor passed => ?_, fun stays => ?_, ?_, counted.completeThrough, counted.weightInUse, counted.gainInUse,
    counted.timer, counted.blocksAccepted, counted.staleFrames, counted.gaps, counted.gapSamples, ?_, fun k hk => ?_, ?_, ?_, ?_,
    ?_, fun other ho => ?_, ?_, ?_, ?_, ?_, ?_, ?_⟩
  · rw [laneOf_acceptBlock b mapped, if_pos rfl, handled]
  · have tested := acceptBlock_tested b.lane b l u
    rw [← hu] at tested ⊢
    exact tested
  · rw [trackOf_acceptBlock, if_pos rfl, handled]
  · rw [← handled]
    exact isSet_acceptBlock
  · obtain ⟨jumped, flag, det, queue⟩ := scan.retest_jumps htests cursor lineTime passed
    rw [queueKept] at queue
    exact ⟨congrArg Scan.cursor (hscan.trans jumped), isSet_waitTestFor _ flag,
      congrArg Scan.skippedTicks (hscan.trans jumped), hdet.trans det, queue⟩
  · have kept := scan.retest_stays (stays.imp_right (Or.imp_right fun ⟨x, cursor, within⟩ =>
      .inr ⟨x, now, cursor, lineTime, within⟩))
    rw [hscan, hdet, kept]
    exact ⟨scan.scan, scan.det, queueKept⟩
  · rw [counted.expectedTag, count48_of_lt tagBound]
  · rw [own]
    exact ring.1
  · rw [own, ← getD_clampSample _ _ (by omega)]
    exact ring.2 k hk
  · rw [tracker_acceptBlock, ← lineTime, lineTime_blockStored]
    rfl
  · rw [tracker_acceptBlock, ← hu]
    rfl
  · rw [tracker_acceptBlock, ← hu]
    rfl
  · rw [tracker_acceptBlock, ← hu]
    rfl
  · rw [laneOf_acceptBlock b mapped, ringOf_acceptBlock, trackOf_acceptBlock, if_neg ho, if_neg ho, if_neg ho, ← hu]
    exact ⟨rfl, rfl, rfl⟩
  iterate 5 · simp [← hu]
  · rw [(same_acceptBlock b.lane b l u).cutoffs, ← hu]
    rfl

end Sys2Proof.Machine
end

