-- ==== Sys2Proof/Proofs/LaneTimers.lean ====
section
namespace Sys2Proof.Machine

/-! ## The lane timers and the line-silence timer (R21, R27) -/

theorem exec_laneTimerExpiry {s : State} (lane : Nat) (h : s.resetHeld = false) :
    exec (.laneTimerExpiry lane) s = .next (laneTimerExpiry lane s) := live_of_free _ _ h

theorem exec_lineSilenceExpiry {s : State} (h : s.resetHeld = false) :
    exec .lineSilenceExpiry s = .next (lineSilenceExpiry s) := live_of_free _ _ h

/-! ### The expiry of a lane timer -/

/-- A lost lane (R21): ABSENT, with no position, no run counts and no filter; the change of state sets its changed mark (R8). -/
theorem lose_eq (r : LaneRecord) : r.lose = { r with
    state := .absent, changed := r.changed || r.state != .absent, expectedTag := none, completeThrough := none, goodRun := 0
    badRun := 0, warmup := 0, timer := none, filter := none } := by
  unfold LaneRecord.lose LaneRecord.withState
  split
  · rename_i absent
    simp [absent]
  · rename_i present
    simp [present]

/-- The state in which the tests follow the expiry `e` of the timer of the lane `l` (R21, R8). -/
def laneExpired (lane : Nat) (l : Lane) (e : Nat) (s : State) : State :=
  setFlagIf (l.record.state != .absent) .laneChange
    (updateLane lane (fun x => { x with record := x.record.lose }) (s.setNow (max s.now e)))

theorem laneTimerExpiry_of_timer {lane : Nat} {s : State} {l : Lane} {e : Nat} (still : trackerStill s = false)
    (hl : laneOf s lane = some l) (ht : l.record.timer = some e) :
    laneTimerExpiry lane s = waitTestFor lane (retest (laneExpired lane l e s)) := by
  simp [laneTimerExpiry, still, hl, ht, laneExpired]

theorem laneTimerExpiry_idle {lane : Nat} {s : State} (h : s.notice.frozen = true ∨ s.cmd.executing = some .hotStart
    ∨ laneOf s lane = none ∨ ∃ l, laneOf s lane = some l ∧ l.record.timer = none) : laneTimerExpiry lane s = s := by
  rw [← or_assoc, ← trackerStill_iff] at h
  unfold laneTimerExpiry
  split
  · rfl
  · rename_i moves
    obtain unmapped | ⟨l, mapped, stopped⟩ := h.resolve_left moves
    · rw [unmapped]
    · simp [mapped, stopped]

theorem sameForScan_laneExpired (lane : Nat) (l : Lane) (e : Nat) (s : State) : SameForScan s (laneExpired lane l e s) :=
  ⟨⟨by simp [laneExpired], by simp [laneExpired], by simp [laneExpired]⟩, by simp [laneExpired], by simp [laneExpired]⟩

theorem laneExpired_tested (lane : Nat) (l : Lane) (e : Nat) (s : State) :
    LaneTested (waitTestFor lane (retest (laneExpired lane l e s))) lane
      { s.captures with queue := (retest (laneExpired lane l e s)).queue }
      (waitTestFor lane (retest (laneExpired lane l e s))).captures := by
  have tested := waitTestFor_tested lane (retest (laneExpired lane l e s))
  have kept : (retest (laneExpired lane l e s)).captures
      = { s.captures with queue := (retest (laneExpired lane l e s)).queue } := by
    simp [State.captures, laneExpired]
  rw [kept] at tested
  exact tested

theorem lanes_laneExpired (lane : Nat) (l : Lane) (e : Nat) (s : State) :
    (waitTestFor lane (retest (laneExpired lane l e s))).tracker.lanes
      = Memory.modify s.tracker.lanes lane fun x => { x with record := x.record.lose } := by
  simp [laneExpired, updateLane]

theorem laneOf_laneExpired (lane other : Nat) (l : Lane) (e : Nat) (s : State) :
    laneOf (waitTestFor lane (retest (laneExpired lane l e s))) other =
      if other = lane then (laneOf s other).map fun x => { x with record := x.record.lose } else laneOf s other := by
  rw [laneOf, lanes_laneExpired]
  exact Memory.find_modify _ _ _ _

/-- A lost lane keeps no tick from being complete (R75). -/
theorem complete_of_lost {s t : State} {lane x : Nat}
    (lanes : t.tracker.lanes = Memory.modify s.tracker.lanes lane fun x => { x with record := x.record.lose })
    (banks : t.banks = s.banks)
    (others : ∀ e ∈ s.tracker.lanes, e.1 ≠ lane → e.2.record.state = .admitted → 0 < e.2.record.weightInUse →
      ∃ k, e.2.record.completeThrough = some k ∧ x + activeDmax s ≤ k) : complete t x = true := by
  have dmax : activeDmax t = activeDmax s := by simp [activeDmax, activeBank, banks]
  unfold complete
  rw [lanes, List.all_eq_true]
  intro e he
  obtain ⟨f, hf, rfl⟩ := List.mem_map.1 he
  by_cases own : f.1 = lane
  · simp [own, LaneRecord.contributes, lose_eq]
  · rw [if_neg own]
    by_cases contributes : f.2.record.contributes = true
    · have active := contributes
      simp only [LaneRecord.contributes, Bool.and_eq_true, beq_iff_eq, decide_eq_true_eq] at active
      obtain ⟨k, through, reached⟩ := others f hf own active.1 active.2
      simp [laneDelivered, through, dmax, reached]
    · simp [contributes]

/-! ### The expiry of the line-silence timer -/

/-- The state in which the Detector is told SILENCE, the line-silence timer having expired at `e` (R27). -/
def lineSilent (e : Nat) (s : State) : State :=
  setFlag .lineSilent ((s.setNow (max s.now e)).setTracker { s.tracker with silenceTimer := none })

theorem lineSilenceExpiry_of_timer {s : State} {e : Nat} (still : trackerStill s = false)
    (ht : s.tracker.silenceTimer = some e) : lineSilenceExpiry s = takeSilence (lineSilent e s) := by
  simp [lineSilenceExpiry, still, ht, lineSilent]

theorem lineSilenceExpiry_idle {s : State} (h : s.notice.frozen = true ∨ s.cmd.executing = some .hotStart
    ∨ s.tracker.silenceTimer = none) : lineSilenceExpiry s = s := by
  rw [← or_assoc, ← trackerStill_iff] at h
  unfold lineSilenceExpiry
  split
  · rfl
  · rename_i moves
    rw [h.resolve_left moves]

/-- SILENCE finds nothing to cut (R102). -/
theorem takeSilence_of_resting {s : State}
    (h : s.det.state = .quiet ∨ s.det.state = .holdoff ∨ s.det.closing.isSome = true) : takeSilence s = s := by
  unfold takeSilence cutOpenEvent
  rcases h with quiet | holdoff | closes <;> simp [*]

theorem takeSilence_of_onset {s : State} (hs : s.det.state = .onset) (hc : s.det.closing = none) :
    takeSilence s = s.setDet s.det.abortOnset := by
  simp [takeSilence, cutOpenEvent, hs, hc]

theorem takeSilence_of_declared {s : State} {run : Running} (hs : s.det.state = .declared) (hr : s.det.running = some run)
    (hc : s.det.closing = none) : takeSilence s = beginClose .silence run.lastTick false s := by
  simp [takeSilence, cutOpenEvent, hs, hr, hc]

theorem markOverflow_append (others : List EventRecord) (last : EventRecord) :
    markOverflow (others ++ [last]) = others ++ [{ last with overflowFollows := true }] := by
  induction others with
  | nil => rfl
  | cons r rest ih =>
    cases rest with
    | nil => rfl
    | cons q rest => exact congrArg (r :: ·) ih

/-- Settles O32: each expiry changes its own record, and the scan's tests, the wait test or the Detector follow. -/
theorem timersExpire : Obligations.TimersExpire := by
  refine ⟨fun s lane live => ?_, fun s live => ?_⟩
  · rw [exec_laneTimerExpiry lane live]
    refine ⟨fun idle => congrArg _ (laneTimerExpiry_idle idle), ?_⟩
    intro l e hf hh hl ht v tests
    have scan := sameForScan_laneExpired lane l e s
    have lineTime : (laneExpired lane l e s).tracker.lineTime = s.tracker.lineTime := by simp [laneExpired, updateLane]
    have queueKept : (laneExpired lane l e s).queue = s.queue := by simp [laneExpired]
    rw [laneTimerExpiry_of_timer (trackerMoves hf hh) hl ht]
    refine ⟨_, (retest (laneExpired lane l e s)).queue, rfl, laneExpired_tested lane l e s, ?_, fun present => ?_,
      fun other ho => ?_, ?_, ?_, ?_, ?_, ?_, ?_, ?_, ?_, ?_, fun x k htests cursor line passed => ?_, fun stays => ?_,
      fun x others => ?_⟩
    · rw [laneOf_laneExpired, if_pos rfl, hl, Option.map_some, lose_eq]
    · exact isSet_waitTestFor _ (isSet_retest (isSet_setFlagIf_self _ _ (by simpa using present)))
    · rw [laneOf_laneExpired, if_neg ho]
    iterate 9 · simp [laneExpired, updateLane]
    · obtain ⟨jumped, flag, det, queue⟩ := scan.retest_jumps htests cursor (lineTime.trans line) passed
      rw [queueKept] at queue
      exact ⟨(waitTestFor_scan _ _).trans jumped, isSet_waitTestFor _ flag, (waitTestFor_det _ _).trans det, queue⟩
    · have kept := scan.retest_stays (by rw [lineTime]; exact stays)
      rw [waitTestFor_scan, waitTestFor_det, kept]
      exact ⟨scan.scan, scan.det, queueKept⟩
    · exact complete_of_lost (lanes_laneExpired lane l e s) (by simp [laneExpired]) others
  · rw [exec_lineSilenceExpiry live]
    refine ⟨fun idle => congrArg _ (lineSilenceExpiry_idle idle), ?_⟩
    intro e hf hh ht d
    rw [lineSilenceExpiry_of_timer (trackerMoves hf hh) ht]
    have det : (lineSilent e s).det = s.det := by simp [lineSilent]
    have queue : (lineSilent e s).queue = s.queue := by simp [lineSilent]
    refine ⟨_, rfl, isSet_takeSilence (isSet_setFlag_self _ _), ?_, ?_, ?_, ?_, ?_, ?_, ?_, ?_, fun resting => ?_,
      fun onset closes => ?_, fun run declared running closes => ⟨fun room => ?_, fun others last full count => ?_⟩⟩
    iterate 8 · simp [lineSilent]
    · rw [takeSilence_of_resting (by rwa [det])]
      exact ⟨det, queue⟩
    · rw [takeSilence_of_onset (by rwa [det]) (by rwa [det])]
      exact ⟨queue, by rw [State.det_setDet, det]; rfl⟩
    · have begun : beginClose .silence run.lastTick false (lineSilent e s) = _ := if_pos (by rwa [queue])
      rw [takeSilence_of_declared (run := run) (by rwa [det]) (by rwa [det]) (by rwa [det]), begun]
      exact ⟨queue, by simp [lineSilent, detValues, d]⟩
    · have discarded : beginClose .silence run.lastTick false (lineSilent e s) = discardClose (lineSilent e s) :=
        if_neg (by simp [queue, full, count, Config.queueDepth])
      rw [takeSilence_of_declared (run := run) (by rwa [det]) (by rwa [det]) (by rwa [det]), discarded]
      refine ⟨?_, isSet_setFlag_self _ _, ?_⟩
      · rw [discardClose, setFlag_queue, State.queue_setQueue, queue, full, markOverflow_append]
      · simp [discardClose, lineSilent, detValues, Detector.afterClose, d]

end Sys2Proof.Machine
end

