-- ==== Sys2Proof/Proofs/BlockMoves.lean ====
section
namespace Sys2Proof.Machine

/-! ## What an accepted block does to the record, the ring and the track (R15 to R20, R24, R25, R38 to R43) -/

/-! ### Classification and run counts -/

theorem acquires_eq (r : LaneRecord) (tag maxGap : Nat) :
    r.acquires tag maxGap = decide (r.expectedTag = none ∨ maxGap < r.gap tag) := by
  rw [Bool.eq_iff_iff]
  simp [LaneRecord.acquires]

theorem blockBad_eq (p : LaneParams) (b : Block) (saturations gap : Nat) : blockBad p b saturations gap =
    decide ((b.quality ≠ 0 ∧ ¬(b.quality = 1 ∧ b.holdoverAge ≤ p.holdoverLimit)) ∨ p.clipLimit < b.clips + saturations
      ∨ 0 < gap) := by
  rw [Bool.eq_iff_iff]
  simp [blockBad, qualityLocked, qualityHoldover, or_assoc]

/-- The state in which a block is filtered (R15). -/
theorem filteredRecord_state (p : LaneParams) (e : LaneEntry) (r : LaneRecord) (tag : Nat) :
    (filteredRecord p e r tag).state = if r.acquires tag p.maxGap then .acquiring else r.state := by
  rw [filteredRecord_eq]
  split <;> simp

theorem filteredRecord_changed (p : LaneParams) (e : LaneEntry) (r : LaneRecord) (tag : Nat) :
    (filteredRecord p e r tag).changed = true ↔ r.changed = true ∨ (filteredRecord p e r tag).state ≠ r.state := by
  rw [filteredRecord_state, filteredRecord_eq]
  split
  · simpa using withState_changed r .acquiring
  · simp

/-- The run counts of steps 2 and 6 of R14, `bad` the class of the block and `st` the state in which it is filtered (R17). -/
theorem countedRecord_runs (p : LaneParams) (cutoff : Option Nat) (e : LaneEntry) (r : LaneRecord) (b : Block)
    {bad restart : Bool} {st : LaneState} (hbad : blockBad p b (blockCf p e r b).saturations (r.gap b.tag) = bad)
    (hrestart : r.acquires b.tag p.maxGap = restart) (hst : (filteredRecord p e r b.tag).state = st) :
    (countedRecord p cutoff e r b).goodRun = (if bad then 0 else min 63 ((if restart then 0 else r.goodRun) + 1))
    ∧ (countedRecord p cutoff e r b).warmup = min 65536 ((if restart then 0 else r.warmup) + 16)
    ∧ (countedRecord p cutoff e r b).badRun = (if st = .admitted then (if bad then min 15 (r.badRun + 1) else 0)
        else if restart then 0 else r.badRun) := by
  rw [filteredRecord_state, hrestart] at hst
  subst hst
  simp only [countedRecord, LaneRecord.countRuns, hbad, filteredRecord_eq, hrestart]
  cases restart <;> simp

/-- The counters that steps 4 and 5 of R14 move with the block's class and the CF unit's saturations (R23). -/
theorem countedRecord_classCounters (p : LaneParams) (cutoff : Option Nat) (e : LaneEntry) (r : LaneRecord) (b : Block)
    {bad : Bool} (hbad : blockBad p b (blockCf p e r b).saturations (r.gap b.tag) = bad) :
    (countedRecord p cutoff e r b).counters.badBlocks = (if bad then satAdd r.counters.badBlocks 1 else r.counters.badBlocks)
    ∧ (countedRecord p cutoff e r b).counters.clippedSamples
        = satAdd r.counters.clippedSamples (blockCf p e r b).saturations
    ∧ (countedRecord p cutoff e r b).counters.lateCells = satAdd r.counters.lateCells
        (lateCount cutoff (b.tag / p.tickLen) (blockCells p.tickLen (blockCf p e r b).values).length) := by
  simp [countedRecord, LaneRecord.countRuns, LaneCounters.countBlock, hbad, filteredRecord_eq, countGap_counters]

/-- What the transitions of step 6 of R14 make of the counted record, and what they leave. -/
theorem handleBlock_transition (p : LaneParams) (timerAt : Nat) (cutoff : Option Nat) (e : LaneEntry) (r : LaneRecord)
    (ring : Ring) (track : Track) (b : Block) :
    let counted := countedRecord p cutoff e r b
    let o := (handleBlock p timerAt cutoff e r ring track b).record
    o.goodRun = counted.goodRun ∧ o.warmup = counted.warmup ∧ o.filter = some (blockCf p e r b).filter
    ∧ o.counters = counted.counters
    ∧ (counted.Admits p → o.state = .admitted ∧ o.badRun = 0)
    ∧ (¬counted.Admits p → o.badRun = counted.badRun)
    ∧ (counted.Mutes p → o.state = .muted)
    ∧ (¬counted.Admits p → ¬counted.Mutes p → o.state = counted.state)
    ∧ (o.changed = true ↔ counted.changed = true ∨ o.state ≠ counted.state) := by
  intro counted o
  have record : o = { counted.transition p with
      expectedTag := o.expectedTag, completeThrough := o.completeThrough, timer := o.timer } :=
    handleBlock_record p timerAt cutoff e r ring track b
  rw [record]
  refine ⟨?_, ?_, ?_, ?_, fun ha => ?_, fun ha => ?_, fun hm => ?_, fun ha hm => ?_, transition_changed counted p⟩
  · rw [transition_eq]
  · rw [transition_eq]
  · rw [transition_eq]
    rfl
  · rw [transition_eq]
  · rw [transition_of_admits ha]
    exact ⟨withState_state counted .admitted, rfl⟩
  · by_cases hm : counted.Mutes p
    · rw [transition_of_mutes hm, withState_eq]
    · rw [transition_of_neither ha hm]
  · rw [transition_of_mutes hm]
    exact withState_state counted .muted
  · rw [transition_of_neither ha hm]

theorem countedRecord_state (p : LaneParams) (cutoff : Option Nat) (e : LaneEntry) (r : LaneRecord) (b : Block) :
    (countedRecord p cutoff e r b).state = (filteredRecord p e r b.tag).state := rfl

theorem countedRecord_changed (p : LaneParams) (cutoff : Option Nat) (e : LaneEntry) (r : LaneRecord) (b : Block) :
    (countedRecord p cutoff e r b).changed = (filteredRecord p e r b.tag).changed := rfl

/-! ### The ring -/

theorem blockRing_of_expected {r : LaneRecord} {tag x : Nat} (xs : List Sample) (ring : Ring)
    (hx : r.expectedTag = some x) (position : x ≤ tag) :
    blockRing r tag xs ring = (ring.markMissing x (tag - x)).writeBlock tag xs := by
  simp [blockRing, LaneRecord.gap, hx, Nat.sub_sub_self position]

/-- A history whose newest index is before a first block is kept, the indices between missing (R25). -/
theorem blockRing_of_forward {r : LaneRecord} {tag n : Nat} (xs : List Sample) {ring : Ring} (hr : r.expectedTag = none)
    (hn : ring.newest = some n) (forward : n < tag) :
    blockRing r tag xs ring = (ring.markMissing (n + 1) (tag - (n + 1))).writeBlock tag xs := by
  simp [blockRing, Ring.prepare, hr, hn, forward, Nat.sub_sub]

/-- A history that a first block is not above is cleared, as it is where there is none (R25). -/
theorem blockRing_of_clear {r : LaneRecord} {tag : Nat} (xs : List Sample) {ring : Ring} (hr : r.expectedTag = none)
    (hc : ring = Ring.cleared ∨ ∃ n, ring.newest = some n ∧ tag ≤ n) :
    blockRing r tag xs ring = Ring.cleared.writeBlock tag xs := by
  rcases hc with rfl | ⟨n, hn, back⟩
  · simp [blockRing, Ring.prepare, Ring.cleared, hr]
  · simp [blockRing, Ring.prepare, hr, hn, Nat.not_lt.2 back]

/-- Before the first block of a cleared ring every index is missing (R25). -/
theorem readSample_cleared_writeBlock (tag : Nat) (xs : List Sample) (h1 : 1 ≤ xs.length)
    (hl : xs.length ≤ Config.ringDepth) {i : Nat} (hi : i < tag) (hw : tag + xs.length ≤ i + Config.ringDepth) :
    (Ring.cleared.writeBlock tag xs).readSample i = .missing :=
  (Ring.readSample_writeBlock Ring.cleared tag xs h1 hl).2.2.2.2 i hi hw

/-- Before a block, the ring answers missing from the gap on, or from the newest index of a kept history on, and what it
answered on the indices before (R24, R25). -/
theorem blockRing_before {r : LaneRecord} {tag : Nat} {xs : List Sample} {ring : Ring} (h1 : 1 ≤ xs.length)
    (hl : xs.length ≤ Config.ringDepth) (position : ∀ x, r.expectedTag = some x → x ≤ tag) {i : Nat} (hi : i < tag)
    (hw : tag + xs.length ≤ i + Config.ringDepth) :
    (∀ x, r.expectedTag = some x → x ≤ i → (blockRing r tag xs ring).readSample i = .missing)
    ∧ (∀ n, r.expectedTag = none → ring.newest = some n → n < i ∨ tag ≤ n →
        (blockRing r tag xs ring).readSample i = .missing)
    ∧ (r.expectedTag = none → ring = Ring.cleared → (blockRing r tag xs ring).readSample i = .missing)
    ∧ ∀ n, ring.newest = some n → n < tag → i ≤ n → (∀ x, r.expectedTag = some x → i < x) →
        (blockRing r tag xs ring).readSample i = ring.readSample i := by
  have marked (start : Nat) (hs : start ≤ tag) := Ring.readSample_markMissing_writeBlock ring start tag xs h1 hl hs i hi hw
  have cleared := readSample_cleared_writeBlock tag xs h1 hl hi hw
  refine ⟨fun x hx gap => ?_, fun n hr hn away => ?_, fun hr hc => ?_, fun n hn forward old before => ?_⟩
  · rw [blockRing_of_expected xs ring hx (position x hx)]
    exact (marked x (position x hx)).1 gap
  · by_cases forward : n < tag
    · rw [blockRing_of_forward xs hr hn forward]
      exact (marked (n + 1) forward).1 (away.resolve_right (Nat.not_le.2 forward))
    · rw [blockRing_of_clear xs hr (.inr ⟨n, hn, Nat.not_lt.1 forward⟩)]
      exact cleared
  · rw [blockRing_of_clear xs hr (.inl hc)]
    exact cleared
  · cases hx : r.expectedTag with
    | some x =>
      rw [blockRing_of_expected xs ring hx (position x hx)]
      exact (marked x (position x hx)).2 n (before x hx) hn old forward
    | none =>
      rw [blockRing_of_forward xs hx hn forward]
      exact (marked (n + 1) forward).2 n (Nat.lt_succ_of_le old) hn old forward

/-- Beyond a block the ring has received nothing, and what left its depth is older (R24). -/
theorem blockRing_outside (r : LaneRecord) (tag : Nat) {xs : List Sample} (ring : Ring) (h1 : 1 ≤ xs.length)
    (hl : xs.length ≤ Config.ringDepth) :
    (∀ i, tag + xs.length ≤ i → (blockRing r tag xs ring).readSample i = .notReceived)
    ∧ ∀ i, i + Config.ringDepth < tag + xs.length → (blockRing r tag xs ring).readSample i = .older := by
  obtain ⟨-, -, later, older, -⟩ := Ring.readSample_writeBlock
    (if r.expectedTag.isNone then ring.prepare tag else ring.markMissing (tag - r.gap tag) (r.gap tag)) tag xs h1 hl
  exact ⟨later, older⟩

/-! ### The track -/

theorem preparedTrack_eq (r : LaneRecord) (k0 : Nat) (t : Track) : preparedTrack r k0 t =
    if r.expectedTag = none ∧ (∃ n, t.newest = some n ∧ k0 ≤ n) then Track.cleared else t := by
  simp [preparedTrack, Option.any_eq_true]

/-- Before the first block of a cleared track every tick is absent (R41, R44). -/
theorem readCell_cleared_writeBlock (cutoff : Option Nat) {k0 : Nat} {cells : List Nat} (hl : cells.length ≤ Config.trackDepth)
    {u : Nat} (hu : u < k0) : (Track.cleared.writeBlock cutoff k0 cells).readCell u = .absent := by
  by_cases held : holds Config.trackDepth (Track.cleared.writeBlock cutoff k0 cells).newest u = true
  · have within : k0 + cells.length - 1 < u + Config.trackDepth := by
      simp only [Track.writeBlock, holds, Bool.and_eq_true, decide_eq_true_eq] at held
      exact held.2
    have unwritten (i : Nat) (hi : i < cells.length) (same : (k0 + i) % Config.trackDepth = u % Config.trackDepth) :
        cutoff.all (· < k0 + i) = false := by
      have := eq_of_mod_eq same.symm (by omega) (by omega)
      omega
    have erased (start n : Nat) : Memory.eraseRun ([] : Memory TrackCell) Config.trackDepth start n = [] := by
      simp [Memory.eraseRun, Memory.eraseWhere]
    have word : Memory.read TrackCell.absent (Track.cleared.writeBlock cutoff k0 cells).cells (u % Config.trackDepth)
        = TrackCell.absent := by
      unfold Track.writeBlock
      rw [read_writeCells_of_not cutoff cells _ k0 u unwritten, Track.cleared, erased]
      rfl
    exact Track.readCell_of_holds held word
  · exact Track.readCell_of_not_holds held

/-- What a track answers after a block above its newest tick: the block's cells but the late ones, absent from the newest tick
to the block and beyond it, and on the older ticks what it answered, as far as its depth reaches (R40, R41, R43). -/
theorem readCell_writeBlock_late (t : Track) (cutoff : Option Nat) (k0 : Nat) {cells : List Nat} (h1 : 1 ≤ cells.length)
    (hl : cells.length ≤ Config.trackDepth) (forward : ∀ n, t.newest = some n → n < k0) :
    (∀ i < cells.length, (t.writeBlock cutoff k0 cells).readCell (k0 + i) =
      if cutoff.any (fun u => k0 + i ≤ u) then .absent else .value (cells.getD i 0))
    ∧ (∀ u, k0 + cells.length ≤ u → (t.writeBlock cutoff k0 cells).readCell u = .absent)
    ∧ (∀ u, t = Track.cleared → u < k0 → (t.writeBlock cutoff k0 cells).readCell u = .absent)
    ∧ ∀ n, t.newest = some n →
      (∀ u, n < u → u < k0 → (t.writeBlock cutoff k0 cells).readCell u = .absent)
      ∧ ∀ u, u ≤ n → (t.writeBlock cutoff k0 cells).readCell u =
          if k0 + cells.length ≤ u + Config.trackDepth then t.readCell u else .absent := by
  obtain ⟨-, written, fresh, old⟩ := Track.readCell_writeBlock t cutoff k0 cells h1 hl forward
  have above (i : Nat) : cutoff.all (· < k0 + i) = !cutoff.any (fun u => k0 + i ≤ u) := by
    cases cutoff with
    | none => rfl
    | some c => simp [← decide_not]
  have firstNew : t.firstNew k0 ≤ k0 := by
    unfold Track.firstNew
    split
    · exact le_rfl
    · exact forward _ ‹_›
  refine ⟨fun i hi => ?_, fun u hu => ?_, fun u hc hu => ?_, fun n hn => ⟨fun u hnu hu => ?_, fun u hu => old n u hn hu⟩⟩
  · split
    · rename_i late
      refine fresh _ (by omega) fun j hj same => ?_
      rw [above, ← same, late]
      rfl
    · rename_i onTime
      exact written i hi (by simp [above, onTime])
  · exact fresh u (by omega) fun j hj same => absurd same (by omega)
  · rw [hc]
    exact readCell_cleared_writeBlock cutoff hl hu
  · have first : t.firstNew k0 = n + 1 := by simp [Track.firstNew, hn]
    exact fresh u (by omega) fun j hj same => absurd same (by omega)

/-- Settles O30: the record by its counted form and the transitions, the ring by where the block stands to its history, the
track by the prepared track that the block's cells are written into. -/
theorem blocksMoveLanes : Obligations.BlocksMoveLanes := by
  intro p timerAt cutoff e r ring track b _ _ gap restart st xs cf bad good1 bad1 warm1 admits mutes o
  have hrestart : r.acquires b.tag p.maxGap = restart := acquires_eq r b.tag p.maxGap
  have hst : (filteredRecord p e r b.tag).state = st := by
    rw [filteredRecord_state, hrestart]
  have hcf : blockCf p e r b = cf := by
    unfold blockCf
    rw [hst, hrestart]
  have hbad : blockBad p b (blockCf p e r b).saturations (r.gap b.tag) = bad := by
    rw [hcf]
    exact blockBad_eq p b cf.saturations gap
  obtain ⟨goodRun, warmup, badRun⟩ := countedRecord_runs p cutoff e r b hbad hrestart hst
  obtain ⟨badBlocks, clipped, lateCells⟩ := countedRecord_classCounters p cutoff e r b hbad
  have hstate : (countedRecord p cutoff e r b).state = st :=
    (countedRecord_state p cutoff e r b).trans hst
  have hadmits : (countedRecord p cutoff e r b).Admits p ↔ admits := by
    rw [LaneRecord.Admits, hstate, goodRun, warmup]
  have hmutes : (countedRecord p cutoff e r b).Mutes p ↔ mutes := by
    rw [LaneRecord.Mutes, hstate, badRun]
  obtain ⟨oGood, oWarm, oFilter, oCounters, oAdmitted, oBad, oMuted, oState, oChanged⟩ :=
    handleBlock_transition p timerAt cutoff e r ring track b
  rw [hadmits] at oAdmitted oBad oState
  rw [hmutes] at oMuted oState
  refine ⟨⟨oGood.trans goodRun, oWarm.trans warmup, ?_, ?_, ?_, oAdmitted, fun ha => (oBad ha).trans badRun, oMuted,
    fun ha hm => (oState ha hm).trans hst, ?_, ?_, fun h => ?_, fun f h hf => ?_⟩, fun length position => ?_, ?_⟩
  · exact oFilter.trans (by rw [hcf])
  · exact (congrArg LaneCounters.badBlocks oCounters).trans badBlocks
  · exact (congrArg LaneCounters.clippedSamples oCounters).trans (by rw [clipped, hcf])
  · refine oChanged.trans ?_
    rw [countedRecord_changed, filteredRecord_changed, hst, hstate, or_assoc]
  · rw [handleBlock_stateChanged, hst, Bool.or_eq_true, bne_iff_ne, bne_iff_ne]
    rfl
  · rw [h]
    rfl
  · rw [h, blockFilter, hf]
    rfl
  · have samples : (b.samples.map clampSample).length = 16 := by simpa using length
    have h1 : 1 ≤ (b.samples.map clampSample).length := by omega
    have hl : (b.samples.map clampSample).length ≤ Config.ringDepth := by rw [samples]; decide
    obtain ⟨newest, written⟩ := blockRing_samples r b.tag (b.samples.map clampSample) ring samples
    obtain ⟨later, older⟩ := blockRing_outside r b.tag ring h1 hl
    have answered : o.ring = blockRing r b.tag (b.samples.map clampSample) ring := handleBlock_ring ..
    rw [answered]
    refine ⟨newest, fun i hi => ?_, fun i hi => later i (by omega), fun i hi => older i ?_, fun i hi hw => ?_⟩
    · rw [← getD_clampSample _ _ (by omega)]
      exact written i hi
    · rw [samples]
      exact Nat.lt_of_le_of_lt hi (by omega)
    · exact blockRing_before h1 hl position hi (by rw [samples]; exact Nat.lt_of_lt_of_le (by omega) hw)
  · intro length tickLen cells k0 late before
    have count : cells.length = 16 / p.tickLen := cellsOf_length ..
    have few : 1 ≤ cells.length ∧ cells.length ≤ Config.trackDepth := by
      rw [count]
      simp only [List.mem_cons, List.not_mem_nil, or_false] at tickLen
      rcases tickLen with h | h | h | h | h <;> rw [h] <;> decide
    have track : o.track = before.writeBlock cutoff k0 cells := by
      refine (handleBlock_track p timerAt cutoff e r ring track b).trans ?_
      rw [preparedTrack_eq, hcf]
    refine ⟨count, ?_, ?_, ?_⟩
    · refine (congrArg LaneCounters.lateCells oCounters).trans ?_
      rw [lateCells, hcf, lateCount_eq]
    · rw [track]
      rfl
    · rw [track]
      exact readCell_writeBlock_late before cutoff k0 few.1 few.2

end Sys2Proof.Machine
end

namespace Sys2Proof.Machine

/-! ## One sample through the CF unit (R32 to R36) -/

theorem pow2_eq (n : Nat) : pow2 n = 2 ^ n := by simp [pow2]

theorem approach_eq (v target : Int) (k : Nat) : approach v target k = v + (target - v) / 2 ^ k := by
  rw [approach, pow2_eq]

/-- A quotient rounded down keeps the sign of its dividend and grows no larger. -/
theorem ediv_two_pow_between (d : Int) (k : Nat) : min d 0 ≤ d / 2 ^ k ∧ d / 2 ^ k ≤ max d 0 := by
  have one_le : (1 : Int) ≤ 2 ^ k := one_le_pow₀ (by decide)
  have pos : (0 : Int) < 2 ^ k := by omega
  rcases le_total 0 d with nonneg | nonpos
  · rw [min_eq_right nonneg, max_eq_left nonneg]
    exact ⟨Int.ediv_nonneg nonneg pos.le, Int.ediv_le_self _ nonneg⟩
  · rw [min_eq_left nonpos, max_eq_right nonpos]
    exact ⟨(Int.le_ediv_iff_mul_le pos).2 (mul_le_of_one_le_right nonpos one_le), Int.ediv_le_of_le_mul pos (by simpa)⟩

/-- A value moved toward a target stays between the two (R34, R36). -/
theorem approach_between (v target : Int) (k : Nat) :
    min target v ≤ approach v target k ∧ approach v target k ≤ max target v := by
  rw [approach_eq]
  obtain ⟨lower, upper⟩ := ediv_two_pow_between (target - v) k
  omega

theorem amplitude_eq (q : Int) :
    amplitude q = if 32767 < q then 32767 else if q < -32768 then -32768 else q := by
  unfold amplitude
  split_ifs <;> omega

theorem amplitude_between (q : Int) : -32768 ≤ amplitude q ∧ amplitude q ≤ 32767 := by
  unfold amplitude
  omega

/-- The energy of a sample lies from 0 to 2^30 (R34). -/
theorem energy_between (q : Int) :
    0 ≤ amplitude q * amplitude q ∧ amplitude q * amplitude q ≤ 1073741824 := by
  obtain ⟨lower, upper⟩ := amplitude_between q
  exact ⟨mul_self_nonneg _, by nlinarith only [lower, upper]⟩

theorem saturates_iff (q : Int) : saturates q = true ↔ q < -32768 ∨ 32767 < q := by simp [saturates]

/-- The CF value of a nonnegative STA: nothing is cut off below, and 65535 is the most it can be (R35). -/
theorem cfValue_eq {s : Int} (l : Int) {ltaFloor : Nat} (hs : 0 ≤ s) (hf : 1 ≤ ltaFloor) :
    let divisor := if l < ltaFloor then (ltaFloor : Int) else l
    (cfValue s l ltaFloor : Int) = if 65535 < 256 * s / divisor then 65535 else 256 * s / divisor := by
  intro divisor
  have larger : max l ltaFloor = divisor := by
    simp only [divisor]
    split_ifs <;> omega
  have pos : 0 < divisor := by omega
  have nonneg : 0 ≤ 256 * s / divisor := Int.ediv_nonneg (by omega) pos.le
  rw [cfValue, larger]
  split_ifs <;> omega

theorem cfValue_le (s l : Int) (ltaFloor : Nat) : cfValue s l ltaFloor ≤ 65535 := min_le_left ..

theorem ltaHeld_iff (st : LaneState) (c freeze : Nat) :
    ltaHeld st c freeze = true ↔ (st = .admitted ∨ st = .muted) ∧ freeze ≤ c := by
  cases st <;> simp [ltaHeld]

/-- The STA stays nonnegative, since it moves toward an energy (R34). -/
theorem approach_energy_nonneg {s : Int} (q : Int) (k : Nat) (hs : 0 ≤ s) :
    0 ≤ approach s (amplitude q * amplitude q) k :=
  (le_min (energy_between q).1 hs).trans (approach_between s _ k).1

/-- What a sample leaves in the filter and answers: each component by the operation of its step, all from the filter before
the sample but the CF value, which takes the STA just updated (R32 to R36). -/
theorem cfSample_components (v : FilterValues) (st : LaneState) (g : Nat) (f : Filter) (x : Int) :
    let q := scaleQuotient (x - f.m) g
    let e := amplitude q * amplitude q
    let o := cfSample v st g f x
    o.1.m = approach f.m x v.dcShift
    ∧ o.1.s = approach f.s e v.staShift
    ∧ o.2.1 = cfValue (approach f.s e v.staShift) f.l v.ltaFloor
    ∧ (ltaHeld st o.2.1 v.freeze = true → o.1.l = f.l)
    ∧ (ltaHeld st o.2.1 v.freeze = false → o.1.l = approach f.l e v.ltaShift)
    ∧ o.2.2 = saturates q := by
  refine ⟨rfl, rfl, rfl, fun held => if_pos held, fun free => if_neg ?_, rfl⟩
  rw [Bool.not_eq_true]
  exact free

/-- Settles O31: one sample by the operation of each step, the block by its samples, its cells by their largest values. -/
theorem characteristicFunction : Obligations.CharacteristicFunction := by
  refine ⟨fun v st g f x floor sta _ => ?_, fun v st g f xs => ?_, fun d cs hd hc => blockCells_largest hd hc⟩
  · intro y q a e s' divisor c held o
    have quotient : scaleQuotient (x - f.m) g = q := by rw [scaleQuotient, pow2_eq]
    have scaled : amplitude q = a := amplitude_eq q
    have energy := energy_between q
    have nonneg := approach_energy_nonneg q v.staShift sta
    have between := approach_between f.s (amplitude q * amplitude q) v.staShift
    have components := cfSample_components v st g f x
    simp only [quotient, scaled] at components energy nonneg between
    have updated : approach f.s (a * a) v.staShift = s' := approach_eq ..
    rw [updated] at components nonneg between
    obtain ⟨dc, short, value, kept, moved, saturated⟩ := components
    have cf : (o.2.1 : Int) = c := by
      rw [value]
      exact cfValue_eq f.l nonneg floor
    have atMost : o.2.1 ≤ 65535 := value ▸ cfValue_le ..
    have freeze : ltaHeld st o.2.1 v.freeze = true ↔ held := by
      rw [ltaHeld_iff, ← Int.ofNat_le, cf]
    refine ⟨dc.trans (approach_eq ..), short, cf, fun hx hm => ?_, ⟨energy.1, energy.2, between.1, between.2, ?_, ?_⟩,
      fun h => kept (freeze.2 h), fun h => ?_, ?_⟩
    · omega
    · omega
    · omega
    · rw [← approach_eq]
      exact moved (Bool.eq_false_iff.2 (mt freeze.1 h))
    · rw [saturated]
      exact saturates_iff q
  · obtain ⟨fs, first, last, each, length, saturations⟩ := cfBlock_samples v st g xs f
    refine ⟨fs, first, last, length, fun i hi => ⟨(each i hi).1, ?_⟩, saturations⟩
    rw [List.getD_eq_getElem?_getD, (each i hi).2]
    rfl

end Sys2Proof.Machine

namespace Sys2Proof.Machine

/-! ## The selector, the banks and the scan over a step (R47, R53, R61, R67, R106) -/

/-- `b` holds a tick where `a` does, and none below it. -/
def NotBelow (a b : Option Nat) : Prop := ∀ x, a = some x → ∃ y, b = some y ∧ x ≤ y

theorem NotBelow.refl (a : Option Nat) : NotBelow a a := fun x h => ⟨x, h, le_rfl⟩

theorem NotBelow.of_eq {a b : Option Nat} (h : b = a) : NotBelow a b := h ▸ .refl a

theorem NotBelow.trans {a b c : Option Nat} (h : NotBelow a b) (k : NotBelow b c) : NotBelow a c := by
  intro x hx
  obtain ⟨y, hy, le⟩ := h x hx
  obtain ⟨z, hz, le'⟩ := k y hy
  exact ⟨z, hz, le.trans le'⟩

/-- `ScanAgrees`, with the scan FROZEN exactly while the engine is: what a step needs of `FrozenAgrees` to keep it. -/
structure ScanWell (s : State) : Prop extends ScanAgrees s where
  frozen : s.scan.state = .frozen ↔ s.notice.frozen = true

/-- The selector, a pending switch, a running scan and a validation stay right, and no bank changes but in its state. -/
structure SelectorKept (s t : State) : Prop where
  agrees : SelectorAgrees s → SelectorAgrees t
  contents : ∀ bank, { t.banks.get bank with state := (s.banks.get bank).state } = s.banks.get bank

/-- `t` stands right in its tick scan and its close in progress, and neither the cursor nor a cut-off has moved back. -/
structure ScanMoved (s t : State) : Prop where
  well : ScanWell t
  cursor : NotBelow s.scan.cursor t.scan.cursor
  cutoffs : ∀ lane, NotBelow (Memory.find s.scan.cutoffs lane) (Memory.find t.scan.cutoffs lane)

/-- From `s` to `t` both the banks and the scan go on as they may within a step. -/
structure Onward (s t : State) : Prop extends SelectorKept s t where
  scan : ScanWell s → ScanMoved s t

theorem SelectorKept.trans {s t u : State} (h : SelectorKept s t) (k : SelectorKept t u) : SelectorKept s u := by
  refine ⟨fun hs => k.agrees (h.agrees hs), fun bank => ?_⟩
  calc { u.banks.get bank with state := (s.banks.get bank).state }
      = { ({ u.banks.get bank with state := (t.banks.get bank).state } : Bank) with
          state := (s.banks.get bank).state } := rfl
    _ = { t.banks.get bank with state := (s.banks.get bank).state } := by rw [k.contents]
    _ = s.banks.get bank := h.contents bank

theorem ScanMoved.trans {s t u : State} (h : ScanMoved s t) (k : ScanMoved t u) : ScanMoved s u :=
  ⟨k.well, h.cursor.trans k.cursor, fun lane => (h.cutoffs lane).trans (k.cutoffs lane)⟩

theorem Onward.trans {s t u : State} (h : Onward s t) (k : Onward t u) : Onward s u :=
  ⟨h.toSelectorKept.trans k.toSelectorKept, fun hs => (h.scan hs).trans (k.scan (h.scan hs).well)⟩

theorem Onward.well {s t : State} (h : Onward s t) (hs : ScanWell s) : ScanWell t := (h.scan hs).well

/-! ### Changes that leave the banks and the scan where they are -/

/-- `t` stands as `s` does in all that the two invariants speak of, but that a validation may have ended. -/
structure Unmoved (s t : State) : Prop where
  banks : t.banks = s.banks
  state : t.scan.state = s.scan.state
  cursor : t.scan.cursor = s.scan.cursor
  cutoffs : t.scan.cutoffs = s.scan.cutoffs
  tick : t.scan.tick = s.scan.tick
  closing : t.det.closing = s.det.closing
  detState : t.det.state = s.det.state
  running : t.det.running = s.det.running
  frozen : t.notice.frozen = s.notice.frozen
  validating : ∀ bank, t.cmd.executing = some (.validating bank) → s.cmd.executing = some (.validating bank)

theorem scanning_congr {s t : State} (h : t.scan.state = s.scan.state) : scanning t = scanning s := by
  unfold scanning
  rw [h]

theorem not_scanning_of_idle {s : State} (h : s.scan.state = .idle) : scanning s = false := by simp [scanning, h]

theorem not_scanning_of_frozen {s : State} (h : s.scan.state = .frozen) : scanning s = false := by simp [scanning, h]

/-- The selector stays right where the banks stay, the scan becomes neither IDLE nor scanning, and no validation begins. -/
theorem SelectorAgrees.congr {s t : State} (h : SelectorAgrees s) (banks : t.banks = s.banks)
    (idle : t.scan.state = .idle → s.scan.state = .idle) (runs : scanning t = true → scanning s = true)
    (validating : ∀ bank, t.cmd.executing = some (.validating bank) → s.cmd.executing = some (.validating bank)) :
    SelectorAgrees t := by
  refine ⟨?_, ?_, ?_, ?_, ?_⟩ <;> rw [banks]
  · exact h.selector
  · exact h.pendingReady
  · exact fun pending is => h.pendingScan pending (idle is)
  · exact fun is => h.scanBank (runs is)
  · exact fun bank is => h.validating bank (validating bank is)

theorem SelectorKept.of_banks {s t : State} (banks : t.banks = s.banks)
    (agrees : SelectorAgrees s → SelectorAgrees t) : SelectorKept s t :=
  ⟨agrees, fun _ => by rw [banks]⟩

/-- The scan stays right where the tick scan, the cursor, the Detector and the FROZEN condition stay. -/
theorem ScanWell.congr {s t : State} (h : ScanWell s) (state : t.scan.state = s.scan.state)
    (cursor : t.scan.cursor = s.scan.cursor) (tick : t.scan.tick = s.scan.tick)
    (closing : t.det.closing = s.det.closing) (detState : t.det.state = s.det.state)
    (running : t.det.running = s.det.running) (frozen : t.notice.frozen = s.notice.frozen) : ScanWell t := by
  refine ⟨⟨?_, ?_, ?_, ?_⟩, ?_⟩
  · rw [tick, cursor]; exact h.cursor
  · rw [tick, scanning_congr state]; exact h.runs
  · rw [closing, tick]; exact h.boundary
  · rw [closing, detState, running, frozen]; exact h.closes
  · rw [state, frozen]; exact h.frozen

theorem Unmoved.well {s t : State} (h : Unmoved s t) (hs : ScanWell s) : ScanWell t :=
  hs.congr h.state h.cursor h.tick h.closing h.detState h.running h.frozen

theorem Unmoved.onward {s t : State} (h : Unmoved s t) : Onward s t where
  toSelectorKept := .of_banks h.banks fun hs =>
    hs.congr h.banks (fun is => h.state ▸ is) (fun is => scanning_congr h.state ▸ is) h.validating
  scan hs := ⟨h.well hs, .of_eq h.cursor, fun _ => .of_eq (by rw [h.cutoffs])⟩

theorem Onward.refl (s : State) : Onward s s := Unmoved.onward (by constructor <;> simp)

theorem answer_validating (k : ReplyCode) (x : Bytes) (s : State) (bank : BankId)
    (h : (answer k x s).cmd.executing = some (.validating bank)) : s.cmd.executing = some (.validating bank) := by
  unfold answer at h
  split at h
  · exact h
  · split at h <;> cases h

theorem onward_answer (k : ReplyCode) (x : Bytes) (s : State) : Onward s (answer k x s) := by
  have ended := answer_validating k x s
  exact Unmoved.onward ⟨by simp, by simp, by simp, by simp, by simp, by simp, by simp, by simp, by simp, ended⟩

theorem onward_settleLine (s : State) : Onward s (settleLine s) := by
  have ended (bank : BankId) (h : (settleLine s).cmd.executing = some (.validating bank)) :
      s.cmd.executing = some (.validating bank) := by
    rcases settleLine_executing s with none | same
    · simp [none] at h
    · rw [← same]; exact h
  exact Unmoved.onward ⟨by simp, by simp, by simp, by simp, by simp, by simp, by simp, by simp, by simp, ended⟩

theorem onward_setFlag (f : Flag) (s : State) : Onward s (setFlag f s) := Unmoved.onward (by constructor <;> simp)

theorem onward_setFlagIf (c : Bool) (f : Flag) (s : State) : Onward s (setFlagIf c f s) :=
  Unmoved.onward (by constructor <;> simp)

theorem onward_waitTest (s : State) : Onward s (waitTest s) := Unmoved.onward (by constructor <;> simp)

theorem onward_waitTestFor (lane : Nat) (s : State) : Onward s (waitTestFor lane s) :=
  Unmoved.onward (by constructor <;> simp)

/-! ### Faults -/

/-- The scan stands, or a fault has frozen the engine and stopped it (R72, R175). -/
inductive ScanOrStopped (s t : State) : Prop
  | stands : t.scan = s.scan → t.notice.frozen = s.notice.frozen → ScanOrStopped s t
  | stopped : t.scan = { s.scan with state := .frozen, tick := none } → t.notice.frozen = true → ScanOrStopped s t

/-- What faults leave: the banks, and the scan as it stands or stopped; no validation begins. -/
structure FaultsTaken (s t : State) : Prop where
  banks : t.banks = s.banks
  scan : ScanOrStopped s t
  validating : ∀ bank, t.cmd.executing = some (.validating bank) → s.cmd.executing = some (.validating bank)

theorem FaultsTaken.refl (s : State) : FaultsTaken s s := ⟨rfl, .stands rfl rfl, fun _ h => h⟩

theorem FaultsTaken.trans {s t u : State} (h : FaultsTaken s t) (k : FaultsTaken t u) : FaultsTaken s u := by
  refine ⟨k.banks.trans h.banks, ?_, fun bank is => h.validating bank (k.validating bank is)⟩
  rcases k.scan with ⟨scan, frozen⟩ | ⟨scan, frozen⟩
  · rcases h.scan with ⟨scan', frozen'⟩ | ⟨scan', frozen'⟩
    · exact .stands (scan.trans scan') (frozen.trans frozen')
    · exact .stopped (scan.trans scan') (frozen.trans frozen')
  · refine .stopped ?_ frozen
    rcases h.scan with ⟨scan', _⟩ | ⟨scan', _⟩ <;> rw [scan, scan']

theorem FaultsTaken.cursor {s t : State} (h : FaultsTaken s t) : t.scan.cursor = s.scan.cursor := by
  rcases h.scan with ⟨scan, _⟩ | ⟨scan, _⟩ <;> rw [scan]

theorem FaultsTaken.cutoffs {s t : State} (h : FaultsTaken s t) : t.scan.cutoffs = s.scan.cutoffs := by
  rcases h.scan with ⟨scan, _⟩ | ⟨scan, _⟩ <;> rw [scan]

theorem FaultsTaken.selector {s t : State} (h : FaultsTaken s t) : SelectorKept s t := by
  refine .of_banks h.banks fun hs => ?_
  rcases h.scan with ⟨scan, _⟩ | ⟨scan, _⟩
  · exact hs.congr h.banks (by simp [scan]) (by simp [scanning, scan]) h.validating
  · exact hs.congr h.banks (by simp [scan]) (by simp [scanning, scan]) h.validating

/-- The scan stays right over faults that have left no close in progress. -/
theorem FaultsTaken.well {s t : State} (h : FaultsTaken s t) (closed : t.det.closing = none) (hs : ScanWell s) :
    ScanWell t := by
  rcases h.scan with ⟨scan, frozen⟩ | ⟨scan, frozen⟩
  · refine ⟨⟨?_, ?_, by simp [closed], by simp [closed]⟩, ?_⟩
    · rw [scan]; exact hs.cursor
    · rw [scan, scanning_congr (s := s) (t := t) (by rw [scan])]; exact hs.runs
    · rw [scan, frozen]; exact hs.frozen
  · exact ⟨⟨by simp [scan], by simp [scan], by simp [closed], by simp [closed]⟩, by simp [scan, frozen]⟩

theorem freezeCommand_validating (s : State) (bank : BankId)
    (h : (freezeCommand s).cmd.executing = some (.validating bank)) : s.cmd.executing = some (.validating bank) := by
  unfold freezeCommand at h
  split at h
  · exact answer_validating _ _ _ _ h
  · split at h
    · exact h
    · exact answer_validating _ _ _ _ h
  · exact answer_validating _ _ _ _ h
  all_goals exact h

theorem faultsTaken_enterFrozen (a : Activity) (s : State) : FaultsTaken s (enterFrozen a s) := by
  refine ⟨by simp, .stopped (by simp [enterFrozen]) (enterFrozen_frozen a s), fun bank h => ?_⟩
  simpa using freezeCommand_validating _ bank h

theorem faultsTaken_takeFault (a : Activity) (p : FaultPlace) (s : State) : FaultsTaken s (takeFault a p s) := by
  have noted (f : Flag) (n : NoticeUnit) (h : n.frozen = s.notice.frozen) : FaultsTaken s (setFlag f (s.setNotice n)) :=
    ⟨by simp, .stands (by simp) (by simpa using h), by simp⟩
  unfold takeFault
  dsimp only
  split
  · exact .refl s
  · split
    · refine .trans ?_ (faultsTaken_enterFrozen a _)
      exact noted _ _ rfl
    · split
      · exact noted _ _ rfl
      · refine .trans ?_ (faultsTaken_enterFrozen a _)
        exact noted _ _ rfl

/-- A fault outside the planning of a close leaves the Detector, or an engine with no close in progress (R105, R175). -/
theorem takeFault_det {a : Activity} (ha : a ≠ .planning) (p : FaultPlace) (s : State) :
    takeFault a p s = s ∨ (takeFault a p s).det.closing = none
      ∨ (takeFault a p s).det = s.det ∧ (takeFault a p s).scan = s.scan
        ∧ (takeFault a p s).notice.frozen = s.notice.frozen := by
  have closed (u : State) : (enterFrozen a u).det.closing = none := by
    rw [enterFrozen, freezeCommand_det]
    refine (freezeClose_frozen a ?_).2.2.2 ha
    simp
  unfold takeFault
  dsimp only
  split
  · exact .inl rfl
  · split
    · exact .inr (.inl (closed _))
    · split
      · exact .inr (.inr ⟨by simp, by simp, by simp⟩)
      · exact .inr (.inl (closed _))

theorem onward_takeFault {a : Activity} (ha : a ≠ .planning) (p : FaultPlace) (s : State) :
    Onward s (takeFault a p s) := by
  have taken := faultsTaken_takeFault a p s
  refine ⟨taken.selector, fun hs => ⟨?_, .of_eq taken.cursor, fun _ => .of_eq (by rw [taken.cutoffs])⟩⟩
  rcases takeFault_det ha p s with same | closed | ⟨det, scan, frozen⟩
  · rw [same]; exact hs
  · exact taken.well closed hs
  · exact hs.congr (by rw [scan]) (by rw [scan]) (by rw [scan]) (by rw [det]) (by rw [det]) (by rw [det]) frozen

/-! ### The Detector over a close, a cut and a tick result -/

/-- With no close in progress, a scan that stands as it stood stays right. -/
theorem ScanWell.of_closed {s t : State} (h : ScanWell s) (scan : t.scan = s.scan)
    (frozen : t.notice.frozen = s.notice.frozen) (closed : t.det.closing = none) : ScanWell t := by
  refine ⟨⟨?_, ?_, by simp [closed], by simp [closed]⟩, ?_⟩
  · rw [scan]; exact h.cursor
  · rw [scan, scanning_congr (s := s) (t := t) (by rw [scan])]; exact h.runs
  · rw [scan, frozen]; exact h.frozen

/-- An engine with no tick scan in flight and no close in progress stands right. -/
theorem scanWell_resting {s : State} (tick : s.scan.tick = none) (closed : s.det.closing = none)
    (frozen : s.scan.state = .frozen ↔ s.notice.frozen = true) : ScanWell s :=
  ⟨⟨by simp [tick], by simp [tick], by simp [closed], by simp [closed]⟩, frozen⟩

theorem ScanWell.awake {s : State} (h : ScanWell s) (runs : scanning s = true) : s.notice.frozen = false := by
  rw [Bool.eq_false_iff, ne_eq, ← h.frozen]
  intro frozen
  simp [not_scanning_of_frozen frozen] at runs

theorem ScanWell.closed_of_state {s : State} (h : ScanWell s) (other : s.det.state ≠ .declared) :
    s.det.closing = none := by
  cases closing : s.det.closing with
  | none => rfl
  | some c => exact absurd (h.closes c closing).1 other

/-- A close that begins is that of a DECLARED event in an engine that is not FROZEN (R106); one without a place is over. -/
theorem scanWell_beginClose {s : State} (h : ScanWell s) (reason : CloseReason) (tick : Nat) (boundary : Bool)
    (declared : s.det.state = .declared) (running : s.det.running.isSome = true) (awake : s.notice.frozen = false)
    (idle : boundary = true → s.scan.tick = none) : ScanWell (beginClose reason tick boundary s) := by
  by_cases place : s.queue.length < Config.queueDepth
  · rw [beginClose, if_pos place]
    refine ⟨⟨h.cursor, h.runs, ?_, ?_⟩, h.frozen⟩
    · intro c begun
      obtain rfl := Option.some.inj begun
      exact idle
    · exact fun _ _ => ⟨declared, running, awake⟩
  · rw [beginClose, if_neg place]
    exact h.of_closed (by simp) (by simp) (by simp [discardClose, Detector.afterClose])

theorem scanWell_cutOpenEvent {s : State} (h : ScanWell s) (reason : CloseReason) (awake : s.notice.frozen = false) :
    ScanWell (cutOpenEvent reason s) := by
  unfold cutOpenEvent
  split
  · rename_i onset
    have closed : s.det.closing = none := h.closed_of_state (by simp [onset])
    exact h.of_closed rfl rfl closed
  · rename_i run declared running
    exact scanWell_beginClose h _ _ _ declared (by simp [running]) awake (by simp)
  · exact h

theorem scanWell_takeOverrun {s : State} (h : ScanWell s) (awake : s.notice.frozen = false) :
    ScanWell (takeOverrun s) := by
  unfold takeOverrun
  split
  · rename_i c closing
    refine ⟨⟨h.cursor, h.runs, fun c' same => ?_, fun _ _ => h.closes c closing⟩, h.frozen⟩
    obtain rfl := Option.some.inj same
    exact h.boundary c closing
  · rename_i closed
    split
    · exact h.of_closed rfl rfl closed
    · exact scanWell_cutOpenEvent h _ awake

theorem scanWell_takeSilence {s : State} (h : ScanWell s) (awake : s.notice.frozen = false) :
    ScanWell (takeSilence s) := by
  unfold takeSilence
  split
  · exact h
  · exact scanWell_cutOpenEvent h _ awake

/-- A tick result is handled with no tick scan in flight and no close in progress (R83, R98). -/
theorem scanWell_takeTickResult {s : State} (h : ScanWell s) (r : TickResult) (tick : s.scan.tick = none)
    (closed : s.det.closing = none) (awake : s.notice.frozen = false) : ScanWell (takeTickResult r s) := by
  unfold takeTickResult
  dsimp only
  split
  · exact h.of_closed rfl rfl ((closing_tickInQuiet ..).trans closed)
  · exact h.of_closed rfl rfl ((closing_tickInOnset ..).trans closed)
  · rename_i run declared _
    have taken (run' : Running) : ScanWell (s.setDet { s.det with running := some run' }) := h.of_closed rfl rfl closed
    unfold tickInDeclared
    dsimp only
    split
    · exact scanWell_beginClose (taken _) _ _ _ declared rfl awake fun _ => tick
    · split
      · exact scanWell_beginClose (taken _) _ _ _ declared rfl awake fun _ => tick
      · exact taken _
  · exact h.of_closed rfl rfl closed
  · exact h

/-! ### The scan's tests and the switch of banks -/

/-- The scan's tests leave all as it is, or the cursor of a scan with no tick scan in flight jumps forward (R74, R86). -/
theorem retest_cases (s : State) : retest s = s
    ∨ ∃ x y, scanning s = true ∧ s.scan.tick = none ∧ s.scan.cursor = some x ∧ x ≤ y ∧ retest s = jumpCursor x y s := by
  unfold retest
  split
  · rename_i tests
    simp only [Bool.and_eq_true, Option.isNone_iff_eq_none] at tests
    unfold fallBehind
    split
    · rename_i x k cursor _
      dsimp only
      split
      · exact .inr ⟨x, _, tests.1.1, tests.1.2, cursor, by omega, rfl⟩
      · exact .inl rfl
    · exact .inl rfl
  · exact .inl rfl

theorem onward_retest (s : State) : Onward s (retest s) := by
  obtain same | ⟨x, y, runs, tick, cursor, le, jump⟩ := retest_cases s
  · rw [same]
    exact .refl s
  · have scan : (retest s).scan = { s.scan with
        cursor := some y, skippedTicks := satAdd s.scan.skippedTicks (y - x) } := by simp [jump, jumpCursor]
    refine ⟨.of_banks (by simp) fun hs => hs.congr (by simp) (by simp [scan]) (by simp [scanning, scan]) (by simp),
      fun hs => ⟨?_, ?_, ?_⟩⟩
    · have moved : ScanWell (s.setScan { s.scan with
          cursor := some y, skippedTicks := satAdd s.scan.skippedTicks (y - x) }) :=
        ⟨⟨by simp [tick], by simp [tick], hs.boundary, hs.closes⟩, hs.frozen⟩
      rw [jump]
      exact (onward_setFlag _ _).well (scanWell_takeOverrun moved (hs.awake runs))
    · rw [scan]
      intro x' hx
      rw [cursor] at hx
      obtain rfl := Option.some.inj hx
      exact ⟨y, rfl, le⟩
    · exact fun lane => .of_eq (by rw [scan])

theorem Banks.get_set (k : Banks) (i j : BankId) (x : Bank) : (k.set i x).get j = if j = i then x else k.get j := by
  cases i <;> cases j <;> rfl

/-- The bank switched to becomes ACTIVE, the one that was ACTIVE becomes READY, and any other stays (R62, R64). -/
theorem get_activate (k : Banks) (i j : BankId) : (k.activate i).get j =
    { k.get j with state := if j = i then .active else if k.active = some j then .ready else (k.get j).state } := by
  have get_named (k : Banks) (a p : Option BankId) : ({ k with active := a, pendingSwitch := p } : Banks).get j = k.get j := by
    cases j <;> rfl
  unfold Banks.activate
  dsimp only
  rw [get_named, Banks.get_set]
  cases active : k.active with
  | none => split_ifs with same <;> simp_all
  | some old => simp only [Banks.get_set]; split_ifs <;> simp_all

@[simp] theorem activate_active (k : Banks) (i : BankId) : (k.activate i).active = some i := rfl

@[simp] theorem activate_pendingSwitch (k : Banks) (i : BankId) : (k.activate i).pendingSwitch = none := rfl

theorem contents_activate (k : Banks) (i bank : BankId) :
    { (k.activate i).get bank with state := (k.get bank).state } = k.get bank := by rw [get_activate]

/-- A switch to a READY bank keeps the selector on the ACTIVE one, and touches no bank in validation. -/
theorem SelectorAgrees.activate {s t : State} (h : SelectorAgrees s) {i : BankId} (ready : (s.banks.get i).state = .ready)
    (banks : t.banks = s.banks.activate i)
    (validating : ∀ bank, t.cmd.executing = some (.validating bank) → s.cmd.executing = some (.validating bank)) :
    SelectorAgrees t := by
  refine ⟨fun j => ?_, by simp [banks], by simp [banks], by simp [banks], fun j is => ?_⟩
  · have selected := h.selector j
    rw [banks, activate_active, get_activate]
    by_cases same : j = i
    · simp [same]
    · have other : i ≠ j := fun e => same e.symm
      by_cases was : s.banks.active = some j
      · simp [same, was, other]
      · simpa [same, was, other] using fun is => was (selected.2 is)
  · have loading := h.validating j (validating j is)
    have other : j ≠ i := by rintro rfl; simp [ready] at loading
    have unselected : s.banks.active ≠ some j := fun is => by simp [(h.selector j).1 is] at loading
    rw [banks, get_activate]
    simpa [other, unselected] using loading

/-- A pending switch is taken in a scan that goes on or has just stopped (R64, R70, R71). -/
theorem SelectorAgrees.takeSwitch {s t : State} (h : SelectorAgrees s) (banks : t.banks = s.banks) (cmd : t.cmd = s.cmd)
    (runs : scanning t = true → scanning s = true) : SelectorAgrees (takeSwitch t) := by
  unfold Machine.takeSwitch
  split
  · rename_i none
    refine ⟨banks ▸ h.selector, banks ▸ h.pendingReady, by simp [none], fun is => ?_, fun bank => ?_⟩
    · rw [banks]; exact h.scanBank (runs is)
    · rw [banks, cmd]; exact h.validating bank
  · rename_i i pending
    rw [banks] at pending
    exact h.activate (h.pendingReady i pending) (by simp [banks]) (by simp [cmd])

theorem contents_takeSwitch (s : State) (bank : BankId) :
    { (takeSwitch s).banks.get bank with state := (s.banks.get bank).state } = s.banks.get bank := by
  unfold takeSwitch
  split
  · rfl
  · rw [setFlag_banks]
    exact contents_activate _ _ bank

theorem onward_takeSwitch (s : State) : Onward s (takeSwitch s) where
  agrees hs := hs.takeSwitch rfl rfl id
  contents := contents_takeSwitch s
  scan hs := ⟨hs.congr (by simp) (by simp) (by simp) (by simp) (by simp) (by simp) (by simp), .of_eq (by simp),
    fun _ => .of_eq (by simp)⟩

/-- A scan that becomes IDLE takes its pending switch (R70, R71). -/
theorem selector_stopScan (s : State) (k : Scan) (d : Detector) (idle : k.state = .idle) :
    SelectorKept s (takeSwitch ((s.setScan k).setDet d)) :=
  ⟨fun hs => hs.takeSwitch rfl rfl (by simp [scanning, idle]), contents_takeSwitch ((s.setScan k).setDet d)⟩

theorem selector_endHalting (s : State) : SelectorKept s (endHalting s) :=
  (selector_stopScan s _ _ rfl).trans (onward_setFlag _ _).toSelectorKept

/-- STOP leaves a Detector with a close in progress as it is: its state is DECLARED (R103, R106). -/
theorem stop_closing {s : State} (h : ScanWell s) : s.det.stop.closing = s.det.closing
    ∧ (s.det.closing.isSome = true → s.det.stop = s.det) := by
  unfold Detector.stop
  split
  · rename_i holdoff
    exact ⟨rfl, by simp [h.closed_of_state (by simp [holdoff])]⟩
  · exact ⟨rfl, fun _ => rfl⟩

theorem scan_endHalting {s : State} (hs : ScanWell s) (halting : s.scan.state = .halting) (tick : s.scan.tick = none) :
    ScanMoved s (endHalting s) := by
  have awake := hs.awake (by simp [scanning, halting])
  obtain ⟨kept, same⟩ := stop_closing hs
  have stopped : ScanWell ((s.setScan { s.scan with state := .idle }).setDet s.det.stop) := by
    refine ⟨⟨by simp [tick], by simp [tick], fun _ _ _ => tick, fun c closing => ?_⟩, by simp [awake]⟩
    simp only [State.det_setDet, State.notice_setDet, State.notice_setScan] at closing ⊢
    rw [kept] at closing
    rw [same (by simp [closing])]
    exact hs.closes c closing
  exact ⟨(onward_setFlag _ _).well ((onward_takeSwitch _).well stopped), .of_eq (by simp [endHalting]),
    fun _ => .of_eq (by simp [endHalting])⟩

theorem onward_applyWaitingChange (s : State) : Onward s (applyWaitingChange s) := by
  have applied (x : LaneChange) : Onward s (applyLaneChange x s) := Unmoved.onward (by constructor <;> simp)
  unfold applyWaitingChange
  split
  · exact (applied _).trans (onward_answer _ _ _)
  · exact .refl s

theorem selector_tickBoundary (s : State) : SelectorKept s (tickBoundary s) := by
  unfold tickBoundary
  split
  · exact (selector_endHalting s).trans (onward_applyWaitingChange _).toSelectorKept
  · refine .trans (.trans ?_ (onward_applyWaitingChange _).toSelectorKept) (onward_retest _).toSelectorKept
    split
    · exact (onward_takeSwitch s).toSelectorKept
    · exact (Onward.refl s).toSelectorKept

theorem scan_tickBoundary {s : State} (hs : ScanWell s) (tick : s.scan.tick = none) : ScanMoved s (tickBoundary s) := by
  unfold tickBoundary
  split
  · rename_i halting
    simp only [Bool.and_eq_true, decide_eq_true_eq] at halting
    have ended := scan_endHalting hs halting.1 tick
    exact ended.trans ((onward_applyWaitingChange _).scan ended.well)
  · refine Onward.scan (.trans (.trans ?_ (onward_applyWaitingChange _)) (onward_retest _)) hs
    split
    · exact onward_takeSwitch s
    · exact .refl s

/-! ### A tick delivered, and a close completed -/

theorem detClear_closing (d : Detector) : d.clear.closing = d.closing := by
  unfold Detector.clear
  dsimp only
  split <;> rfl

theorem selector_clearScanEffect (s : State) : SelectorKept s (clearScanEffect s) := by
  unfold clearScanEffect
  split
  · exact selector_stopScan s _ _ rfl
  · exact (Onward.refl s).toSelectorKept

/-- CLEAR SCAN takes effect with no close in progress (R71). -/
theorem scan_clearScanEffect {s : State} (hs : ScanWell s) (closed : s.det.closing = none) :
    ScanMoved s (clearScanEffect s) := by
  unfold clearScanEffect
  split
  · rename_i runs
    have cleared : ScanWell ((s.setScan { s.scan with state := .idle, tick := none }).setDet s.det.clear) :=
      scanWell_resting rfl ((detClear_closing s.det).trans closed) (by simp [hs.awake runs])
    exact ⟨(onward_takeSwitch _).well cleared, .of_eq (by simp), fun _ => .of_eq (by simp)⟩
  · exact (Onward.refl s).scan hs

/-- Delivery takes the tick scan out of flight and the cursor to the tick that follows, which for a cursor below the last
48-bit count is the next one (R83; assumption 8). -/
theorem scan_deliver {s : State} {k : TickScan} (hs : ScanWell s) (tick : s.scan.tick = some k)
    (closed : s.det.closing = none) :
    ScanWell (deliver k.result s) ∧ (deliver k.result s).scan.tick = none
      ∧ (deliver k.result s).scan.cutoffs = s.scan.cutoffs
      ∧ ∀ x, s.scan.cursor = some x → x + 1 < 2 ^ 48 → ∃ y, (deliver k.result s).scan.cursor = some y ∧ x ≤ y := by
  have awake := hs.awake (hs.runs (by simp [tick]))
  refine ⟨?_, by simp [deliver], by simp [deliver], fun x cursor below => ⟨x + 1, ?_, by omega⟩⟩
  · unfold deliver
    apply scanWell_takeTickResult
    · exact scanWell_resting rfl closed hs.frozen
    · rfl
    · exact closed
    · exact awake
  · have origin : k.result.origin = x := Option.some.inj ((hs.cursor k tick).symm.trans cursor)
    have bound : x + 1 < Config.count48Bound := by simpa [Config.count48Bound] using below
    simp [deliver, origin, count48, bound]

theorem selector_tickResultDelivery (s : State) : SelectorKept s (tickResultDelivery s) := by
  have delivered (r : TickResult) : SelectorKept s (deliver r s) :=
    .of_banks (by simp) fun hs => hs.congr (by simp) (by simp [deliver]) (by simp [deliver, scanning]) (by simp)
  unfold tickResultDelivery
  split
  · exact (Onward.refl s).toSelectorKept
  · split
    · exact (Onward.refl s).toSelectorKept
    · dsimp only
      split
      · exact delivered _
      · exact (delivered _).trans (selector_tickBoundary _)

theorem faultsTaken_planRead (m : Maximum) (lane : Nat) (s : State) : FaultsTaken s (planRead m lane s).2 := by
  unfold planRead
  dsimp only
  split
  · exact faultsTaken_takeFault _ _ s
  · split
    · exact .refl s
    · split
      · exact .refl s
      · exact .refl s
      · exact faultsTaken_takeFault _ _ s

theorem faultsTaken_walkPlan (m : Maximum) (cap : CaptureParams) (ps : List (Nat × Nat)) (n : Nat) (s : State) :
    FaultsTaken s (walkPlan m cap ps n s).2 := by
  induction ps generalizing n s with
  | nil => exact .refl s
  | cons p ps ih =>
    have read := faultsTaken_planRead m p.1 s
    unfold walkPlan
    split
    · exact .refl s
    · split
      · rename_i d t heq
        rw [heq] at read
        exact read.trans (ih _ _)
      · rename_i t heq
        rw [heq] at read
        split
        · exact read
        · exact read.trans (ih _ _)

theorem faultsTaken_completeClose (c : Closing) (run : Running) (s : State) : FaultsTaken s (completeClose c run s) := by
  have planned : FaultsTaken s (makePlan c run.maximum s).2 := by
    unfold makePlan
    split
    · exact .refl s
    · exact faultsTaken_walkPlan _ _ _ _ s
  exact planned.trans ⟨by simp [completeClose], .stands (by simp [completeClose]) (by simp [completeClose]),
    by simp [completeClose]⟩

theorem completeClose_closed (c : Closing) (run : Running) (s : State) : (completeClose c run s).det.closing = none := by
  simp [completeClose, appendClosed, Detector.afterClose]

theorem completeClose_detState (c : Closing) (run : Running) (s : State) :
    (completeClose c run s).det.state = .holdoff ∨ (completeClose c run s).det.state = .quiet := by
  simp only [completeClose, appendClosed, appendRecord_det, State.det_setDet, Detector.afterClose]
  split <;> simp

/-- An OVERRUN handled as a close ends finds HOLDOFF or QUIET and begins no close (R101; assumption 12). -/
theorem takeOverrun_closed {s : State} (closed : s.det.closing = none)
    (resting : s.det.state = .holdoff ∨ s.det.state = .quiet) : (takeOverrun s).det.closing = none := by
  unfold takeOverrun cutOpenEvent
  rcases resting with state | state <;> simp [closed, state]

theorem keptOverrun_closed {c : Closing} {s : State} (closed : s.det.closing = none)
    (resting : s.det.state = .holdoff ∨ s.det.state = .quiet) : (keptOverrun c s).det.closing = none := by
  unfold keptOverrun
  split
  · exact takeOverrun_closed closed resting
  · exact closed

/-- What the completion of a close leaves before the boundary that may follow it. -/
def closeDone (c : Closing) (run : Running) (s : State) : State := keptOverrun c (completeClose c run s)

theorem faultsTaken_closeDone (c : Closing) (run : Running) (s : State) : FaultsTaken s (closeDone c run s) :=
  (faultsTaken_completeClose c run s).trans ⟨by simp [closeDone], .stands (by simp [closeDone]) (by simp [closeDone]),
    by simp [closeDone]⟩

theorem closeDone_closed (c : Closing) (run : Running) (s : State) : (closeDone c run s).det.closing = none :=
  keptOverrun_closed (completeClose_closed c run s) (completeClose_detState c run s)

theorem scan_closeDone {s : State} (c : Closing) (run : Running) (hs : ScanWell s) : ScanMoved s (closeDone c run s) :=
  have taken := faultsTaken_closeDone c run s
  ⟨taken.well (closeDone_closed c run s) hs, .of_eq taken.cursor, fun _ => .of_eq (by rw [taken.cutoffs])⟩

theorem FaultsTaken.tick {s t : State} (h : FaultsTaken s t) (tick : s.scan.tick = none) : t.scan.tick = none := by
  rcases h.scan with ⟨scan, _⟩ | ⟨scan, _⟩ <;> simp [scan, tick]

theorem onward_closeCompletion (s : State) : Onward s (closeCompletion s) := by
  unfold closeCompletion
  split
  · rename_i c run closing _
    have done := faultsTaken_closeDone c run s
    change Onward s (afterCompletion c.boundary (closeDone c run s))
    unfold afterCompletion
    split
    · split
      · exact ⟨done.selector.trans (onward_answer _ _ _).toSelectorKept, fun hs =>
          have moved := scan_closeDone c run hs
          moved.trans ((onward_answer _ _ _).scan moved.well)⟩
      · refine .trans ⟨done.selector.trans (selector_clearScanEffect _), fun hs => ?_⟩ (onward_answer _ _ _)
        have moved := scan_closeDone c run hs
        exact moved.trans (scan_clearScanEffect moved.well (closeDone_closed c run s))
    · split
      · rename_i boundary
        simp only [Bool.and_eq_true] at boundary
        refine ⟨done.selector.trans (selector_tickBoundary _), fun hs => ?_⟩
        have moved := scan_closeDone c run hs
        exact moved.trans (scan_tickBoundary moved.well (done.tick (hs.boundary c closing boundary.1)))
      · exact ⟨done.selector, scan_closeDone c run⟩
  · exact .refl s

/-! ### The tick scan -/

theorem find_foldl_put_max (lanes : Memory Lane) (u lane x : Nat) (m : Memory Nat) (h : Memory.find m lane = some x) :
    ∃ y, Memory.find (raiseCutoffs lanes u m) lane = some y ∧ x ≤ y := by
  unfold raiseCutoffs
  induction lanes generalizing m x with
  | nil => exact ⟨x, h, le_rfl⟩
  | cons e rest ih =>
    have raised : ∃ z, Memory.find (Memory.put m e.1 (max u ((Memory.find m e.1).getD 0))) lane = some z ∧ x ≤ z := by
      rw [Memory.find_put]
      split
      · rename_i same
        exact ⟨_, rfl, by simp [← same, h]⟩
      · exact ⟨x, h, le_rfl⟩
    obtain ⟨z, found, le⟩ := raised
    obtain ⟨y, found', le'⟩ := ih z _ found
    exact ⟨y, found', le.trans le'⟩

theorem onward_tickScanBegin (s : State) : Onward s (tickScanBegin s) := by
  unfold tickScanBegin
  split
  · rename_i t bank cursor _
    split
    · rename_i begins
      simp only [Bool.and_eq_true, Bool.not_eq_true'] at begins
      obtain ⟨⟨⟨⟨runs, _⟩, noBoundary⟩, _⟩, _⟩ := begins
      have state : (beginTick t bank s).scan.state = s.scan.state := rfl
      refine ⟨.of_banks rfl fun hs => hs.congr rfl id id (fun _ is => is), fun hs => ⟨⟨⟨?_, fun _ => runs, ?_, hs.closes⟩,
        hs.frozen⟩, .refl _, fun lane x found => find_foldl_put_max _ _ _ _ _ found⟩⟩
      · intro k begun
        obtain rfl := Option.some.inj begun
        exact cursor
      · intro c closing boundary
        have closing : s.det.closing = some c := closing
        simp [boundaryWaits, closing, boundary] at noBoundary
    · exact .refl s
  · exact .refl s

/-- A tick scan goes on with its origin. -/
theorem onward_updateTick (f : TickScan → TickScan) (origin : ∀ k, (f k).origin = k.origin) (s : State) :
    Onward s (updateTick f s) := by
  refine ⟨.of_banks rfl fun hs => hs.congr rfl id id (fun _ is => is), fun hs => ⟨⟨⟨?_, ?_, ?_, hs.closes⟩, hs.frozen⟩,
    .refl _, fun _ => .refl _⟩⟩
  · intro k found
    obtain ⟨k', flight, rfl⟩ := Option.map_eq_some_iff.1 found
    rw [origin]
    exact hs.cursor k' flight
  · intro flight
    exact hs.runs (by simpa [updateTick] using flight)
  · intro c closing boundary
    simp [updateTick, hs.boundary c closing boundary]

theorem onward_meetTrackParity (lane u : Nat) (s : State) : Onward s (meetTrackParity lane u s) := by
  unfold meetTrackParity
  split
  · exact .refl s
  · exact (onward_updateTick _ (by intro _; rfl) s).trans (onward_takeFault (by decide) _ _)

theorem onward_stackLanes (bank : BankId) (v t : Nat) (c : List (Nat × Nat)) (k : Stack) (s : State) :
    Onward s (stackLanes bank v t c k s).2 := by
  induction c generalizing k s with
  | nil => exact .refl s
  | cons p rest ih =>
    obtain ⟨lane, w⟩ := p
    unfold stackLanes
    dsimp only
    split
    · exact onward_takeFault (by decide) _ s
    · split
      · exact ih k s
      · split
        · exact ih _ s
        · exact ih _ s
        · split
          · exact onward_meetTrackParity _ _ s
          · exact (onward_meetTrackParity _ _ s).trans (ih _ _)

theorem onward_voxelEvaluation (s : State) : Onward s (voxelEvaluation s) := by
  have next (u : State) : Onward u (nextVoxel u) := onward_updateTick _ (by intro _; rfl) u
  have taken (n : Bool) (x : Option Stack) (u : State) : Onward u (takeVoxel n x u) := by
    unfold takeVoxel
    split
    · exact .refl u
    · split
      · exact .refl u
      · exact onward_updateTick _ (by intro _; rfl) u
  unfold voxelEvaluation
  split
  · exact .refl s
  · split
    · unfold evaluateVoxel
      dsimp only
      split
      · exact (onward_takeFault (by decide) _ s).trans (next _)
      · split
        · exact next s
        · exact ((onward_stackLanes _ _ _ _ _ s).trans (taken _ _ _)).trans (next _)
    · exact .refl s

/-! ### Copies and streams -/

theorem onward_copyWord (lane i w : Nat) (p : CopyProgress) : Onward p.state (copyWord lane i w p).state := by
  have written (x : Sample) : Onward p.state (writeStore w x p.state) := Unmoved.onward (by constructor <;> simp)
  have failed (u : State) : Onward u (copyEccFailure lane i u) := by
    unfold copyEccFailure
    split
    · exact .refl u
    · split
      · exact .refl u
      · exact Onward.trans (t := u.setCapture _) (Unmoved.onward (by constructor <;> simp)) (onward_takeFault (by decide) _ _)
  unfold copyWord
  split
  · exact written _
  · exact written _
  · exact written _
  · exact written _
  · exact (written _).trans (failed _)

theorem onward_copyWords (lane n i w : Nat) (p : CopyProgress) : Onward p.state (copyWords lane n i w p).state := by
  induction n generalizing i w p with
  | zero => exact .refl _
  | succ n ih =>
    unfold copyWords
    dsimp only
    split
    · exact onward_copyWord lane i w p
    · exact (onward_copyWord lane i w p).trans (ih _ _ _)

theorem onward_copyStep (s : State) : Onward s (copyStep s) := by
  unfold copyStep
  split
  · split
    · exact .refl s
    · rename_i e _
      have copied := onward_copyWords e.lane e.count e.start (e.extentOffset.getD 0)
        { state := s, omitStart := 0, omitEnd := 0 }
      dsimp only
      split
      · exact copied
      · split
        · exact copied.trans (Unmoved.onward (by constructor <;> simp))
        · exact copied.trans (Unmoved.onward (by constructor <;> simp))
  · exact .refl s

theorem onward_readWords (n w : Nat) (st : Stream) (s : State) : Onward s (readWords n w st s).2.2 := by
  induction n generalizing w st s with
  | zero => exact .refl s
  | succ n ih =>
    have met (w : Nat) : Onward s (meetStoreFailure w st s).2 := by
      unfold meetStoreFailure
      dsimp only
      split
      · exact Unmoved.onward (by constructor <;> simp)
      · split
        · exact .refl s
        · exact onward_takeFault (by decide) _ s
    unfold readWords
    dsimp only
    split
    · exact ih _ _ s
    · exact (met _).trans (ih _ _ _)

theorem onward_snippetFramePlaced (s : State) : Onward s (snippetFramePlaced s) := by
  have placed (st : Stream) (e : PlanEntry) (w : Nat) : Onward s (placeSnippet st e w s) := by
    have built (u : State) (l : Line) (x : Stream) : Onward u ((stopWaiting .commandUnit (u.setLine l)).setCmd
        { u.cmd with executing := some (.streaming x) }) := Unmoved.onward (by constructor <;> simp)
    unfold placeSnippet streamReply
    dsimp only
    refine (onward_readWords (frameWords st e w) (e.extentOffset.getD 0 + w) st s).trans ?_
    split
    · exact built _ _ _
    · exact (built _ _ _).trans (onward_answer _ _ _)
  unfold snippetFramePlaced
  split
  · split
    · exact .refl s
    · split
      · exact placed _ _ _
      · unfold streamWaits
        split
        · exact .refl s
        · exact Unmoved.onward (by constructor <;> simp)
  · exact .refl s

end Sys2Proof.Machine

namespace Sys2Proof.Machine

/-! ### The rows that are no engine command -/

theorem onward_acceptedBlock (lane : Nat) (s : State) : Onward s (acceptedBlock lane s) := by
  have accepted (lane : Nat) (k : Block) (l : Lane) (u : State) : Onward u (acceptBlock lane k l u) := by
    have stored (o : BlockResult) : Onward u (storeBlock lane k o u) :=
      Unmoved.onward (by constructor <;> simp [storeBlock])
    rw [acceptBlock_eq]
    exact (((stored _).trans (onward_setFlagIf _ _ _)).trans (onward_retest _)).trans (onward_waitTestFor _ _)
  unfold acceptedBlock
  split
  · exact .refl s
  · split
    · exact .refl s
    · rename_i k rest _
      refine Onward.trans (t := s.setTracker { s.tracker with blocks := rest }) (Unmoved.onward (by constructor <;> simp)) ?_
      unfold takeBlock
      split
      · exact .refl _
      · split
        · exact .refl _
        · split
          · exact Unmoved.onward (by constructor <;> simp)
          · exact accepted _ _ _ _

theorem onward_laneTimerExpiry (lane : Nat) (s : State) : Onward s (laneTimerExpiry lane s) := by
  unfold laneTimerExpiry
  split
  · exact .refl s
  · split
    · exact .refl s
    · split
      · exact .refl s
      · rename_i e _
        have lost (f : Lane → Lane) : Onward s (updateLane lane f (s.setNow (max s.now e))) :=
          Unmoved.onward (by constructor <;> simp)
        exact (((lost _).trans (onward_setFlagIf _ _ _)).trans (onward_retest _)).trans (onward_waitTestFor _ _)

theorem onward_lineSilenceExpiry (s : State) : Onward s (lineSilenceExpiry s) := by
  unfold lineSilenceExpiry
  split
  · exact .refl s
  · rename_i works
    split
    · exact .refl s
    · have awake : s.notice.frozen = false := by
        simp only [trackerStill, Bool.or_eq_true, not_or, Bool.not_eq_true] at works
        exact works.1
      refine Onward.trans ((Unmoved.onward (by constructor <;> simp)).trans (onward_setFlag .lineSilent _))
        ⟨.of_banks (by simp) fun hs => hs.congr (by simp) (by simp) (by simp [scanning]) (by simp), fun hs =>
          ⟨scanWell_takeSilence hs (by simpa using awake), .of_eq (by simp), fun _ => .of_eq (by simp)⟩⟩

theorem downstreamFrame_executing (f : Bytes) (s : State) :
    (downstreamFrame f s).cmd.executing = s.cmd.executing := by
  have taken (c : Held) (u : State) : (takeCommand c u).cmd.executing = u.cmd.executing := by
    unfold takeCommand
    split <;> simp
  unfold downstreamFrame routeDownstream
  dsimp only
  split
  · split
    · simp
    · split
      · split
        · simp
        · split
          · simp [taken]
          · split <;> simp [taken]
      · simp
  · simp

/-- Every row that is no engine command goes on as it may, but TICK_RESULT_DELIVERY, which takes the cursor to the next tick,
and END_OF_VALIDATION, which writes a bank's DMAX and check. -/
theorem onward_eventBody (i : Instr) (s : State) (undelivered : i ≠ .tickResultDelivery)
    (unvalidated : i ≠ .endOfValidation) : Onward s (eventBody i s) := by
  cases i with
  | acceptedBlock lane => exact onward_acceptedBlock lane s
  | laneTimerExpiry lane => exact onward_laneTimerExpiry lane s
  | lineSilenceExpiry => exact onward_lineSilenceExpiry s
  | downstreamFrameReceived f =>
    have same : (eventBody (.downstreamFrameReceived f) s).cmd.executing = s.cmd.executing := downstreamFrame_executing f s
    refine Unmoved.onward ⟨?_, ?_, ?_, ?_, ?_, ?_, ?_, ?_, ?_, fun bank is => same ▸ is⟩ <;> simp [eventBody]
  | endOfValidation => exact absurd rfl unvalidated
  | snippetFramePlaced => exact onward_snippetFramePlaced s
  | hotStartCompletion =>
    show Onward s (hotStartCompletion s)
    unfold hotStartCompletion
    split
    · exact Onward.trans (t := s.setCmd _) (Unmoved.onward (by constructor <;> simp)) (onward_answer _ _ _)
    · exact .refl s
  | tickScanBegin => exact onward_tickScanBegin s
  | voxelEvaluation => exact onward_voxelEvaluation s
  | tickResultDelivery => exact absurd rfl undelivered
  | closeCompletion => exact onward_closeCompletion s
  | waitTimerExpiry =>
    show Onward s (waitTimerExpiry s)
    unfold waitTimerExpiry
    split
    · exact .refl s
    · split
      · exact .refl s
      · exact Unmoved.onward (by constructor <;> simp)
  | copyStep => exact onward_copyStep s
  | _ => exact Unmoved.onward (by constructor <;> simp [eventBody])

/-! ### The engine commands -/

theorem onward_withBank {body : BankId → State → State} (c : Held) {s : State} (hb : ∀ bank, Onward s (body bank s)) :
    Onward s (withBank body c s) := by
  unfold withBank
  split
  · exact onward_answer _ _ _
  · exact hb _

/-- A bank in validation is LOADING: END BANK LOAD begins no other validation (R53). -/
theorem onward_endBankLoad (c : Held) (s : State) : Onward s (endBankLoad c s) := by
  refine onward_withBank c fun bank => ?_
  dsimp only
  split
  · rename_i loading
    refine ⟨.of_banks rfl fun hs => ⟨hs.selector, hs.pendingReady, hs.pendingScan, hs.scanBank, fun j is => ?_⟩, fun hs =>
      ⟨hs.congr rfl rfl rfl rfl rfl rfl rfl, .refl _, fun _ => .refl _⟩⟩
    cases is
    exact loading
  · exact onward_answer _ _ _

theorem scanMoved_of_same {s t : State} (hs : ScanWell s) (scan : t.scan = s.scan) (det : t.det = s.det)
    (frozen : t.notice.frozen = s.notice.frozen) : ScanMoved s t :=
  ⟨hs.congr (by rw [scan]) (by rw [scan]) (by rw [scan]) (by rw [det]) (by rw [det]) (by rw [det]) frozen,
    .of_eq (by rw [scan]), fun _ => .of_eq (by rw [scan])⟩

theorem onward_switchBank (c : Held) (s : State) : Onward s (switchBank c s) := by
  have pending (x : Option BankId) (ready : ∀ bank, x = some bank → (s.banks.get bank).state = .ready)
      (works : s.scan.state ≠ .idle) : Onward s (s.setBanks { s.banks with pendingSwitch := x }) := by
    have get (bank : BankId) : ({ s.banks with pendingSwitch := x } : Banks).get bank = s.banks.get bank := by
      cases bank <;> rfl
    refine ⟨⟨fun hs => ⟨fun bank => ?_, fun bank is => ?_, fun _ => works, hs.scanBank, fun bank is => ?_⟩, fun bank => ?_⟩,
      fun hs => scanMoved_of_same hs rfl rfl rfl⟩ <;> rw [State.banks_setBanks, get]
    · exact hs.selector bank
    · exact ready bank is
    · exact hs.validating bank is
  refine onward_withBank c fun bank => ?_
  split
  · unfold switchAtOnce
    split
    · rename_i ready
      refine .trans ?_ (onward_answer _ _ _)
      exact ⟨⟨fun hs => hs.activate ready rfl fun _ is => is, contents_activate _ _⟩, fun hs =>
        scanMoved_of_same hs rfl rfl rfl⟩
    all_goals exact onward_answer _ _ _
  · rename_i works
    unfold switchPending
    split
    · rename_i ready
      refine (pending _ ?_ works).trans (onward_answer _ _ _)
      rintro _ ⟨⟩
      exact ready
    · exact (pending none (fun _ is => (nomatch is)) works).trans (onward_answer _ _ _)
    all_goals exact onward_answer _ _ _

/-- A scan starts in an engine that is not FROZEN, with an ACTIVE bank, and its cursor does not move back (R67, R68). -/
theorem onward_startScan (c : Held) (s : State) : Onward s (startScan c s) := by
  unfold startScan
  split
  · exact onward_answer _ _ _
  · rename_i idle
    simp only [bne_iff_ne, ne_eq, not_not] at idle
    split
    · exact onward_answer _ _ _
    · split
      · rename_i bank l active _
        split
        · refine .trans (.trans ?_ (onward_answer _ _ _)) (onward_retest _)
          refine ⟨.of_banks rfl fun hs => ?_, fun hs => ⟨?_, ?_, fun _ => .refl _⟩⟩
          · exact ⟨hs.selector, hs.pendingReady, by simp, by simp [active], hs.validating⟩
          · have still : s.scan.tick = none := by
              by_contra flight
              have runs := hs.runs (Option.isSome_iff_ne_none.2 flight)
              simp [not_scanning_of_idle idle] at runs
            have awake : s.notice.frozen = false := by
              rw [Bool.eq_false_iff, ne_eq, ← hs.frozen, idle]
              decide
            exact ⟨⟨by simp [still], by simp [still], hs.boundary, hs.closes⟩, by simp [awake]⟩
          · intro x cursor
            exact ⟨_, rfl, by simp [startCursor, cursor]⟩
        · exact onward_answer _ _ _
      · exact onward_answer _ _ _

theorem onward_haltScan (c : Held) (s : State) : Onward s (haltScan c s) := by
  unfold haltScan
  split
  · rename_i running
    have runs : scanning s = true := by simp [scanning, running]
    refine .trans ?_ (onward_answer _ _ _)
    exact ⟨.of_banks rfl fun hs => hs.congr rfl (by simp) (fun _ => runs) (by simp), fun hs =>
      ⟨⟨⟨hs.cursor, by simp [scanning], hs.boundary, hs.closes⟩, by simp [hs.awake runs]⟩, .refl _, fun _ => .refl _⟩⟩
  all_goals exact onward_answer _ _ _

theorem onward_clearScan (c : Held) (s : State) : Onward s (clearScan c s) := by
  unfold clearScan
  split
  · exact Unmoved.onward (by constructor <;> simp)
  · rename_i closed
    exact .trans ⟨selector_clearScanEffect s, fun hs => scan_clearScanEffect hs (by simpa using closed)⟩
      (onward_answer _ _ _)

theorem onward_setLane (c : Held) (s : State) : Onward s (setLane c s) := by
  unfold setLane
  dsimp only
  split
  · exact onward_answer _ _ _
  · split
    · exact onward_answer _ _ _
    · split
      · exact Onward.trans (Unmoved.onward (by constructor <;> simp)) (onward_answer _ _ _)
      · split
        · exact Unmoved.onward (by constructor <;> simp)
        · exact (Onward.trans (Unmoved.onward (by constructor <;> simp)) (onward_answer _ _ _)).trans (onward_retest _)

/-- The commands that write a bank's contents, change the cut-offs or start the engine anew. -/
def loadsOrResets (i : Instr) : Bool :=
  match i with
  | .beginBankLoad | .loadRows | .setParameters | .restart => true
  | _ => false

/-- Every other command goes on as it may. -/
theorem onward_commandBody (i : Instr) (c : Held) (s : State) (plain : loadsOrResets i = false) :
    Onward s (commandBody i c s) := by
  have replied (k : ReplyCode) (x : Bytes) {t : State} (h : Onward s t) : Onward s (answer k x t) :=
    h.trans (onward_answer k x t)
  cases i with
  | setParameters | beginBankLoad | loadRows | restart => cases plain
  | setAddress =>
    show Onward s (setAddress c s)
    unfold setAddress
    split
    · exact onward_answer _ _ _
    · exact replied _ _ (Unmoved.onward (by constructor <;> simp))
    · split
      · refine replied _ _ ?_
        split
        · exact Unmoved.onward (by constructor <;> simp)
        · exact Unmoved.onward (by constructor <;> simp)
      · exact onward_answer _ _ _
  | readPortCounters =>
    refine replied _ _ ?_
    split
    · exact Unmoved.onward (by constructor <;> simp)
    · exact .refl s
  | readStatus | readParameters | readNotices | readFault => exact onward_answer _ _ _
  | loadLaneMap =>
    show Onward s (loadLaneMap c s)
    unfold loadLaneMap
    dsimp only
    split
    · exact onward_answer _ _ _
    · split
      · refine replied _ _ (Onward.trans (t := replaceMap (mapEntries c) s) ?_ (onward_waitTest _))
        exact Unmoved.onward (by constructor <;> simp [replaceMap])
      · exact onward_answer _ _ _
  | setLane => exact onward_setLane c s
  | readLane =>
    show Onward s (readLane c s)
    unfold readLane
    dsimp only
    split
    · exact onward_answer _ _ _
    · split
      · exact onward_answer _ _ _
      · refine replied _ _ ?_
        split
        · exact Unmoved.onward (by constructor <;> simp)
        · exact .refl s
  | readLaneChanges => exact replied _ _ (Unmoved.onward (by constructor <;> simp))
  | endBankLoad => exact onward_endBankLoad c s
  | switchBank => exact onward_switchBank c s
  | readBank => exact onward_withBank c fun _ => onward_answer _ _ _
  | readRow =>
    show Onward s (readRow c s)
    refine onward_withBank c fun bank => ?_
    dsimp only
    repeat' split
    all_goals exact onward_answer _ _ _
  | startScan => exact onward_startScan c s
  | haltScan => exact onward_haltScan c s
  | clearScan => exact onward_clearScan c s
  | readScan =>
    refine replied _ _ ?_
    split
    · exact Unmoved.onward (by constructor <;> simp [Scan.clearCounters])
    · exact .refl s
  | readDetector =>
    refine replied _ _ ?_
    split
    · exact Unmoved.onward (by constructor <;> simp [Detector.clearCounters])
    · exact .refl s
  | fetchEvent =>
    show Onward s (fetchEvent c s)
    unfold fetchEvent
    dsimp only
    repeat' split
    all_goals exact onward_answer _ _ _
  | readSnippet =>
    show Onward s (readSnippet c s)
    unfold readSnippet
    dsimp only
    split
    · exact onward_answer _ _ _
    · split_ifs
      iterate 4 · exact onward_answer _ _ _
      · exact Unmoved.onward (by constructor <;> simp)
  | releaseEvent =>
    show Onward s (releaseEvent c s)
    unfold releaseEvent
    split
    · exact onward_answer _ _ _
    · split
      · exact onward_answer _ _ _
      · split
        · exact onward_answer _ _ _
        · exact replied _ _ (Unmoved.onward (by constructor <;> simp))
  | clearNotices => exact replied _ _ (Unmoved.onward (by constructor <;> simp))
  | setNoticeMask => exact replied _ _ (Unmoved.onward (by constructor <;> simp))
  | clearFault =>
    show Onward s (clearFault c s)
    unfold clearFault
    split
    · exact onward_answer _ _ _
    · exact replied _ _ (Unmoved.onward (by constructor <;> simp))
  | _ => exact .refl s

/-! ### The selector and the banks over a whole step -/

/-- What a step leaves of the selector and of the banks that it finds, and leaves, READY or ACTIVE. -/
structure SelectorStep (s t : State) : Prop where
  agrees : SelectorAgrees t
  contents : ∀ bank, (s.banks.get bank).state = .ready ∨ (s.banks.get bank).state = .active →
    (t.banks.get bank).state = .ready ∨ (t.banks.get bank).state = .active →
    { t.banks.get bank with state := (s.banks.get bank).state } = s.banks.get bank

theorem SelectorKept.step {s t : State} (h : SelectorKept s t) (hs : SelectorAgrees s) : SelectorStep s t :=
  ⟨h.agrees hs, fun bank _ _ => h.contents bank⟩

theorem SelectorStep.onward {s t u : State} (h : SelectorStep s t) (k : Onward t u) (banks : u.banks = t.banks) :
    SelectorStep s u :=
  ⟨k.agrees h.agrees, banks ▸ h.contents⟩

@[simp] theorem Banks.set_active (k : Banks) (i : BankId) (x : Bank) : (k.set i x).active = k.active := by cases i <;> rfl

@[simp] theorem Banks.set_pendingSwitch (k : Banks) (i : BankId) (x : Bank) : (k.set i x).pendingSwitch = k.pendingSwitch := by
  cases i <;> rfl

/-- A bank that is neither selected nor the target of a pending switch is written: its load begins, goes on, or ends. -/
theorem SelectorAgrees.setBank {s t : State} (h : SelectorAgrees s) {i : BankId} {x : Bank}
    (banks : t.banks = s.banks.set i x) (scan : t.scan = s.scan) (unselected : (s.banks.get i).state ≠ .active)
    (unpending : s.banks.pendingSwitch ≠ some i) (load : (s.banks.get i).state = .loading ∨ x.state = .loading)
    (inactive : x.state ≠ .active)
    (validating : ∀ j, t.cmd.executing = some (.validating j) →
      s.cmd.executing = some (.validating j) ∧ (j = i → x.state = .loading)) : SelectorStep s t := by
  refine ⟨⟨fun j => ?_, fun j is => ?_, ?_, ?_, fun j is => ?_⟩, fun j => ?_⟩
  · rw [banks, Banks.set_active, Banks.get_set]
    split
    · rename_i same
      simp [inactive, same, h.selector i, unselected]
    · exact h.selector j
  · rw [banks, Banks.set_pendingSwitch] at is
    have other : j ≠ i := fun same => unpending (same ▸ is)
    rw [banks, Banks.get_set, if_neg other]
    exact h.pendingReady j is
  · rw [banks, Banks.set_pendingSwitch, scan]
    exact h.pendingScan
  · rw [banks, Banks.set_active, scanning_congr (s := s) (t := t) (by rw [scan])]
    exact h.scanBank
  · obtain ⟨was, loading⟩ := validating j is
    rw [banks, Banks.get_set]
    split
    · exact loading ‹_›
    · exact h.validating j was
  · rw [banks, Banks.get_set]
    split
    · rename_i same
      subst same
      rcases load with was | is <;> simp_all
    · exact fun _ _ => rfl

theorem selector_beginBankLoad (c : Held) {s : State} (hs : SelectorAgrees s) : SelectorStep s (beginBankLoad c s) := by
  have refused (k : ReplyCode) : SelectorStep s (answer k [] s) := (onward_answer k [] s).toSelectorKept.step hs
  unfold beginBankLoad withBank
  split
  · exact refused _
  · rename_i bank _
    dsimp only
    split
    · exact refused _
    · split
      · exact refused _
      · rename_i unselected
        split
        · exact refused _
        · rename_i unpending
          refine .onward ?_ (onward_answer _ _ _) (by simp)
          exact hs.setBank rfl rfl unselected unpending (.inr rfl) (by simp [Bank.loading]) fun _ is => ⟨is, fun _ => rfl⟩

theorem SelectorAgrees.unpending {s : State} (h : SelectorAgrees s) {i : BankId}
    (loading : (s.banks.get i).state = .loading) : s.banks.pendingSwitch ≠ some i := by
  intro is
  simp [h.pendingReady i is] at loading

theorem selector_loadRows (c : Held) {s : State} (hs : SelectorAgrees s) : SelectorStep s (loadRows c s) := by
  have refused (k : ReplyCode) : SelectorStep s (answer k [] s) := (onward_answer k [] s).toSelectorKept.step hs
  unfold loadRows withBank
  split
  · exact refused _
  · rename_i bank _
    dsimp only
    split
    · exact refused _
    · rename_i loading
      simp only [bne_iff_ne, ne_eq, not_not] at loading
      split
      · exact refused _
      · split
        · exact refused _
        · refine .onward ?_ (onward_answer _ _ _) (by simp)
          have written : (Bank.writeRows c (s.banks.get bank)).state = .loading := loading
          exact hs.setBank rfl rfl (by simp [loading]) (hs.unpending loading) (.inl loading) (by simp [written])
            fun _ is => ⟨is, fun _ => written⟩

/-- A validation that ends writes its bank, or leaves the banks as they are. -/
theorem endValidation_cases (bank : BankId) (s : State) : Onward s (endValidation bank s)
    ∨ ∃ x k y, k.state = .ready ∧ endValidation bank s
        = answer x y (updateBank (s.setCmd { s.cmd with executing := none }) bank fun _ => k) := by
  have ended : Onward s (s.setCmd { s.cmd with executing := none }) := Unmoved.onward (by constructor <;> simp)
  unfold endValidation
  dsimp only
  split
  · exact .inl (ended.trans (onward_answer _ _ _))
  · exact .inl ((ended.trans (onward_takeFault (by decide) _ _)).trans (onward_answer _ _ _))
  · rename_i live dmax reg _
    split
    · exact .inr ⟨.ok, { s.banks.get bank with state := .ready, dmax := some dmax, check := some (~~~reg) }, _, rfl, rfl⟩
    · exact .inl (ended.trans (onward_answer _ _ _))

theorem selector_endOfValidation {s : State} (hs : SelectorAgrees s) : SelectorStep s (endOfValidation s) := by
  unfold endOfValidation
  split
  · rename_i bank validating
    have loading := hs.validating bank validating
    obtain kept | ⟨x, k, y, ready, ends⟩ := endValidation_cases bank s
    · exact kept.toSelectorKept.step hs
    · rw [ends]
      refine .onward ?_ (onward_answer _ _ _) (by simp)
      exact hs.setBank rfl rfl (by simp [loading]) (hs.unpending loading) (.inl loading) (by simp [ready])
        fun _ is => (nomatch is)
  · exact (Onward.refl s).toSelectorKept.step hs

/-- A change of rate or tick leaves the scan alone but for the cut-offs, which a change of tick sets to none (R67, R167). -/
theorem changeEffects_scan (rate tick : Bool) (s : State) :
    (changeEffects rate tick s).scan = if tick then { s.scan with cutoffs := [] } else s.scan := by
  cases rate <;> cases tick <;> simp [changeEffects, clearTicks, clearRings, loseLanes]

theorem changeEffects_scanState (rate tick : Bool) (s : State) :
    (changeEffects rate tick s).scan.state = s.scan.state := by
  rw [changeEffects_scan]
  split <;> rfl

theorem selector_setParameters (c : Held) (s : State) : SelectorKept s (setParameters c s) := by
  have changed (rate tick : Bool) (u : State) : SelectorKept u (changeEffects rate tick u) :=
    .of_banks (by simp) fun hs => hs.congr (by simp) (by simp [changeEffects_scanState])
      (by simp [scanning, changeEffects_scanState]) (by simp)
  have stored (p : Params) : SelectorKept s (s.setParams p) := (Unmoved.onward (by constructor <;> simp)).toSelectorKept
  unfold setParameters
  dsimp only
  split
  · exact (onward_answer _ _ _).toSelectorKept
  · refine .trans ?_ (onward_answer _ _ _).toSelectorKept
    split
    · exact ((stored _).trans (changed _ _ _)).trans (onward_waitTest _).toSelectorKept
    · exact (stored _).trans (changed _ _ _)

theorem bankHotStart_of {k : Bank} (h : k.hotStart.state = .ready ∨ k.hotStart.state = .active) : k.hotStart = k := by
  unfold Bank.hotStart at h ⊢
  split at h
  · simp [Bank.cold] at h
  · rename_i other
    rw [if_neg other]

theorem banksHotStart_get (k : Banks) (bank : BankId) : k.hotStart.get bank = (k.get bank).hotStart := by
  cases bank <;> rfl

/-- A hot start keeps the selector, cancels a pending switch, and empties a LOADING bank (R49). -/
theorem selector_hotStart (c : Held) {s : State} (hs : SelectorAgrees s) : SelectorStep s (hotStart c s) := by
  refine ⟨⟨fun bank => ?_, fun _ is => (nomatch is), fun is => (nomatch is), fun is => (nomatch is), fun _ is => (nomatch is)⟩,
    fun bank _ after => ?_⟩
  · show s.banks.active = some bank ↔ (s.banks.hotStart.get bank).state = .active
    rw [hs.selector, banksHotStart_get]
    unfold Bank.hotStart
    split
    · rename_i loading
      simp [loading, Bank.cold]
    · rfl
  · change (s.banks.hotStart.get bank).state = .ready ∨ (s.banks.hotStart.get bank).state = .active at after
    show { s.banks.hotStart.get bank with state := (s.banks.get bank).state } = s.banks.get bank
    rw [banksHotStart_get] at after ⊢
    rw [bankHotStart_of after]

theorem selector_commandBody (i : Instr) (c : Held) {s : State} (hs : SelectorAgrees s) :
    SelectorStep s (commandBody i c s) := by
  by_cases plain : loadsOrResets i = false
  · exact (onward_commandBody i c s plain).toSelectorKept.step hs
  · cases i with
    | beginBankLoad => exact selector_beginBankLoad c hs
    | loadRows => exact selector_loadRows c hs
    | setParameters => exact (selector_setParameters c s).step hs
    | restart => exact selector_hotStart c hs
    | _ => exact absurd rfl plain

theorem selector_eventBody (i : Instr) {s : State} (hs : SelectorAgrees s) : SelectorStep s (eventBody i s) := by
  by_cases delivered : i = .tickResultDelivery
  · subst delivered
    exact (selector_tickResultDelivery s).step hs
  · by_cases validated : i = .endOfValidation
    · subst validated
      exact selector_endOfValidation hs
    · exact (onward_eventBody i s delivered validated).toSelectorKept.step hs

theorem selector_coldStart (cause : ColdCause) (s : State) : SelectorStep s (coldStart cause s) := by
  have empty (bank : BankId) : ((coldStart cause s).banks.get bank).state = .empty := by cases bank <;> rfl
  refine ⟨⟨fun bank => ?_, fun _ is => (nomatch is), fun is => (nomatch is), fun is => (nomatch is), fun _ is => (nomatch is)⟩,
    fun bank _ after => ?_⟩
  · rw [empty]
    exact ⟨fun is => (nomatch is), fun is => (nomatch is)⟩
  · simp [empty] at after

theorem selector_exec {i : Instr} {s t : State} (hs : SelectorAgrees s) (h : exec i s = .next t) : SelectorStep s t :=
  exec_keeps (fun u hu => hu.onward (onward_settleLine u) (by simp))
    (fun k x => (onward_answer k x s).toSelectorKept.step hs) ((Onward.refl s).toSelectorKept.step hs)
    (selector_eventBody i hs) (fun c _ _ _ _ => selector_commandBody i c hs) (fun cause _ => selector_coldStart cause s)
    (fun _ => (Unmoved.onward (t := s.setResetHeld false) (by constructor <;> simp)).toSelectorKept.step hs) h

/-! ### The scan over a whole step -/

/-- The row is a start: COLD_START, or the RESTART command (R177, R178). -/
def IsStart (i : Instr) : Prop := (∃ cause, i = .coldStart cause) ∨ i = .restart

/-- What the row `i` leaves of the scan: all right, and but for a start the cursor not moved back, nor a cut-off while TICK_LEN
stays. -/
structure ScanStep (i : Instr) (s t : State) : Prop where
  well : ScanWell t
  cursor : ¬IsStart i → ∀ x, s.scan.cursor = some x → x + 1 < 2 ^ 48 → ∃ y, t.scan.cursor = some y ∧ x ≤ y
  cutoffs : ¬IsStart i → t.params.lane.tickLen = s.params.lane.tickLen →
    ∀ lane, NotBelow (Memory.find s.scan.cutoffs lane) (Memory.find t.scan.cutoffs lane)

theorem ScanMoved.step {s t : State} (h : ScanMoved s t) (i : Instr) : ScanStep i s t :=
  ⟨h.well, fun _ x hx _ => h.cursor x hx, fun _ _ => h.cutoffs⟩

theorem ScanStep.onward {i : Instr} {s t u : State} (h : ScanStep i s t) (k : Onward t u) (params : u.params = t.params) :
    ScanStep i s u := by
  have moved := k.scan h.well
  refine ⟨moved.well, fun plain x hx below => ?_, fun plain same lane => ?_⟩
  · obtain ⟨y, hy, le⟩ := h.cursor plain x hx below
    obtain ⟨z, hz, le'⟩ := moved.cursor y hy
    exact ⟨z, hz, le.trans le'⟩
  · exact (h.cutoffs plain (params ▸ same) lane).trans (moved.cutoffs lane)

theorem scan_tickResultDelivery (i : Instr) {s : State} (hs : ScanWell s) : ScanStep i s (tickResultDelivery s) := by
  have unmoved : ScanStep i s s := ((Onward.refl s).scan hs).step i
  unfold tickResultDelivery
  split
  · exact unmoved
  · rename_i k tick
    split
    · exact unmoved
    · rename_i walked
      simp only [Bool.or_eq_true, not_or, Bool.not_eq_true, Option.isSome_eq_false_iff, Option.isNone_iff_eq_none] at walked
      obtain ⟨well, none, cutoffs, cursor⟩ := scan_deliver hs tick walked.2
      have delivered : ScanStep i s (deliver k.result s) :=
        ⟨well, fun _ => cursor, fun _ _ lane => .of_eq (by rw [cutoffs])⟩
      dsimp only
      split
      · exact delivered
      · have moved := scan_tickBoundary well none
        refine ⟨moved.well, fun plain x hx below => ?_, fun plain _ lane => ?_⟩
        · obtain ⟨y, hy, le⟩ := delivered.cursor plain x hx below
          obtain ⟨z, hz, le'⟩ := moved.cursor y hy
          exact ⟨z, hz, le.trans le'⟩
        · exact (delivered.cutoffs plain (by simp) lane).trans (moved.cutoffs lane)

theorem scan_endOfValidation {s : State} (hs : ScanWell s) : ScanMoved s (endOfValidation s) := by
  unfold endOfValidation
  split
  · rename_i bank _
    obtain kept | ⟨x, k, y, _, ends⟩ := endValidation_cases bank s
    · exact kept.scan hs
    · rw [ends]
      exact scanMoved_of_same hs (by simp) (by simp) (by simp)
  · exact (Onward.refl s).scan hs

/-- Only a change of TICK_LEN, which is refused while the scan scans, takes the cut-offs back (R67, R167). -/
theorem scan_setParameters (i : Instr) (c : Held) {s : State} (hs : ScanWell s) : ScanStep i s (setParameters c s) := by
  have changed (p : Params) (rate : Bool) :
      ScanStep i s (changeEffects rate (changesTick s.params p) (s.setParams p)) := by
    refine ⟨hs.congr ?_ ?_ ?_ (by simp) (by simp) (by simp) (by simp), fun _ x hx _ => ⟨x, ?_, le_rfl⟩, fun _ same lane => ?_⟩
    iterate 4 · rw [changeEffects_scan]; split <;> simp [*]
    · have ticks : changesTick s.params p = false := by
        have same : p.lane.tickLen = s.params.lane.tickLen := by simpa using same
        simp [changesTick, same]
      exact .of_eq (by simp [changeEffects_scan, ticks])
  unfold setParameters
  dsimp only
  split
  · exact ((onward_answer _ _ _).scan hs).step i
  · refine .onward ?_ (onward_answer _ _ _) (by simp)
    split
    · exact (changed _ _).onward (onward_waitTest _) (by simp)
    · exact changed _ _

theorem scan_commandBody (i : Instr) (c : Held) {s : State} (hs : ScanWell s) : ScanStep i s (commandBody i c s) := by
  by_cases plain : loadsOrResets i = false
  · exact ((onward_commandBody i c s plain).scan hs).step i
  · cases i with
    | beginBankLoad | loadRows =>
      exact (scanMoved_of_same hs (by simp [commandBody]) (by simp [commandBody]) (by simp [commandBody])).step _
    | setParameters => exact scan_setParameters _ c hs
    | restart =>
      refine ⟨scanWell_resting rfl rfl ?_, fun plain => absurd (.inr rfl) plain, fun plain => absurd (.inr rfl) plain⟩
      simp [commandBody, hotStart, Scan.started, NoticeUnit.started]
    | _ => exact absurd rfl plain

theorem scan_eventBody (i : Instr) {s : State} (hs : ScanWell s) : ScanStep i s (eventBody i s) := by
  by_cases delivered : i = .tickResultDelivery
  · subst delivered
    exact scan_tickResultDelivery _ hs
  · by_cases validated : i = .endOfValidation
    · subst validated
      exact (scan_endOfValidation hs).step _
    · exact ((onward_eventBody i s delivered validated).scan hs).step i

theorem scan_exec {i : Instr} {s t : State} (hs : ScanWell s) (h : exec i s = .next t) : ScanStep i s t := by
  have cold (cause : ColdCause) (is : i = .coldStart cause) : ScanStep i s (coldStart cause s) := by
    refine ⟨scanWell_resting rfl rfl ?_, fun plain => absurd (.inl ⟨cause, is⟩) plain,
      fun plain => absurd (.inl ⟨cause, is⟩) plain⟩
    simp [coldStart, State.reset, Scan.started, NoticeUnit.started]
  exact exec_keeps (fun u hu => hu.onward (onward_settleLine u) (by simp)) (fun k x => ((onward_answer k x s).scan hs).step i)
    (((Onward.refl s).scan hs).step i) (scan_eventBody i hs) (fun c _ _ _ _ => scan_commandBody i c hs) cold
    (fun _ => ((Unmoved.onward (t := s.setResetHeld false) (by constructor <;> simp)).scan hs).step i) h

theorem onward_passMillisecond (s : State) : Onward s (passMillisecond s) := by
  unfold passMillisecond
  split
  · exact .refl s
  · exact Unmoved.onward (by constructor <;> simp)

theorem SelectorAgrees.setPending {s : State} (h : SelectorAgrees s) (rest : List Instr) :
    SelectorAgrees (s.setPending rest) := ⟨h.selector, h.pendingReady, h.pendingScan, h.scanBank, h.validating⟩

theorem ScanWell.setPending {s : State} (h : ScanWell s) (rest : List Instr) : ScanWell (s.setPending rest) :=
  ⟨⟨h.cursor, h.runs, h.boundary, h.closes⟩, h.frozen⟩

theorem not_isStart {s : State} {i : Instr} {rest : List Instr} (front : s.pending = i :: rest)
    (plain : startInFront s = false) : ¬IsStart i := by
  rintro (⟨cause, rfl⟩ | rfl) <;> simp [startInFront, front] at plain

/-- Settles O57: each row goes on as `Onward` says, but for the ones that load a bank, deliver a tick, change TICK_LEN or start
the engine, which are said by `SelectorStep` and `ScanStep`. -/
theorem selectorStaysRight : Obligations.SelectorStaysRight := by
  refine ⟨fun s t hs h => ?_, fun s t scan frozen h => ?_⟩
  · unfold step at h
    split at h
    · injection h with h
      subst h
      have passed := (onward_passMillisecond s).toSelectorKept.step hs
      exact ⟨passed.agrees, passed.contents⟩
    · have stepped := selector_exec (hs.setPending _) h
      exact ⟨stepped.agrees, stepped.contents⟩
  · have hs : ScanWell s := ⟨scan, frozen.scan⟩
    unfold step at h
    split at h
    · injection h with h
      subst h
      have passed := (onward_passMillisecond s).scan hs
      exact ⟨passed.well.toScanAgrees, fun x hx _ _ => passed.cursor x hx, fun lane x hx _ _ => passed.cutoffs lane x hx⟩
    · rename_i i rest front
      have stepped := scan_exec (hs.setPending rest) h
      exact ⟨stepped.well.toScanAgrees, fun x hx below plain => stepped.cursor (not_isStart front plain) x hx below,
        fun lane x hx plain same => stepped.cutoffs (not_isStart front plain) same lane x hx⟩

end Sys2Proof.Machine

namespace Sys2Proof.Machine

/-! ## The bank commands (R50 to R63) -/

/-! ### A command that is refused before its own handling -/

/-- A command whose parameters do not fit is answered BAD_REQUEST (R159, check 2). -/
theorem exec_misfit {i : Instr} {code : Nat} {s : State} {c : Held} {rest : List Held} (hi : commandCode i = some code)
    (h : Begins s code c rest) (misfit : paramsFit i c = false) :
    exec i s = .next (replied .badRequest [] c rest s) := by
  rw [exec_command i s code hi, ← settleLine_answer _ _ h.held h.toOwnRoom]
  simp [runCommand, liveLine, live, h.live, beginHeld, h.idle, h.held, h.code, checked, misfit]

/-- A command that is not served while FROZEN is answered FROZEN (R159, check 3; R176). -/
theorem exec_frozen {i : Instr} {code : Nat} {s : State} {c : Held} {rest : List Held} (hi : commandCode i = some code)
    (h : Begins s code c rest) (fits : paramsFit i c = true) (frozen : s.notice.frozen = true)
    (refused : refusedFrozen i = true) : exec i s = .next (replied .frozen [] c rest s) := by
  rw [exec_command i s code hi, ← settleLine_answer _ _ h.held h.toOwnRoom]
  simp [runCommand, liveLine, live, h.live, beginHeld, h.idle, h.held, h.code, checked, fits, frozen, refused]

/-- A command served in a state that is not FROZEN: its own handling, and the line settled. -/
theorem exec_served {i : Instr} {code : Nat} {s : State} {c : Held} {rest : List Held} (hi : commandCode i = some code)
    (h : Begins s code c rest) (fits : paramsFit i c = true) (awake : s.notice.frozen = false) :
    exec i s = .next (settleLine (commandBody i c s)) :=
  exec_begins hi h.toOldest fits (by simp [awake])

/-- The command's own handling comes to a reply, in a state that keeps the Command Unit and the line. -/
theorem settled_reply {s t u : State} {code : Nat} {c : Held} {rest : List Held} {k : ReplyCode} {x : Bytes}
    (h : Begins s code c rest) (body : u = answer k x t) (cmd : t.cmd = s.cmd) (line : t.line = s.line) :
    (.next (settleLine u) : Host.Outcome State Fault Refusal) = .next (replied k x c rest t) := by
  rw [body]
  exact reply_placed k x h cmd (by rw [line]) (by rw [line])

theorem bankOfCode_above {n : Nat} (h : 1 < n) : bankOfCode n = none := by
  match n, h with
  | n + 2, _ => rfl

theorem withBank_none {body : BankId → State → State} {c : Held} (s : State) (above : 1 < c.byte 0) :
    withBank body c s = answer .badRequest [] s := by
  unfold withBank
  rw [bankOfCode_above above]

theorem withBank_some {body : BankId → State → State} {c : Held} {bank : BankId} (s : State)
    (named : bankOfCode (c.byte 0) = some bank) : withBank body c s = body bank s := by
  unfold withBank
  rw [named]

/-! ### BEGIN BANK LOAD and END BANK LOAD -/

theorem beginBankLoad_of_bank {c : Held} {bank : BankId} (s : State) (named : bankOfCode (c.byte 0) = some bank) :
    beginBankLoad c s =
      if c.field 1 2 = 0 ∨ 4096 < c.field 1 2 then answer .badRequest [] s
      else if (s.banks.get bank).state = .active ∨ s.banks.pendingSwitch = some bank then answer .busy [] s
      else answer .ok [] (updateBank s bank fun _ => Bank.loading (c.field 1 2) (c.field 3 2)) := by
  unfold beginBankLoad
  rw [withBank_some s named]
  simp only [Config.maxVoxels, Bool.or_eq_true, decide_eq_true_eq]
  split_ifs <;> simp_all

theorem endBankLoad_of_bank {c : Held} {bank : BankId} (s : State) (named : bankOfCode (c.byte 0) = some bank) :
    endBankLoad c s = if (s.banks.get bank).state = .loading then s.setCmd { s.cmd with executing := some (.validating bank) }
      else answer .notReady [0] s := by
  unfold endBankLoad
  rw [withBank_some s named]
  rfl

/-- Settles O33: the forms are the branches of `beginBankLoad_of_bank` and `endBankLoad_of_bank`. -/
theorem bankLoadsBeginAndEnd : Obligations.BankLoadsBeginAndEnd := by
  refine ⟨fun s c rest h awake => ⟨fun bad => ?_, fun bank five named => ?_⟩, fun s c rest h one awake => ?_⟩
  · by_cases five : c.params.length = 5
    · have above : 1 < c.byte 0 := bad.resolve_left fun no => no five
      rw [exec_served (i := .beginBankLoad) rfl h (by simp [paramsFit, fixedBytes, five]) awake]
      have refused : beginBankLoad c s = answer .badRequest [] s := withBank_none s above
      exact settled_reply h refused rfl rfl
    · exact exec_misfit (i := .beginBankLoad) rfl h (by simp [paramsFit, fixedBytes, five])
  · rw [exec_served (i := .beginBankLoad) rfl h (by simp [paramsFit, fixedBytes, five]) awake]
    have body := beginBankLoad_of_bank s named
    refine ⟨fun range => ?_, fun lo hi => ⟨fun busy => ?_, fun unselected unpending => ?_⟩⟩
    · rw [if_pos range] at body
      exact settled_reply h body rfl rfl
    · rw [if_neg (by omega), if_pos busy] at body
      exact settled_reply h body rfl rfl
    · rw [if_neg (by omega), if_neg (by simp [unselected, unpending])] at body
      exact settled_reply h body rfl rfl
  · rw [exec_served (i := .endBankLoad) rfl h (by simp [paramsFit, fixedBytes, one]) awake]
    refine ⟨fun above => ?_, fun bank named => ?_⟩
    · have refused : endBankLoad c s = answer .badRequest [] s := withBank_none s above
      exact settled_reply h refused rfl rfl
    have body := endBankLoad_of_bank s named
    refine ⟨fun unloaded => ?_, fun loading => ?_⟩
    · rw [if_neg unloaded] at body
      exact settled_reply h body rfl rfl
    · rw [if_pos loading] at body
      rw [← waiting_begins _ h.held h.noWaiter, ← body]
      rfl

/-! ### SWITCH BANK -/

theorem activate_of_unselected {k : Banks} (bank : BankId) (none : k.active = none) : k.activate bank =
    { k.set bank { k.get bank with state := .active } with active := some bank, pendingSwitch := .none } := by
  simp [Banks.activate, none]

theorem activate_of_other {k : Banks} (bank : BankId) (other : k.active = some bank.other) : k.activate bank =
    { (k.set bank { k.get bank with state := .active }).set bank.other { k.get bank.other with state := .ready } with
      active := some bank, pendingSwitch := none } := by
  cases bank <;> simp [Banks.activate, other, BankId.other, Banks.set, Banks.get]

theorem switchBank_of_bank {c : Held} {bank : BankId} (s : State) (named : bankOfCode (c.byte 0) = some bank) :
    switchBank c s = if s.scan.state = .idle then switchAtOnce bank s else switchPending bank s := by
  unfold switchBank
  rw [withBank_some s named]

/-- Settles O37: SWITCH BANK at once or as a pending switch, by the state of the bank it names. -/
theorem switchBankForms : Obligations.SwitchBankForms := by
  intro s c rest h
  have fits (one : c.params.length = 1) : paramsFit .switchBank c = true := by simp [paramsFit, fixedBytes, one]
  refine ⟨fun other => ?_, fun one frozen => ?_, fun one awake above => ?_, fun bank one awake named => ?_⟩
  · exact exec_misfit (i := .switchBank) rfl h (by simp [paramsFit, fixedBytes, other])
  · exact exec_frozen (i := .switchBank) rfl h (fits one) frozen rfl
  · rw [exec_served (i := .switchBank) rfl h (fits one) awake]
    have refused : switchBank c s = answer .badRequest [] s := withBank_none s above
    exact settled_reply h refused rfl rfl
  · rw [exec_served (i := .switchBank) rfl h (fits one) awake]
    have body := switchBank_of_bank s named
    have pending (works : s.scan.state = .running ∨ s.scan.state = .halting) :
        switchBank c s = switchPending bank s := by
      rw [body, if_neg]
      rintro idle
      simp [idle] at works
    refine ⟨fun unready => ?_, fun idle active => ?_, fun idle ready unselected => ?_, fun idle ready other => ?_,
      fun works ready => ?_, fun works active => ?_⟩
    · refine settled_reply h (body.trans ?_) rfl rfl
      rcases unready with state | state <;> simp [switchAtOnce, switchPending, state]
    · rw [if_pos idle, switchAtOnce, active] at body
      exact settled_reply h body rfl rfl
    · rw [if_pos idle, switchAtOnce, ready] at body
      rw [← activate_of_unselected bank unselected]
      exact settled_reply h body rfl rfl
    · rw [if_pos idle, switchAtOnce, ready] at body
      rw [← activate_of_other bank other]
      exact settled_reply h body rfl rfl
    · have placed := pending works
      rw [switchPending, ready] at placed
      exact settled_reply h placed rfl rfl
    · have cancelled := pending works
      rw [switchPending, active] at cancelled
      exact settled_reply h cancelled rfl rfl

/-! ### The end of a validation -/

theorem exec_endOfValidation {s : State} (free : s.resetHeld = false) :
    exec .endOfValidation s = .next (settleLine (endOfValidation s)) :=
  live_of_free (fun t => settleLine (endOfValidation t)) s free

section
variable {s : State} {bank : BankId} {v dmax : Nat} {e : RowEntry} {reg : BitVec 32}

theorem endValidation_unwritten (found : (s.banks.get bank).validate = .unwritten v) :
    endValidation bank s = answer .notReady ([1] ++ encNat 2 v) (s.setCmd { s.cmd with executing := none }) := by
  simp only [endValidation, found]
  rfl

theorem endValidation_parity (found : (s.banks.get bank).validate = .parity v e) :
    endValidation bank s = answer .notReady ([2] ++ encNat 2 v ++ encNat 1 e.code)
      (takeFault .validation (.table bank v e) (s.setCmd { s.cmd with executing := none })) := by
  simp only [endValidation, found]
  rfl

theorem endValidation_dead (found : (s.banks.get bank).validate = .finished false dmax reg) :
    endValidation bank s = answer .notReady [3] (s.setCmd { s.cmd with executing := none }) := by
  simp only [endValidation, found]
  rfl

theorem endValidation_ready (found : (s.banks.get bank).validate = .finished true dmax reg) :
    endValidation bank s = answer .ok (encNat 2 dmax ++ encNat 4 (~~~reg).toNat ++ encNat 2 (s.banks.get bank).voxelCount
        ++ encNat 2 (s.banks.get bank).tag)
      ((s.setCmd { s.cmd with executing := none }).setBanks (s.banks.set bank
        { s.banks.get bank with state := .ready, dmax := some dmax, check := some (~~~reg) })) := by
  simp only [endValidation, found]
  rfl

end

/-- The reply of END BANK LOAD is placed, the command's execution over (R53). -/
theorem validation_replied {s t : State} {c : Held} {rest : List Held} (k : ReplyCode) (x : Bytes)
    {bank : BankId} (free : s.resetHeld = false) (validating : s.cmd.executing = some (.validating bank))
    (ends : endValidation bank s = answer k x t) (held : t.cmd.held = c :: rest) (line : t.line = s.line)
    (room : OwnRoom s) :
    exec .endOfValidation s = .next (replied k x c rest t) := by
  rw [exec_endOfValidation free, ← settleLine_answer k x held ⟨line ▸ room.noWaiter, line ▸ room.room⟩, ← ends,
    endOfValidation, validating]

/-- Settles O36: one branch of `endValidation` for each thing that the walk finds. -/
theorem validationEnds : Obligations.ValidationEnds := by
  refine ⟨fun s c rest bank free held validating room => ⟨fun v found => ?_, fun v e found => ?_, fun dmax reg found => ?_,
    fun dmax reg found => ?_⟩, fun s none free => ?_⟩
  · exact (validation_replied _ _ free validating (endValidation_unwritten found) held rfl room).trans rfl
  · have ended (x : Executing) (is : (s.setCmd { s.cmd with executing := none }).cmd.executing = some x) :
        endedByFrozen x = false := nomatch is
    refine validation_replied _ _ free validating (endValidation_parity found) ?_ (takeFault_line _ _ ended) room
    rw [takeFault_cmd _ _ ended]
    exact held
  · exact (validation_replied _ _ free validating (endValidation_dead found) held rfl room).trans rfl
  · exact (validation_replied _ _ free validating (endValidation_ready found) held rfl room).trans rfl
  · have nothing : endOfValidation s = s := by
      unfold endOfValidation
      split
      · exact absurd ‹_› (none _)
      · rfl
    rw [exec_endOfValidation free, nothing]

/-! ### LOAD ROWS -/

theorem find_foldl_put_range {α : Type} (first n v : Nat) (row : Nat → α) (m : Memory α) :
    Memory.find ((List.range n).foldl (fun m i => Memory.put m (first + i) (row i)) m) v
      = if first ≤ v ∧ v < first + n then some (row (v - first)) else Memory.find m v := by
  induction n with
  | zero => simp only [List.range_zero, List.foldl_nil]; rw [if_neg (by omega)]
  | succ n ih =>
    simp only [List.range_succ, List.foldl_append, List.foldl_cons, List.foldl_nil, Memory.find_put, ih]
    by_cases last : v = first + n
    · rw [if_pos last, if_pos (by omega), last, Nat.add_sub_cancel_left]
    · rw [if_neg last]
      exact if_congr (by omega) rfl rfl

theorem find_writeRows (c : Held) (k : Bank) (v : Nat) : Memory.find (k.writeRows c).rows v =
    if firstVoxel c ≤ v ∧ v < firstVoxel c + rowCount c then some (storedRow c (v - firstVoxel c))
    else Memory.find k.rows v := find_foldl_put_range _ _ _ _ _

/-- A row with a flag value of 0..3 as it is stored: ENABLED 1, NUISANCE 2 (R51, R52). -/
theorem storedRow_of_flags {c : Held} {i : Nat} (h : c.byte (4 + 385 * i) ≤ 3) : storedRow c i =
    { flags := { enabled := c.byte (4 + 385 * i) % 2 == 1, nuisance := c.byte (4 + 385 * i) / 2 == 1, parityOk := true }
      delays := (rowDelayValues c i).map fun d => { delay := if d ≤ 1022 then some d else none, parityOk := true } } := by
  have nuisance : c.byte (4 + 385 * i) / 2 % 2 = c.byte (4 + 385 * i) / 2 := Nat.mod_eq_of_lt (by omega)
  simp only [storedRow, rowFlagValue, nuisance]
  rfl

theorem badFlagValue_iff (c : Held) : badFlagValue c = true ↔ ∃ i < c.byte 3, 3 < c.byte (4 + 385 * i) := by
  simp only [badFlagValue, rowCount, List.any_eq_true, List.mem_range, decide_eq_true_eq]
  rfl

theorem rowsClamped_iff (c : Held) : rowsClamped c = true ↔ ∃ i < c.byte 3, ∃ d ∈ rowDelayValues c i, 1023 < d := by
  simp [rowsClamped, rowClamped, rowCount]

theorem loadRows_of_bank {c : Held} {bank : BankId} (s : State) (named : bankOfCode (c.byte 0) = some bank) :
    loadRows c s =
      if (s.banks.get bank).state ≠ .loading then answer .notReady [] s
      else if (s.banks.get bank).voxelCount < firstVoxel c + rowCount c then answer .badRequest [] s
      else if badFlagValue c = true then answer .badRequest [] s
      else answer (okOr (rowsClamped c)) [] (updateBank s bank (Bank.writeRows c)) := by
  unfold loadRows
  rw [withBank_some s named]
  simp only [bne_iff_ne]

/-- Settles O34: the checks are the branches of `loadRows_of_bank`, and the rows are those of `find_writeRows`. -/
theorem loadRowsForms : Obligations.LoadRowsForms := by
  intro s c rest h fits awake n first delays flagValue
  rw [exec_served (i := .loadRows) rfl h fits awake]
  refine ⟨fun above => ?_, fun bank named => ?_⟩
  · have refused : loadRows c s = answer .badRequest [] s := withBank_none s above
    exact settled_reply h refused rfl rfl
  · intro k
    have body := loadRows_of_bank s named
    have flags : badFlagValue c = true ↔ ∃ i < n, 3 < flagValue i := badFlagValue_iff c
    refine ⟨fun unloaded => ?_, fun loading bad => ?_, fun loading within valid => ?_⟩
    · rw [if_pos unloaded] at body
      exact settled_reply h body rfl rfl
    · rw [if_neg (not_not.2 loading)] at body
      refine settled_reply h (body.trans ?_) rfl rfl
      rcases bad with past | flag
      · exact if_pos past
      · rw [if_pos (flags.2 flag), ite_self]
    · have good : badFlagValue c ≠ true := by
        rw [ne_eq, flags]
        rintro ⟨i, lt, bad⟩
        exact absurd (valid i lt) (Nat.not_le.2 bad)
      rw [if_neg (not_not.2 loading)] at body
      have written := body.trans ((if_neg (Nat.not_lt.2 within)).trans (if_neg good))
      have code : okOr (rowsClamped c) = if ∃ i < n, ∃ d ∈ delays i, 1023 < d then .clamped else .ok :=
        if_congr (rowsClamped_iff c) rfl rfl
      refine ⟨(Bank.writeRows c k).rows, ?_, fun i lt => ?_, fun v outside => ?_⟩
      · rw [← code]
        exact settled_reply h written rfl rfl
      · rw [find_writeRows, if_pos ⟨Nat.le_add_right .., Nat.add_lt_add_left lt _⟩]
        rw [show first + i - firstVoxel c = i from Nat.add_sub_cancel_left ..]
        exact congrArg some (storedRow_of_flags (valid i lt))
      · rw [find_writeRows, if_neg]
        rintro ⟨lo, hi⟩
        exact outside.elim (Nat.not_lt.2 lo) (Nat.not_le.2 hi)

/-! ### The walk of validation -/

/-- What stops the walk of validation at a voxel, if anything does (R53, R56). -/
def Bank.stopsAt (k : Bank) (v : Nat) : Option Validation :=
  match Memory.find k.rows v with
  | none => some (.unwritten v)
  | some r => r.firstBad.map (.parity v)

theorem stopsAt_none_iff (k : Bank) (v : Nat) :
    k.stopsAt v = none ↔ ∃ r, Memory.find k.rows v = some r ∧ r.firstBad = none := by
  unfold Bank.stopsAt
  cases Memory.find k.rows v <;> simp

theorem stopsAt_unwritten_iff (k : Bank) (u v : Nat) :
    k.stopsAt u = some (.unwritten v) ↔ u = v ∧ Memory.find k.rows v = none := by
  unfold Bank.stopsAt
  cases found : Memory.find k.rows u with
  | none =>
    simp only [Option.some.injEq, Validation.unwritten.injEq]
    exact ⟨fun same => ⟨same, same ▸ found⟩, And.left⟩
  | some r =>
    refine ⟨fun is => ?_, fun ⟨same, unwritten⟩ => ?_⟩
    · obtain ⟨e, -, is⟩ := Option.map_eq_some_iff.1 is
      cases is
    · rw [same, unwritten] at found
      cases found

theorem stopsAt_parity_iff (k : Bank) (u v : Nat) (e : RowEntry) :
    k.stopsAt u = some (.parity v e) ↔ u = v ∧ ∃ r, Memory.find k.rows v = some r ∧ r.firstBad = some e := by
  unfold Bank.stopsAt
  cases found : Memory.find k.rows u with
  | none =>
    refine ⟨fun is => (nomatch is), fun ⟨same, r, written, _⟩ => ?_⟩
    rw [same, written] at found
    cases found
  | some r =>
    simp only [Option.map_eq_some_iff, Validation.parity.injEq]
    refine ⟨fun ⟨e', bad, same, is⟩ => ⟨same, r, same ▸ found, is ▸ bad⟩, fun ⟨same, r', written, bad⟩ => ?_⟩
    rw [same, written] at found
    cases found
    exact ⟨e, bad, same, rfl⟩

/-- The walk ends at a voxel where it stops, or passes to the next one with what the row has added. -/
theorem walk_of_stops {k : Bank} {v : Nat} {x : Validation} (stop : k.stopsAt v = some x) (n : Nat) (live : Bool)
    (dmax : Nat) (reg : BitVec 32) : k.walk (n + 1) v live dmax reg = x := by
  unfold Bank.stopsAt at stop
  unfold Bank.walk
  split at stop
  · simp_all
  · obtain ⟨e, bad, rfl⟩ := Option.map_eq_some_iff.1 stop
    simp_all

theorem walk_of_clean {k : Bank} {v : Nat} {r : Row} (found : Memory.find k.rows v = some r) (good : r.firstBad = none)
    (n : Nat) (live : Bool) (dmax : Nat) (reg : BitVec 32) : k.walk (n + 1) v live dmax reg =
      k.walk n (v + 1) (live || (r.flags.enabled && !r.flags.nuisance))
        (max dmax (if r.flags.enabled then r.maxDelay else 0)) (crc32Update reg r.checkBytes) := by
  have larger : (if r.flags.enabled then max dmax r.maxDelay else dmax)
      = max dmax (if r.flags.enabled then r.maxDelay else 0) := by split <;> simp
  rw [Bank.walk, found]
  simp only [good, larger]

/-- The walk over `n` voxels from `v` gives what stops it first. -/
theorem walk_stops_iff (k : Bank) (x : Validation) (unfinished : ∀ l d r, x ≠ .finished l d r) (n v : Nat) (live : Bool)
    (dmax : Nat) (reg : BitVec 32) : k.walk n v live dmax reg = x ↔
      ∃ u, v ≤ u ∧ u < v + n ∧ k.stopsAt u = some x ∧ ∀ w, v ≤ w → w < u → k.stopsAt w = none := by
  induction n generalizing v live dmax reg with
  | zero =>
    refine ⟨fun is => absurd is.symm (unfinished _ _ _), fun ⟨u, le, lt, _⟩ => ?_⟩
    omega
  | succ n ih =>
    cases stop : k.stopsAt v with
    | some y =>
      rw [walk_of_stops stop]
      refine ⟨fun is => ⟨v, le_rfl, by omega, is ▸ stop, fun w le lt => absurd lt (by omega)⟩,
        fun ⟨u, le, _, is, before⟩ => ?_⟩
      rcases Nat.eq_or_lt_of_le le with rfl | lt
      · exact Option.some.inj (stop.symm.trans is)
      · rw [before v le_rfl lt] at stop
        cases stop
    | none =>
      obtain ⟨r, found, good⟩ := (stopsAt_none_iff k v).1 stop
      rw [walk_of_clean found good, ih]
      constructor
      · rintro ⟨u, le, lt, is, before⟩
        refine ⟨u, by omega, by omega, is, fun w le' lt' => ?_⟩
        rcases Nat.eq_or_lt_of_le le' with rfl | later
        · exact stop
        · exact before w later lt'
      · rintro ⟨u, le, lt, is, before⟩
        have later : v ≠ u := by
          rintro rfl
          rw [stop] at is
          cases is
        exact ⟨u, by omega, by omega, is, fun w le' lt' => before w (by omega) lt'⟩

/-- The rows of the `n` voxels from `v` on. -/
def Bank.rowsFrom (k : Bank) (v n : Nat) : List Row := (List.range' v n).filterMap (Memory.find k.rows)

/-- The bytes that the rows of the `n` voxels from `v` on give to the check (R55). -/
def Bank.bytesFrom (k : Bank) (v n : Nat) : Bytes :=
  ((List.range' v n).map fun u => ((Memory.find k.rows u).map Row.checkBytes).getD []).flatten

/-- What a walk that passes every voxel has gathered (R53 to R55). -/
theorem walk_finished (k : Bank) (n v : Nat) (live : Bool) (dmax : Nat) (reg : BitVec 32) {l : Bool} {d : Nat}
    {r : BitVec 32} (h : k.walk n v live dmax reg = .finished l d r) :
    (∀ u, v ≤ u → u < v + n → k.stopsAt u = none)
    ∧ l = (live || (k.rowsFrom v n).any fun r => r.flags.enabled && !r.flags.nuisance)
    ∧ d = (k.rowsFrom v n).foldl (fun m r => max m (if r.flags.enabled then r.maxDelay else 0)) dmax
    ∧ r = crc32Update reg (k.bytesFrom v n) := by
  induction n generalizing v live dmax reg with
  | zero =>
    cases h
    exact ⟨fun u le lt => absurd lt (by omega), by simp [Bank.rowsFrom], rfl, rfl⟩
  | succ n ih =>
    cases stop : k.stopsAt v with
    | some x =>
      rw [walk_of_stops stop] at h
      subst h
      unfold Bank.stopsAt at stop
      split at stop
      · cases stop
      · simp at stop
    | none =>
      obtain ⟨row, found, good⟩ := (stopsAt_none_iff k v).1 stop
      rw [walk_of_clean found good] at h
      obtain ⟨clean, rfl, rfl, rfl⟩ := ih _ _ _ _ h
      have rows : k.rowsFrom v (n + 1) = row :: k.rowsFrom (v + 1) n := by
        simp [Bank.rowsFrom, List.range'_succ, found]
      have bytes : k.bytesFrom v (n + 1) = row.checkBytes ++ k.bytesFrom (v + 1) n := by
        simp [Bank.bytesFrom, List.range'_succ, found]
      rw [rows, bytes]
      refine ⟨fun u le lt => ?_, by simp [Bool.or_assoc], rfl, by simp [crc32Update]⟩
      rcases Nat.eq_or_lt_of_le le with rfl | later
      · exact stop
      · exact clean u later (by omega)

/-- A running maximum is no lower than where it starts nor than any value met, and is one of them. -/
theorem foldl_max_spec {α : Type} (f : α → Nat) (xs : List α) (m : Nat) :
    m ≤ xs.foldl (fun m x => max m (f x)) m ∧ (∀ x ∈ xs, f x ≤ xs.foldl (fun m x => max m (f x)) m)
    ∧ (xs.foldl (fun m x => max m (f x)) m = m ∨ ∃ x ∈ xs, xs.foldl (fun m x => max m (f x)) m = f x) := by
  induction xs generalizing m with
  | nil => simp
  | cons x xs ih =>
    obtain ⟨start, above, reached⟩ := ih (max m (f x))
    rw [List.foldl_cons]
    refine ⟨by omega, fun y hy => ?_, ?_⟩
    · rcases List.mem_cons.1 hy with rfl | hy
      · omega
      · exact above y hy
    · rcases reached with same | ⟨y, hy, is⟩
      · rcases max_choice m (f x) with old | new
        · exact .inl (same.trans old)
        · exact .inr ⟨x, List.mem_cons_self .., same.trans new⟩
      · exact .inr ⟨y, List.mem_cons_of_mem _ hy, is⟩

theorem le_maxDelay {r : Row} {x : DelayEntry} {d : Nat} (hx : x ∈ r.delays) (hd : x.delay = some d) : d ≤ r.maxDelay := by
  have below : x.delay.getD 0 ≤ r.maxDelay := (foldl_max_spec (fun x : DelayEntry => x.delay.getD 0) r.delays 0).2.1 x hx
  simpa [hd] using below

theorem maxDelay_reached (r : Row) : r.maxDelay = 0 ∨ ∃ x ∈ r.delays, x.delay = some r.maxDelay := by
  obtain zero | ⟨x, hx, is⟩ := (foldl_max_spec (fun x : DelayEntry => x.delay.getD 0) r.delays 0).2.2
  · exact .inl zero
  · change r.maxDelay = x.delay.getD 0 at is
    cases delay : x.delay with
    | none => exact .inl (by simpa [delay] using is)
    | some d => exact .inr ⟨x, hx, by simpa [delay] using is.symm⟩

theorem mem_rowsFrom {k : Bank} {n : Nat} {r : Row} : r ∈ k.rowsFrom 0 n ↔ ∃ v < n, Memory.find k.rows v = some r := by
  simp [Bank.rowsFrom, List.mem_range'_1]

/-- Settles O35: what stops the walk is found by `walk_stops_iff`, and what it gathers by `walk_finished`. -/
theorem validationWalk : Obligations.ValidationWalk := by
  intro k clean
  have isClean (u : Nat) : clean u ↔ k.stopsAt u = none := (stopsAt_none_iff k u).symm
  refine ⟨fun v => ?_, fun v e => ?_, fun live dmax reg h => ?_⟩
  · simp only [Bank.validate, walk_stops_iff k (.unwritten v) (fun _ _ _ => nofun), isClean, stopsAt_unwritten_iff]
    refine ⟨?_, fun ⟨lt, unwritten, before⟩ => ⟨v, by omega, by omega, ⟨rfl, unwritten⟩, fun w _ lt => before w lt⟩⟩
    rintro ⟨u, _, lt, ⟨rfl, unwritten⟩, before⟩
    exact ⟨by omega, unwritten, fun w lt => before w (by omega) lt⟩
  · simp only [Bank.validate, walk_stops_iff k (.parity v e) (fun _ _ _ => nofun), isClean, stopsAt_parity_iff]
    refine ⟨?_, fun ⟨lt, bad, before⟩ => ⟨v, by omega, by omega, ⟨rfl, bad⟩, fun w _ lt => before w lt⟩⟩
    rintro ⟨u, _, lt, ⟨rfl, bad⟩, before⟩
    exact ⟨by omega, bad, fun w lt => before w (by omega) lt⟩
  · obtain ⟨all, rfl, rfl, rfl⟩ := walk_finished k _ _ _ _ _ h
    obtain ⟨_, above, reached⟩ :=
      foldl_max_spec (fun r : Row => if r.flags.enabled then r.maxDelay else 0) (k.rowsFrom 0 k.voxelCount) 0
    refine ⟨fun u lt => (isClean u).2 (all u (by omega) (by omega)), ?_, fun v lt r found enabled x hx d hd => ?_, ?_, ?_⟩
    · simp only [Bool.false_or, List.any_eq_true, mem_rowsFrom, Bool.and_eq_true, Bool.not_eq_true']
      exact ⟨fun ⟨r, ⟨v, lt, found⟩, flags⟩ => ⟨v, lt, r, found, flags⟩, fun ⟨v, lt, r, found, flags⟩ =>
        ⟨r, ⟨v, lt, found⟩, flags⟩⟩
    · have below := above r (mem_rowsFrom.2 ⟨v, lt, found⟩)
      rw [if_pos enabled] at below
      exact (le_maxDelay hx hd).trans below
    · rcases reached with zero | ⟨r, hr, is⟩
      · exact .inl zero
      · obtain ⟨v, lt, found⟩ := mem_rowsFrom.1 hr
        rw [is]
        split
        · rename_i enabled
          exact (maxDelay_reached r).imp_right fun reached => ⟨v, lt, r, found, enabled, reached⟩
        · exact .inl rfl
    · rw [Bank.bytesFrom, ← List.range_eq_range']
      rfl

/-! ### READ BANK and READ ROW -/

theorem Memory.find_isSome_iff {α : Type} (m : Memory α) (k : Nat) :
    (Memory.find m k).isSome = true ↔ k ∈ m.map Prod.fst := by
  induction m with
  | nil => simp
  | cons e t ih =>
    obtain ⟨j, v⟩ := e
    by_cases same : k = j <;> simp [Memory.find, same, ih]

/-- In a table with rising addresses, the entries below a bound are as many as the addresses below it that are listed. -/
theorem length_filter_below {α : Type} {m : Memory α} (rising : Memory.rising m = true) (n : Nat) :
    (m.filter fun e => decide (e.1 < n)).length
      = ((List.range n).filter fun v => (Memory.find m v).isSome).length := by
  have distinct : (m.map Prod.fst).Nodup := by
    rw [List.Nodup, List.pairwise_map]
    exact ((Memory.rising_iff m).1 rising).imp Nat.ne_of_lt
  have keys : (m.filter fun e => decide (e.1 < n)).map Prod.fst = (m.map Prod.fst).filter fun v => decide (v < n) := by
    rw [List.filter_map]
    rfl
  have same : ((m.map Prod.fst).filter fun v => decide (v < n)).Perm
      ((List.range n).filter fun v => (Memory.find m v).isSome) := by
    refine (List.perm_ext_iff_of_nodup (distinct.filter _) (List.nodup_range.filter _)).2 fun v => ?_
    simp only [List.mem_filter, decide_eq_true_eq, List.mem_range, Memory.find_isSome_iff]
    exact and_comm
  rw [← same.length_eq, ← keys, List.length_map]

theorem lowestUnwritten_some_iff (k : Bank) (n v u : Nat) : k.lowestUnwritten n v = some u ↔
    v ≤ u ∧ u < v + n ∧ Memory.find k.rows u = none ∧ ∀ w, v ≤ w → w < u → (Memory.find k.rows w).isSome = true := by
  induction n generalizing v with
  | zero =>
    refine ⟨fun is => (nomatch is), fun ⟨le, lt, _⟩ => ?_⟩
    omega
  | succ n ih =>
    unfold Bank.lowestUnwritten
    cases found : Memory.find k.rows v with
    | none =>
      rw [if_pos (by rfl), Option.some.injEq]
      refine ⟨?_, fun ⟨le, _, _, before⟩ => ?_⟩
      · rintro rfl
        exact ⟨le_rfl, by omega, found, fun w le lt => absurd lt (by omega)⟩
      · rcases Nat.eq_or_lt_of_le le with same | later
        · exact same
        · simpa [found] using before v le_rfl later
    | some r =>
      rw [if_neg (by simp), ih]
      constructor
      · rintro ⟨le, lt, unwritten, before⟩
        refine ⟨by omega, by omega, unwritten, fun w le' lt' => ?_⟩
        rcases Nat.eq_or_lt_of_le le' with rfl | later
        · simp [found]
        · exact before w later lt'
      · rintro ⟨le, lt, unwritten, before⟩
        have later : v ≠ u := by
          rintro rfl
          rw [unwritten] at found
          cases found
        exact ⟨by omega, by omega, unwritten, fun w le' lt' => before w (by omega) lt'⟩

theorem lowestUnwritten_none_iff (k : Bank) (n v : Nat) : k.lowestUnwritten n v = none ↔
    ∀ w, v ≤ w → w < v + n → (Memory.find k.rows w).isSome = true := by
  induction n generalizing v with
  | zero => exact ⟨fun _ w le lt => absurd lt (by omega), fun _ => rfl⟩
  | succ n ih =>
    unfold Bank.lowestUnwritten
    cases found : Memory.find k.rows v with
    | none =>
      refine ⟨fun is => (nomatch is), fun all => ?_⟩
      simpa [found] using all v le_rfl (by omega)
    | some r =>
      rw [if_neg (by simp), ih]
      refine ⟨fun all w le lt => ?_, fun all w le lt => all w (by omega) (by omega)⟩
      rcases Nat.eq_or_lt_of_le le with rfl | later
      · simp [found]
      · exact all w later (by omega)

/-- The first delay entry that fails its check is that of the first lane whose entry does. -/
theorem firstBadDelay_eq (lane : Nat) (ds : List DelayEntry) :
    firstBadDelay lane ds = (ds.findIdx? fun d => !d.parityOk).map fun i => .delay (lane + i) := by
  induction ds generalizing lane with
  | nil => rfl
  | cons d ds ih =>
    unfold firstBadDelay
    cases ok : d.parityOk with
    | true =>
      rw [if_pos rfl, ih, List.findIdx?_cons]
      simp [ok, Option.map_map, Function.comp_def, Nat.add_assoc, Nat.add_comm 1]
    | false =>
      rw [List.findIdx?_cons]
      simp [ok]

theorem firstBad_flag_iff (r : Row) : r.firstBad = some .flag ↔ r.flags.parityOk = false := by
  unfold Row.firstBad
  cases r.flags.parityOk <;> simp [firstBadDelay_eq]

theorem fails_iff (ds : List DelayEntry) (l : Nat) :
    (ds.map DelayEntry.parityOk)[l]? = some false ↔ ∃ h : l < ds.length, ds[l].parityOk = false := by
  simp [List.getElem?_eq_some_iff]

theorem firstBad_delay_iff (r : Row) (l : Nat) : r.firstBad = some (.delay l) ↔ r.flags.parityOk = true
    ∧ (r.delays.map DelayEntry.parityOk)[l]? = some false
    ∧ ∀ j < l, ¬(r.delays.map DelayEntry.parityOk)[j]? = some false := by
  unfold Row.firstBad
  cases r.flags.parityOk with
  | false => simp
  | true =>
    simp only [if_true, firstBadDelay_eq, Nat.zero_add, Option.map_eq_some_iff, RowEntry.delay.injEq, exists_eq_right,
      List.findIdx?_eq_some_iff_getElem, fails_iff, not_exists, Bool.not_eq_true', Bool.not_eq_false, true_and]
    exact ⟨fun ⟨lt, bad, before⟩ => ⟨⟨lt, bad⟩, fun j less _ => before j less⟩,
      fun ⟨⟨lt, bad⟩, before⟩ => ⟨lt, bad, fun j less => before j less (less.trans lt)⟩⟩

theorem firstBad_none_iff (r : Row) : r.firstBad = none ↔ r.badCount = 0 := by
  unfold Row.firstBad Row.badCount
  cases r.flags.parityOk <;> simp [firstBadDelay_eq]

theorem readBank_of_bank {c : Held} {bank : BankId} (s : State) (named : bankOfCode (c.byte 0) = some bank) :
    readBank c s = answer .ok (bankResult s bank) s := withBank_some s named

/-- Settles O38: the counts and the first ones by induction over the voxels and the lanes, each read as the one branch of its
command. -/
theorem bankReads : Obligations.BankReads := by
  refine ⟨fun k => ⟨fun rising => length_filter_below rising k.voxelCount, fun v => ?_, ?_⟩,
    fun r => ⟨rfl, rfl, firstBad_flag_iff r, firstBad_delay_iff r, firstBad_none_iff r⟩,
    fun s c rest => ⟨fun h one => ?_, fun h three => ?_⟩⟩
  · simpa using lowestUnwritten_some_iff k k.voxelCount 0 v
  · simpa using lowestUnwritten_none_iff k k.voxelCount 0
  · have run : exec .readBank s = .next (settleLine (readBank c s)) :=
      exec_begins (i := .readBank) rfl h.toOldest (by simp [paramsFit, fixedBytes, one]) (fun _ => rfl)
    rw [run]
    refine ⟨fun above => ?_, fun bank named => settled_reply h (readBank_of_bank s named) rfl rfl⟩
    have refused : readBank c s = answer .badRequest [] s := withBank_none s above
    exact settled_reply h refused rfl rfl
  · have run : exec .readRow s = .next (settleLine (readRow c s)) :=
      exec_begins (i := .readRow) rfl h.toOldest (by simp [paramsFit, fixedBytes, three]) (fun _ => rfl)
    rw [run]
    refine ⟨fun above => ?_, fun bank named => ?_⟩
    · have refused : readRow c s = answer .badRequest [] s := withBank_none s above
      exact settled_reply h refused rfl rfl
    · refine ⟨fun empty => ?_, fun filled past => ?_, fun filled within unwritten => ?_, fun r filled within written => ?_⟩
      · have refused : readRow c s = answer .notReady [] s := by simp [readRow, withBank_some s named, empty]
        exact settled_reply h refused rfl rfl
      · have refused : readRow c s = answer .badRequest [] s := by simp [readRow, withBank_some s named, filled, past]
        exact settled_reply h refused rfl rfl
      · have refused : readRow c s = answer .notReady [] s := by
          simp [readRow, withBank_some s named, filled, Nat.not_le.2 within, unwritten]
        exact settled_reply h refused rfl rfl
      · have read : readRow c s = answer .ok (rowResult r) s := by
          simp [readRow, withBank_some s named, filled, Nat.not_le.2 within, written]
        exact settled_reply h read rfl rfl

end Sys2Proof.Machine

namespace Sys2Proof.Machine

/-! ## The FROZEN condition over a step (R72, R132, R158, R175) -/

/-! ### What leaves the FROZEN condition alone -/

/-- `t` stands as `s` does in all that the FROZEN condition speaks of. -/
structure SameForFrozen (s t : State) : Prop where
  frozen : t.notice.frozen = s.notice.frozen
  state : t.scan.state = s.scan.state
  tick : t.scan.tick = s.scan.tick
  capture : t.capture = s.capture
  queue : t.queue = s.queue
  cmd : t.cmd = s.cmd

theorem SameForFrozen.agrees {s t : State} (h : SameForFrozen s t) (hs : FrozenAgrees s) : FrozenAgrees t :=
  frozenAgrees_same hs h.frozen h.state h.tick h.capture h.queue h.cmd

/-- The oldest held command begins an execution that the FROZEN condition does not end, or begins it while not FROZEN. -/
theorem frozen_begins {s : State} (h : FrozenAgrees s) (x : Executing) (held : s.cmd.held ≠ [])
    (served : s.notice.frozen = true → endedByFrozen x = false) :
    FrozenAgrees (s.setCmd { s.cmd with executing := some x }) := by
  refine frozenAgrees_cmd h rfl rfl rfl rfl (fun _ => held) fun frozen y is => ?_
  obtain rfl := Option.some.inj is
  exact served frozen

/-- A command in execution ends before its reply is built. -/
theorem frozen_ended {s : State} (h : FrozenAgrees s) : FrozenAgrees (s.setCmd { s.cmd with executing := none }) :=
  frozenAgrees_cmd h rfl rfl rfl rfl (fun is => (nomatch is)) (fun _ _ is => (nomatch is))

theorem FrozenAgrees.awake_of_state {s : State} (h : FrozenAgrees s) (other : s.scan.state ≠ .frozen) :
    s.notice.frozen = false := by
  rw [Bool.eq_false_iff, ne_eq, ← h.scan]
  exact other

theorem FrozenAgrees.awake_of_scanning {s : State} (h : FrozenAgrees s) (runs : scanning s = true) :
    s.notice.frozen = false :=
  h.awake_of_state fun frozen => by simp [not_scanning_of_frozen frozen] at runs

/-! ### The close that completes -/

theorem frozenInClose_keptOverrun {s : State} (c : Closing) (h : FrozenInClose s) : FrozenInClose (keptOverrun c s) := by
  unfold keptOverrun
  split
  · rename_i told
    simp only [Bool.and_eq_true, Bool.not_eq_true'] at told
    exact (frozen_takeOverrun (h.agrees (by simp [told.2]))).inClose
  · exact h

/-- Once the CLEAR SCAN that waited for the close is answered, nothing is missing. -/
theorem FrozenInClose.answered {s : State} (h : FrozenInClose s) (k : ReplyCode) (x : Bytes) (held : s.cmd.held ≠ []) :
    FrozenAgrees (answer k x s) := by
  have ended := answer_executing k x s held
  refine ⟨?_, by simpa using h.scan, by simpa using h.tick, by simpa using h.capture, by simpa using h.records,
    fun _ y is => ?_⟩
  · obtain none | ⟨f, _, same⟩ := ended
    · simp [none]
    · exact fun _ => same ▸ held
  · obtain none | ⟨f, waits, _⟩ := ended
    · simp [none] at is
    · rw [waits] at is
      obtain rfl := Option.some.inj is
      rfl

theorem frozen_clearScanEffect {s : State} (h : FrozenAgrees s) : FrozenAgrees (clearScanEffect s) := by
  unfold clearScanEffect
  split
  · rename_i runs
    exact frozenAgrees_running (by simpa using h.oldest) (by simpa using h.awake_of_scanning runs) (by simp)
  · exact h

theorem frozen_afterCompletion {s : State} (boundary : Bool) (h : FrozenInClose s) :
    FrozenAgrees (afterCompletion boundary s) := by
  unfold afterCompletion
  split
  · rename_i waits
    split
    · exact h.answered _ _ (h.oldest (by simp [waits]))
    · rename_i awake
      exact frozen_answer _ _ (frozen_clearScanEffect (h.agrees fun frozen => absurd frozen awake))
  · rename_i other
    split
    · exact frozen_tickBoundary (h.agrees fun _ => other)
    · exact h.agrees fun _ => other

theorem frozen_closeCompletion {s : State} (h : FrozenAgrees s) : FrozenAgrees (closeCompletion s) := by
  unfold closeCompletion
  split
  · exact frozen_afterCompletion _ (frozenInClose_keptOverrun _ (frozenInClose_completeClose _ _ h.inClose))
  · exact h

/-! ### The rows that are no engine command -/

theorem frozen_acceptedBlock (lane : Nat) {s : State} (h : FrozenAgrees s) : FrozenAgrees (acceptedBlock lane s) := by
  have accepted (k : Block) (l : Lane) (u : State) (hu : FrozenAgrees u) : FrozenAgrees (acceptBlock k.lane k l u) := by
    rw [acceptBlock_eq]
    refine frozen_waitTestFor _ (frozen_retest (SameForFrozen.agrees ?_ hu))
    constructor <;> simp [storeBlock]
  unfold acceptedBlock
  split
  · exact h
  · split
    · exact h
    · rename_i k rest _
      have taken : FrozenAgrees (s.setTracker { s.tracker with blocks := rest }) :=
        SameForFrozen.agrees (by constructor <;> simp) h
      unfold takeBlock
      split
      · exact taken
      · split
        · exact taken
        · split
          · exact SameForFrozen.agrees (by constructor <;> simp) taken
          · exact accepted k _ _ taken

theorem frozen_laneTimerExpiry (lane : Nat) {s : State} (h : FrozenAgrees s) : FrozenAgrees (laneTimerExpiry lane s) := by
  unfold laneTimerExpiry
  split
  · exact h
  · split
    · exact h
    · split
      · exact h
      · refine frozen_waitTestFor _ (frozen_retest (SameForFrozen.agrees ?_ h))
        constructor <;> simp

theorem frozen_lineSilenceExpiry {s : State} (h : FrozenAgrees s) : FrozenAgrees (lineSilenceExpiry s) := by
  unfold lineSilenceExpiry
  split
  · exact h
  · split
    · exact h
    · refine frozen_takeSilence (SameForFrozen.agrees ?_ h)
      constructor <;> simp

theorem downstreamFrame_held (f : Bytes) {s : State} (h : s.cmd.held ≠ []) : (downstreamFrame f s).cmd.held ≠ [] := by
  have taken (c : Held) (u : State) (hu : u.cmd = s.cmd) : (takeCommand c u).cmd.held ≠ [] := by
    unfold takeCommand
    split <;> simp [hu, h]
  unfold downstreamFrame routeDownstream
  dsimp only
  split
  · split
    · simpa using h
    · split
      · split
        · simpa using h
        · split
          · rw [routeUp_cmd]
            exact taken _ _ rfl
          · split
            · exact taken _ _ rfl
            · simpa using h
      · simpa using h
  · simpa using h

theorem frozen_downstreamFrame (f : Bytes) {s : State} (h : FrozenAgrees s) : FrozenAgrees (downstreamFrame f s) := by
  have same := downstreamFrame_executing f s
  refine frozenAgrees_cmd h (by simp) (by simp) (by simp) (by simp) (fun is => ?_) (fun frozen x is => ?_)
  · exact downstreamFrame_held f (h.oldest (same ▸ is))
  · exact h.command frozen x (same ▸ is)

theorem frozen_endOfValidation {s : State} (h : FrozenAgrees s) : FrozenAgrees (endOfValidation s) := by
  unfold endOfValidation
  split
  · have ended := frozen_ended h
    unfold endValidation
    dsimp only
    split
    · exact frozen_answer _ _ ended
    · exact frozen_answer _ _ (frozen_takeFault _ (by decide) ended)
    · split
      · exact frozen_answer _ _ (SameForFrozen.agrees (by constructor <;> simp) ended)
      · exact frozen_answer _ _ ended
  · exact h

theorem frozen_snippetFramePlaced {s : State} (h : FrozenAgrees s) : FrozenAgrees (snippetFramePlaced s) := by
  unfold snippetFramePlaced
  split
  · rename_i st _ _ streaming _
    split
    · exact h
    · split
      · exact frozen_placeSnippet _ _ _ st streaming h
      · unfold streamWaits
        split
        · exact h
        · exact SameForFrozen.agrees (by constructor <;> simp) h
  · exact h

theorem frozen_tickScanBegin {s : State} (h : FrozenAgrees s) : FrozenAgrees (tickScanBegin s) := by
  unfold tickScanBegin
  split
  · split
    · rename_i begins
      simp only [Bool.and_eq_true] at begins
      have awake := h.awake_of_scanning begins.1.1.1.1
      exact frozenAgrees_running h.oldest awake (h.scan_running awake)
    · exact h
  · exact h

theorem frozen_tickResultDelivery {s : State} (h : FrozenAgrees s) : FrozenAgrees (tickResultDelivery s) := by
  have delivered (r : TickResult) : FrozenAgrees (deliver r s) :=
    frozen_takeTickResult r ⟨h.oldest, h.scan, fun _ => rfl, h.capture, h.records, h.command⟩
  unfold tickResultDelivery
  split
  · exact h
  · split
    · exact h
    · dsimp only
      split
      · exact delivered _
      · exact frozen_tickBoundary (delivered _)

theorem frozen_waitTimerExpiry {s : State} (h : FrozenAgrees s) : FrozenAgrees (waitTimerExpiry s) := by
  unfold waitTimerExpiry
  split
  · exact h
  · split
    · exact h
    · rename_i awake
      have awake : s.notice.frozen = false := by simpa using awake
      exact frozen_waitTest (frozenAgrees_running h.oldest awake (h.scan_running awake))

/-- Every row that is no engine command keeps what the FROZEN condition means. -/
theorem frozen_eventBody (i : Instr) {s : State} (h : FrozenAgrees s) : FrozenAgrees (eventBody i s) := by
  cases i with
  | acceptedBlock lane => exact frozen_acceptedBlock lane h
  | laneTimerExpiry lane => exact frozen_laneTimerExpiry lane h
  | lineSilenceExpiry => exact frozen_lineSilenceExpiry h
  | downstreamFrameReceived f => exact frozen_downstreamFrame f h
  | endOfValidation => exact frozen_endOfValidation h
  | snippetFramePlaced => exact frozen_snippetFramePlaced h
  | hotStartCompletion =>
    show FrozenAgrees (hotStartCompletion s)
    unfold hotStartCompletion
    split
    · exact frozen_answer _ _ (frozen_ended h)
    · exact h
  | tickScanBegin => exact frozen_tickScanBegin h
  | voxelEvaluation =>
    show FrozenAgrees (voxelEvaluation s)
    unfold voxelEvaluation
    split
    · exact h
    · split
      · exact frozen_evaluateVoxel _ h
      · exact h
  | tickResultDelivery => exact frozen_tickResultDelivery h
  | closeCompletion => exact frozen_closeCompletion h
  | waitTimerExpiry => exact frozen_waitTimerExpiry h
  | copyStep => exact frozen_copyStep h
  | _ => exact SameForFrozen.agrees (by constructor <;> simp [eventBody]) h

/-! ### The engine commands -/

theorem frozen_withBank {body : BankId → State → State} (c : Held) {s : State} (h : FrozenAgrees s)
    (hb : ∀ bank, FrozenAgrees (body bank s)) : FrozenAgrees (withBank body c s) := by
  unfold withBank
  split
  · exact frozen_answer _ _ h
  · exact hb _

theorem frozen_switchBank (c : Held) {s : State} (h : FrozenAgrees s) : FrozenAgrees (switchBank c s) := by
  have banks (k : Banks) : FrozenAgrees (s.setBanks k) := SameForFrozen.agrees (by constructor <;> simp) h
  refine frozen_withBank c h fun bank => ?_
  split
  · unfold switchAtOnce
    split
    · exact frozen_answer _ _ (banks _)
    all_goals exact frozen_answer _ _ h
  · unfold switchPending
    split
    · exact frozen_answer _ _ (banks _)
    · exact frozen_answer _ _ (banks _)
    all_goals exact frozen_answer _ _ h

theorem frozen_startScan (c : Held) {s : State} (h : FrozenAgrees s) : FrozenAgrees (startScan c s) := by
  unfold startScan
  split
  · exact frozen_answer _ _ h
  · rename_i idle
    simp only [bne_iff_ne, ne_eq, not_not] at idle
    split
    · exact frozen_answer _ _ h
    · split
      · split
        · refine frozen_retest (frozen_answer _ _ (frozenAgrees_running h.oldest ?_ (by simp)))
          exact h.awake_of_state (by simp [idle])
        · exact frozen_answer _ _ h
      · exact frozen_answer _ _ h

theorem frozen_haltScan (c : Held) {s : State} (h : FrozenAgrees s) : FrozenAgrees (haltScan c s) := by
  unfold haltScan
  split
  · rename_i running
    refine frozen_answer _ _ (frozenAgrees_running h.oldest ?_ (by simp))
    exact h.awake_of_state (by simp [running])
  all_goals exact frozen_answer _ _ h

theorem frozen_clearScan (c : Held) {s : State} (h : FrozenAgrees s) (held : s.cmd.held ≠ [])
    (awake : s.notice.frozen = false) : FrozenAgrees (clearScan c s) := by
  unfold clearScan
  split
  · exact frozen_begins h _ held (by simp [awake])
  · exact frozen_answer _ _ (frozen_clearScanEffect h)

theorem frozen_setLane (c : Held) {s : State} (h : FrozenAgrees s) (held : s.cmd.held ≠ [])
    (awake : s.notice.frozen = false) : FrozenAgrees (setLane c s) := by
  have changed (x : LaneChange) : FrozenAgrees (applyLaneChange x s) := by
    have same : SameForFrozen s (setFlag .laneChange (changeIncluded x s)) := by
      unfold changeIncluded
      split <;> constructor <;> simp
    rw [applyLaneChange_eq]
    exact frozen_waitTestFor _ (same.agrees h)
  unfold setLane
  dsimp only
  split
  · exact frozen_answer _ _ h
  · split
    · exact frozen_answer _ _ h
    · split
      · exact frozen_answer _ _ (SameForFrozen.agrees (by constructor <;> simp) h)
      · split
        · exact frozen_begins h _ held (by simp [awake])
        · exact frozen_retest (frozen_answer _ _ (changed _))

theorem frozen_setParameters (c : Held) {s : State} (h : FrozenAgrees s) : FrozenAgrees (setParameters c s) := by
  have changed (p : Params) (rate tick : Bool) : FrozenAgrees (changeEffects rate tick (s.setParams p)) := by
    refine SameForFrozen.agrees ⟨by simp, by simp [changeEffects_scanState], ?_, by simp, by simp, by simp⟩ h
    rw [changeEffects_scan]
    split <;> rfl
  unfold setParameters
  dsimp only
  split
  · exact frozen_answer _ _ h
  · refine frozen_answer _ _ ?_
    split
    · exact frozen_waitTest (changed _ _ _)
    · exact changed _ _ _

/-- The records that stay as the head is released are settled where all were (R139). -/
theorem frozen_removeHead {s : State} (h : FrozenAgrees s) : FrozenAgrees (removeHead s) := by
  unfold removeHead
  split
  · exact h
  · rename_i r rest queue
    refine ⟨h.oldest, h.scan, h.tick, h.capture, fun frozen x mem => ?_, h.command⟩
    exact h.records frozen x (queue ▸ List.mem_cons_of_mem _ mem)

theorem frozen_hotStart (c : Held) (s : State) : FrozenAgrees (hotStart c s) :=
  frozenAgrees_running (fun _ => List.cons_ne_nil _ _) rfl (by simp [hotStart, Scan.started])

/-- Every engine command's own handling keeps what the FROZEN condition means, given that a command it refuses is not begun. -/
theorem frozen_commandBody (i : Instr) (c : Held) {s : State} (h : FrozenAgrees s) (held : s.cmd.held ≠ [])
    (served : s.notice.frozen = true → refusedFrozen i = false) : FrozenAgrees (commandBody i c s) := by
  have awake (refused : refusedFrozen i = true) : s.notice.frozen = false := by
    rw [Bool.eq_false_iff]
    intro frozen
    simp [served frozen] at refused
  have replied (k : ReplyCode) (x : Bytes) {t : State} (same : SameForFrozen s t) : FrozenAgrees (answer k x t) :=
    frozen_answer k x (same.agrees h)
  cases i with
  | setAddress =>
    show FrozenAgrees (setAddress c s)
    unfold setAddress
    split
    · exact frozen_answer _ _ h
    · exact replied _ _ (by constructor <;> simp)
    · split
      · refine replied _ _ ?_
        split <;> constructor <;> simp
      · exact frozen_answer _ _ h
  | readPortCounters =>
    refine replied _ _ ?_
    split <;> constructor <;> simp
  | readStatus | readParameters | readNotices | readFault => exact frozen_answer _ _ h
  | setParameters => exact frozen_setParameters c h
  | loadLaneMap =>
    show FrozenAgrees (loadLaneMap c s)
    unfold loadLaneMap
    dsimp only
    split
    · exact frozen_answer _ _ h
    · split
      · refine frozen_answer _ _ (frozen_waitTest (SameForFrozen.agrees ?_ h))
        constructor <;> simp [replaceMap]
      · exact frozen_answer _ _ h
  | setLane => exact frozen_setLane c h held (awake rfl)
  | readLane =>
    show FrozenAgrees (readLane c s)
    unfold readLane
    dsimp only
    split
    · exact frozen_answer _ _ h
    · split
      · exact frozen_answer _ _ h
      · refine replied _ _ ?_
        split <;> constructor <;> simp
  | readLaneChanges => exact replied _ _ (by constructor <;> simp)
  | beginBankLoad =>
    show FrozenAgrees (beginBankLoad c s)
    refine frozen_withBank c h fun bank => ?_
    dsimp only
    split_ifs
    iterate 3 · exact frozen_answer _ _ h
    · exact replied _ _ (by constructor <;> simp)
  | loadRows =>
    show FrozenAgrees (loadRows c s)
    refine frozen_withBank c h fun bank => ?_
    dsimp only
    split_ifs
    iterate 3 · exact frozen_answer _ _ h
    · exact replied _ _ (by constructor <;> simp)
  | endBankLoad =>
    show FrozenAgrees (endBankLoad c s)
    refine frozen_withBank c h fun bank => ?_
    dsimp only
    split
    · exact frozen_begins h _ held (by simp [awake rfl])
    · exact frozen_answer _ _ h
  | switchBank => exact frozen_switchBank c h
  | readBank => exact frozen_withBank c h fun _ => frozen_answer _ _ h
  | readRow =>
    show FrozenAgrees (readRow c s)
    refine frozen_withBank c h fun bank => ?_
    dsimp only
    repeat' split
    all_goals exact frozen_answer _ _ h
  | startScan => exact frozen_startScan c h
  | haltScan => exact frozen_haltScan c h
  | clearScan => exact frozen_clearScan c h held (awake rfl)
  | readScan =>
    refine replied _ _ ?_
    split <;> constructor <;> simp [Scan.clearCounters]
  | readDetector =>
    refine replied _ _ ?_
    split <;> constructor <;> simp
  | fetchEvent =>
    show FrozenAgrees (fetchEvent c s)
    unfold fetchEvent
    dsimp only
    repeat' split
    all_goals exact frozen_answer _ _ h
  | readSnippet =>
    show FrozenAgrees (readSnippet c s)
    unfold readSnippet
    dsimp only
    split
    · exact frozen_answer _ _ h
    · split_ifs
      iterate 4 · exact frozen_answer _ _ h
      · exact frozen_begins h _ held fun _ => rfl
  | releaseEvent =>
    show FrozenAgrees (releaseEvent c s)
    unfold releaseEvent
    split
    · exact frozen_answer _ _ h
    · split
      · exact frozen_answer _ _ h
      · split
        · exact frozen_answer _ _ h
        · exact frozen_answer _ _ (frozen_removeHead h)
  | clearNotices => exact replied _ _ (by constructor <;> simp)
  | setNoticeMask => exact replied _ _ (by constructor <;> simp)
  | clearFault =>
    show FrozenAgrees (clearFault c s)
    unfold clearFault
    split
    · exact frozen_answer _ _ h
    · exact replied _ _ (by constructor <;> simp)
  | restart => exact frozen_hotStart c s
  | _ => exact h

theorem frozen_exec {i : Instr} {s t : State} (hs : FrozenAgrees s) (h : exec i s = .next t) : FrozenAgrees t :=
  exec_keeps (fun _ hu => frozen_settleLine hu) (fun k x => frozen_answer k x hs) hs (frozen_eventBody i hs)
    (fun c rest _ held served => frozen_commandBody i c hs (by simp [held]) served)
    (fun cause _ => frozenAgrees_running (fun is => (nomatch is)) rfl (by simp [coldStart, State.reset, Scan.started]))
    (fun _ => SameForFrozen.agrees (by constructor <;> simp) hs) h

/-! ### What leaves the FROZEN condition -/

/-- An engine that is FROZEN in `s` is FROZEN in `t`. -/
def StaysFrozen (s t : State) : Prop := s.notice.frozen = true → t.notice.frozen = true

theorem StaysFrozen.trans {s t u : State} (h : StaysFrozen s t) (k : StaysFrozen t u) : StaysFrozen s u :=
  fun frozen => k (h frozen)

theorem StaysFrozen.of_same {s t : State} (h : t.notice.frozen = s.notice.frozen) : StaysFrozen s t := fun frozen =>
  h.trans frozen

theorem StaysFrozen.refl (s : State) : StaysFrozen s s := .of_same rfl

/-- While FROZEN no fault is taken (R173). -/
theorem takeFault_of_frozen (a : Activity) (p : FaultPlace) {s : State} (frozen : s.notice.frozen = true) :
    takeFault a p s = s := if_pos frozen

theorem staysFrozen_takeFault (a : Activity) (p : FaultPlace) (s : State) : StaysFrozen s (takeFault a p s) :=
  fun frozen => by rwa [takeFault_of_frozen a p frozen]

theorem FaultsTaken.staysFrozen {s t : State} (h : FaultsTaken s t) : StaysFrozen s t := by
  rcases h.scan with ⟨_, same⟩ | ⟨_, frozen⟩
  · exact .of_same same
  · exact fun _ => frozen

theorem staysFrozen_meetTrackParity (lane u : Nat) (s : State) : StaysFrozen s (meetTrackParity lane u s) := by
  unfold meetTrackParity
  split
  · exact .refl s
  · exact StaysFrozen.trans (t := updateTick _ s) (.of_same (by simp)) (staysFrozen_takeFault _ _ _)

theorem staysFrozen_stackLanes (bank : BankId) (v t : Nat) (c : List (Nat × Nat)) (k : Stack) (s : State) :
    StaysFrozen s (stackLanes bank v t c k s).2 := by
  induction c generalizing k s with
  | nil => exact .refl s
  | cons p rest ih =>
    obtain ⟨lane, w⟩ := p
    unfold stackLanes
    dsimp only
    split
    · exact staysFrozen_takeFault _ _ s
    · split
      · exact ih k s
      · split
        · exact ih _ s
        · exact ih _ s
        · split
          · exact staysFrozen_meetTrackParity _ _ s
          · exact (staysFrozen_meetTrackParity _ _ s).trans (ih _ _)

theorem staysFrozen_voxelEvaluation (s : State) : StaysFrozen s (voxelEvaluation s) := by
  have next (u : State) : StaysFrozen u (nextVoxel u) := .of_same (by simp)
  have taken (n : Bool) (x : Option Stack) (u : State) : StaysFrozen u (takeVoxel n x u) := .of_same (by simp)
  unfold voxelEvaluation
  split
  · exact .refl s
  · split
    · unfold evaluateVoxel
      dsimp only
      split
      · exact (staysFrozen_takeFault _ _ s).trans (next _)
      · split
        · exact .of_same (by simp)
        · exact ((staysFrozen_stackLanes _ _ _ _ _ s).trans (taken _ _ _)).trans (next _)
    · exact .refl s

theorem staysFrozen_copyWords (lane n i w : Nat) (p : CopyProgress) :
    StaysFrozen p.state (copyWords lane n i w p).state := by
  have failed (lane i : Nat) (u : State) : StaysFrozen u (copyEccFailure lane i u) := by
    unfold copyEccFailure
    split
    · exact .refl u
    · split
      · exact .refl u
      · exact StaysFrozen.trans (t := u.setCapture _) (.of_same (by simp)) (staysFrozen_takeFault _ _ _)
  have copied (i w : Nat) (p : CopyProgress) : StaysFrozen p.state (copyWord lane i w p).state := by
    unfold copyWord
    split
    iterate 4 · exact .of_same (by simp)
    · exact StaysFrozen.trans (t := writeStore w missingMarker p.state) (.of_same (by simp)) (failed _ _ _)
  induction n generalizing i w p with
  | zero => exact .refl _
  | succ n ih =>
    unfold copyWords
    dsimp only
    split
    · exact copied i w p
    · exact (copied i w p).trans (ih _ _ _)

theorem staysFrozen_copyStep (s : State) : StaysFrozen s (copyStep s) := by
  unfold copyStep
  split
  · split
    · exact .refl s
    · rename_i e _
      have copied := staysFrozen_copyWords e.lane e.count e.start (e.extentOffset.getD 0)
        { state := s, omitStart := 0, omitEnd := 0 }
      dsimp only
      split
      · exact copied
      · split
        · exact copied.trans (.of_same (by simp))
        · exact copied.trans (.of_same (by simp))
  · exact .refl s

theorem staysFrozen_readWords (n w : Nat) (st : Stream) (s : State) : StaysFrozen s (readWords n w st s).2.2 := by
  induction n generalizing w st s with
  | zero => exact .refl s
  | succ n ih =>
    have met (w : Nat) : StaysFrozen s (meetStoreFailure w st s).2 := by
      unfold meetStoreFailure
      dsimp only
      split
      · exact .of_same (by simp)
      · split
        · exact .refl s
        · exact staysFrozen_takeFault _ _ s
    unfold readWords
    dsimp only
    split
    · exact ih _ _ s
    · exact (met _).trans (ih _ _ _)

theorem staysFrozen_snippetFramePlaced (s : State) : StaysFrozen s (snippetFramePlaced s) := by
  have placed (st : Stream) (e : PlanEntry) (w : Nat) : StaysFrozen s (placeSnippet st e w s) := by
    unfold placeSnippet streamReply
    dsimp only
    refine (staysFrozen_readWords (frameWords st e w) (e.extentOffset.getD 0 + w) st s).trans ?_
    split <;> exact .of_same (by simp)
  unfold snippetFramePlaced
  split
  · split
    · exact .refl s
    · split
      · exact placed _ _ _
      · unfold streamWaits
        split <;> exact .of_same (by simp)
  · exact .refl s

theorem staysFrozen_endOfValidation (s : State) : StaysFrozen s (endOfValidation s) := by
  unfold endOfValidation
  split
  · rename_i bank _
    have ended : StaysFrozen s (s.setCmd { s.cmd with executing := none }) := .of_same rfl
    have answered (k : ReplyCode) (x : Bytes) (u : State) : StaysFrozen u (answer k x u) := .of_same (by simp)
    unfold endValidation
    dsimp only
    split
    · exact .of_same (by simp)
    · exact (ended.trans (staysFrozen_takeFault _ _ _)).trans (answered _ _ _)
    · split <;> exact .of_same (by simp)
  · exact .refl s

theorem staysFrozen_eventBody (i : Instr) (s : State) : StaysFrozen s (eventBody i s) := by
  cases i with
  | endOfValidation => exact staysFrozen_endOfValidation s
  | snippetFramePlaced => exact staysFrozen_snippetFramePlaced s
  | voxelEvaluation => exact staysFrozen_voxelEvaluation s
  | closeCompletion =>
    show StaysFrozen s (closeCompletion s)
    unfold closeCompletion
    split
    · rename_i c run _ _
      exact (faultsTaken_closeDone c run s).staysFrozen.trans (.of_same (by simp [closeDone]))
    · exact .refl s
  | copyStep => exact staysFrozen_copyStep s
  | _ => exact .of_same (by simp [eventBody])

/-- CLEAR FAULT empties the fault record and leaves the FROZEN condition (R174). -/
theorem clearFault_frozen (c : Held) (s : State) : (clearFault c s).notice.frozen = s.notice.frozen := by
  unfold clearFault
  split <;> simp

theorem staysFrozen_commandBody (i : Instr) (c : Held) (s : State) (plain : ¬IsStart i) :
    StaysFrozen s (commandBody i c s) := by
  cases i with
  | restart => exact absurd (.inr rfl) plain
  | clearFault => exact .of_same (clearFault_frozen c s)
  | _ => exact .of_same (by simp [commandBody])

theorem staysFrozen_exec {i : Instr} {s t : State} (plain : ¬IsStart i) (h : exec i s = .next t) : StaysFrozen s t :=
  exec_keeps (P := StaysFrozen s) (fun u hu => hu.trans (.of_same (by simp))) (fun k x => .of_same (by simp)) (.refl s)
    (staysFrozen_eventBody i s) (fun c _ _ _ _ => staysFrozen_commandBody i c s plain)
    (fun cause is => absurd (.inl ⟨cause, is⟩) plain) (fun _ => .of_same rfl) h

/-- Settles O58: each row keeps `FrozenAgrees` by the parts it is made of, and none but a start clears the FROZEN condition. -/
theorem frozenStaysFrozen : Obligations.FrozenStaysFrozen := by
  refine ⟨fun s t hs h => ?_, fun s t frozen h plain => ?_⟩
  · unfold step at h
    split at h
    · injection h with h
      subst h
      exact SameForFrozen.agrees (by unfold passMillisecond; split <;> constructor <;> simp) hs
    · exact frozen_exec (SameForFrozen.agrees (s := s) (by constructor <;> simp) hs) h
  · unfold step at h
    split at h
    · injection h with h
      subst h
      unfold passMillisecond
      split <;> simpa using frozen
    · rename_i i rest front
      exact staysFrozen_exec (not_isStart front plain) h frozen

end Sys2Proof.Machine

namespace Sys2Proof.Machine

/-! ## The commands of the scan, and the scan after a start (R66, R68, R69, R71) -/

/-! ### After a start -/

/-- RESTART is served in every state, and its step is the hot start itself (R178; assumption 18). -/
theorem exec_restart {s : State} {c : Held} {rest : List Held} (h : Oldest s 0x5F c rest) (none : c.params = []) :
    exec .restart s = .next (settleLine (hotStart c s)) :=
  exec_begins (i := .restart) rfl h (by simp [paramsFit, fixedBytes, none]) (fun _ => rfl)

/-- Settles O4: the parts stand in the starts as R66 and R92 list them, and the line's settling touches none of them. -/
theorem startsSetScanUnitAndDetector : Obligations.StartsSetScanUnitAndDetector := by
  refine ⟨⟨fun cause s => ⟨_, rfl, rfl⟩, fun s c rest h none => ?_⟩,
    ⟨fun cause s => ⟨_, rfl, rfl, rfl⟩, fun s c rest h none => ?_⟩⟩
  · exact ⟨_, exec_restart h none, settleLine_scan _⟩
  · exact ⟨_, exec_restart h none, settleLine_queue _, settleLine_det _⟩

/-! ### HALT SCAN -/

/-- Settles O40: while FROZEN the command is refused before its own handling, and each other form is a branch of `haltScan`. -/
theorem haltScanForms : Obligations.HaltScanForms := by
  intro s c rest h
  have fits (none : c.params = []) : paramsFit .haltScan c = true := by simp [paramsFit, fixedBytes, none]
  have served {t : State} {k : ReplyCode} (none : c.params = []) (awake : s.notice.frozen = false)
      (body : haltScan c s = answer k [] t) (cmd : t.cmd = s.cmd) (line : t.line = s.line) :
      exec .haltScan s = .next (replied k [] c rest t) := by
    rw [exec_served (i := .haltScan) rfl h (fits none) awake]
    exact settled_reply h body cmd line
  refine ⟨fun some => ?_, fun none state => ?_, fun none awake state => ?_, fun none awake state => ?_,
    fun none awake state => ?_⟩
  · exact exec_misfit (i := .haltScan) rfl h (by simp [paramsFit, fixedBytes, some])
  · by_cases frozen : s.notice.frozen = true
    · exact exec_frozen (i := .haltScan) rfl h (fits none) frozen rfl
    · exact served none (by simpa using frozen) (by simp [haltScan, state]) rfl rfl
  · exact served none awake (by simp [haltScan, state]) rfl rfl
  · exact served none awake (by simp [haltScan, state]) rfl rfl
  · exact served none awake (by simp [haltScan, state]) rfl rfl

/-! ### START SCAN -/

theorem anyAdmitted_iff (s : State) : anyAdmitted s = true ↔ ∃ e ∈ s.tracker.lanes, e.2.record.state = .admitted := by
  simp [anyAdmitted]

theorem activeDmax_of_active {s : State} {bank : BankId} (active : s.banks.active = some bank) :
    activeDmax s = (s.banks.get bank).dmax.getD 0 := by
  simp [activeDmax, activeBank, active]

/-- The scan as an accepted START SCAN leaves it, at the line time `l` (R68). -/
def scanStarted (l : Nat) (s : State) : State :=
  s.setScan { s.scan with state := .running, cursor := some (startCursor s.scan.cursor l), inUse := some s.params.scan }

/-- START SCAN with checks 3 to 6 passed (R68). -/
theorem startScan_of_ready {s : State} {bank : BankId} {l : Nat} (c : Held) (idle : s.scan.state = .idle)
    (held : s.notice.faultRecord = none) (active : s.banks.active = some bank) (line : s.tracker.lineTime = some l)
    (admitted : ∃ e ∈ s.tracker.lanes, e.2.record.state = .admitted) :
    startScan c s = retest (answer .ok (encNat 6 (startCursor s.scan.cursor l) ++ encNat 1 bank.code
      ++ encNat 2 ((s.banks.get bank).dmax.getD 0)) (scanStarted l s)) := by
  simp [startScan, idle, held, active, line, (anyAdmitted_iff s).2 admitted, activeDmax_of_active active, scanStarted]

theorem startScan_of_unready {s : State} (c : Held) (idle : s.scan.state = .idle) (held : s.notice.faultRecord = none)
    (unready : s.banks.active = none ∨ (¬∃ e ∈ s.tracker.lanes, e.2.record.state = .admitted) ∨ s.tracker.lineTime = none) :
    startScan c s = answer .notReady [] s := by
  rw [← anyAdmitted_iff] at unready
  simp only [startScan, idle, held, bne_self_eq_false, Bool.false_eq_true, if_false, Option.isSome_none]
  split
  · rename_i active line
    rw [if_neg (by simpa [active, line] using unready)]
  · rfl

/-- The scan's tests move the cursor and SKIPPED_TICKS at most (R74, R86). -/
theorem retest_scan (s : State) : ∃ x n, (retest s).scan = { s.scan with cursor := x, skippedTicks := n } := by
  obtain same | ⟨x, y, _, _, _, _, jump⟩ := retest_cases s
  · exact ⟨s.scan.cursor, s.scan.skippedTicks, by rw [same]⟩
  · exact ⟨some y, satAdd s.scan.skippedTicks (y - x), by simp [jump, jumpCursor]⟩

theorem startCursor_of_lt {l : Nat} (cursor : Option Nat) (below : l + 1 < 2 ^ 48) :
    startCursor cursor l = max (l + 1) (cursor.getD 0) := by
  have bound : l + 1 < Config.count48Bound := by simpa [Config.count48Bound] using below
  simp [startCursor, count48, bound]

/-- An accepted START SCAN leaves the scan RUNNING with the SCAN group taken, whatever the fall-behind test finds (R68). -/
theorem startScan_runs {s : State} {bank : BankId} {l : Nat} (c : Held) (idle : s.scan.state = .idle)
    (held : s.notice.faultRecord = none) (active : s.banks.active = some bank) (line : s.tracker.lineTime = some l)
    (admitted : ∃ e ∈ s.tracker.lanes, e.2.record.state = .admitted) :
    (settleLine (startScan c s)).scan.state = .running
      ∧ (settleLine (startScan c s)).scan.inUse = some s.params.scan := by
  obtain ⟨x, n, scan⟩ := retest_scan (answer .ok (encNat 6 (startCursor s.scan.cursor l) ++ encNat 1 bank.code
    ++ encNat 2 ((s.banks.get bank).dmax.getD 0)) (scanStarted l s))
  rw [startScan_of_ready c idle held active line admitted, settleLine_scan, scan]
  simp [scanStarted]

/-- Settles O39: the checks are the branches of `startScan`, and the new cursor stands above line time, so the fall-behind test
that follows changes nothing. -/
theorem startScanForms : Obligations.StartScanForms := by
  intro s c rest h none awake admitted
  have served : exec .startScan s = .next (settleLine (startScan c s)) :=
    exec_served (i := .startScan) rfl h (by simp [paramsFit, fixedBytes, none]) awake
  rw [served]
  refine ⟨fun busy => ?_, fun r idle held => ?_, fun idle held unready => ?_, fun bank l idle held active line ready =>
    ⟨⟨_, rfl, ?_, ?_⟩, fun below => ?_⟩⟩
  · exact settled_reply h (by simp [startScan, busy]) rfl rfl
  · exact settled_reply h (by simp [startScan, idle, held]) rfl rfl
  · exact settled_reply h (startScan_of_unready c idle held unready) rfl rfl
  · exact (startScan_runs c idle held active line ready).1
  · exact (startScan_runs c idle held active line ready).2
  · have stands := startCursor_of_lt s.scan.cursor below
    have body := startScan_of_ready c idle held active line ready
    rw [retest_stays] at body
    · rw [← stands]
      exact settled_reply h body rfl rfl
    · refine .inr (.inr (.inr ⟨startCursor s.scan.cursor l, l, by simp [scanStarted], by simpa [scanStarted] using line, ?_⟩))
      rw [stands]
      omega

/-! ### CLEAR SCAN -/

theorem detClear_eq (d : Detector) : d.clear =
    { d with
      state := .quiet, running := none, holdoff := 0
      clearedEvents := if d.state = .declared then satAdd d.clearedEvents 1 else d.clearedEvents
      abortedOnsets := if d.state = .onset then satAdd d.abortedOnsets 1 else d.abortedOnsets } := by
  unfold Detector.clear
  cases state : d.state <;> simp

/-- Settles O41: the forms are the branches of `clearScan`, with the Detector of `detClear_eq` and the switch of
`activate_of_other`. -/
theorem clearScanForms : Obligations.ClearScanForms := by
  refine ⟨fun s c rest h none awake => ?_, fun s => ⟨fun still => ?_, fun bank pending other => ?_⟩⟩
  · have served : exec .clearScan s = .next (settleLine (clearScan c s)) :=
      exec_served (i := .clearScan) rfl h (by simp [paramsFit, fixedBytes, none]) awake
    have effect (closed : s.det.closing = .none) : clearScan c s = answer .ok [] (clearScanEffect s) := by
      simp [clearScan, closed]
    rw [served]
    refine ⟨fun closing => ?_, fun closed idle => ?_, fun closed works => ?_⟩
    · have waits : clearScan c s = s.setCmd { s.cmd with executing := some .clearScan } := if_pos closing
      rw [waits]
      exact congrArg _ (waiting_begins _ h.held h.noWaiter)
    · have unchanged : clearScanEffect s = s := if_neg (by simp [not_scanning_of_idle idle])
      exact settled_reply h ((effect closed).trans (by rw [unchanged])) rfl rfl
    · have cleared : clearScanEffect s =
          takeSwitch ((s.setScan { s.scan with state := .idle, tick := .none }).setDet s.det.clear) :=
        if_pos (by simpa [scanning] using works)
      rw [← detClear_eq, ← cleared]
      exact settled_reply h (effect closed) (by simp) (by simp)
  · simp [takeSwitch, still]
  · simp [takeSwitch, pending, activate_of_other bank other]

end Sys2Proof.Machine

namespace Sys2Proof.Machine

/-! ## TICK_SCAN_BEGIN (R74, R75, R77) -/

/-! ### Readiness -/

/-- Tick `t` is ready at the line time `l`, with the bank `bank` ACTIVE (R75). -/
structure TickReady (s : State) (t : Nat) (bank : BankId) (l : Nat) : Prop where
  reached : t + (s.banks.get bank).dmax.getD 0 ≤ l
  delivered : (complete s t = true ∨ t + (s.banks.get bank).dmax.getD 0 + (scanValues s).grace ≤ l)

theorem ready_iff {s : State} {t : Nat} {bank : BankId} {l : Nat} (active : s.banks.active = some bank)
    (line : s.tracker.lineTime = some l) : ready s t = true ↔ TickReady s t bank l := by
  have reached (extra : Nat) :
      lineReached s t extra = true ↔ t + (s.banks.get bank).dmax.getD 0 + extra ≤ l := by
    simp [lineReached, line, activeDmax_of_active active]
  unfold ready deadline
  rw [Bool.and_eq_true, Bool.or_eq_true, reached, reached]
  exact ⟨fun h => ⟨h.1, h.2⟩, fun h => ⟨h.reached, h.delivered⟩⟩

/-- Nothing but readiness keeps the cursor tick from its tick scan (R74, R77; assumptions 11, 12). -/
structure MayScan (s : State) (t : Nat) (bank : BankId) : Prop where
  cursor : s.scan.cursor = some t
  active : s.banks.active = some bank
  tests : ScanTests s
  noChange : ∀ x, s.cmd.executing ≠ some (.laneChange x)

theorem laneChangeWaits_iff (s : State) : laneChangeWaits s = true ↔ ∃ x, s.cmd.executing = some (.laneChange x) := by
  unfold laneChangeWaits
  split
  · rename_i x is
    exact ⟨fun _ => ⟨x, is⟩, fun _ => rfl⟩
  · rename_i other
    exact ⟨fun is => (nomatch is), fun ⟨x, is⟩ => absurd is (other x)⟩

theorem tickScanBegin_of_mayScan {s : State} {t : Nat} {bank : BankId} (h : MayScan s t bank) :
    tickScanBegin s = if ready s t then beginTick t bank s else s := by
  have waits : laneChangeWaits s = false := by
    rw [Bool.eq_false_iff, ne_eq, laneChangeWaits_iff]
    exact fun ⟨x, is⟩ => h.noChange x is
  unfold tickScanBegin
  rw [h.cursor, h.active]
  simp [(scanTests_iff s).2 h.tests, waits]

/-- A tick scan begins only where it may and its tick is ready (R74, R75, R77). -/
theorem tickScanBegin_stays {s : State} (h : ∀ t bank, MayScan s t bank → ready s t = false) : tickScanBegin s = s := by
  unfold tickScanBegin
  split
  · rename_i t bank cursor active
    split
    · rename_i begins
      rw [Bool.and_eq_true, Bool.and_eq_true] at begins
      obtain ⟨⟨tests, noChange⟩, isReady⟩ := begins
      have may : MayScan s t bank := by
        refine ⟨cursor, active, (scanTests_iff s).1 tests, fun x is => ?_⟩
        rw [(laneChangeWaits_iff s).2 ⟨x, is⟩] at noChange
        cases noChange
      simp [h t bank may] at isReady
    · rfl
  · rfl

/-! ### What a tick scan takes as it begins -/

theorem contributingSet_eq (s : State) : contributingSet s =
    (s.tracker.lanes.filter fun e => e.2.record.contributes).map fun e => (e.1, e.2.record.weightInUse) := by
  unfold contributingSet
  induction s.tracker.lanes with
  | nil => rfl
  | cons e rest ih => by_cases takesPart : e.2.record.contributes = true <;> simp [takesPart, ih]

/-- The cut-off of each listed lane rises to `u`, and no other cut-off moves (R77). -/
theorem find_raiseCutoffs (lanes : Memory Lane) (u lane : Nat) (m : Memory Nat) :
    Memory.find (raiseCutoffs lanes u m) lane =
      if (Memory.find lanes lane).isSome then some (max u ((Memory.find m lane).getD 0)) else Memory.find m lane := by
  unfold raiseCutoffs
  induction lanes generalizing m with
  | nil => rfl
  | cons e rest ih =>
    obtain ⟨j, l⟩ := e
    rw [List.foldl_cons, ih, Memory.find_put]
    by_cases same : lane = j
    · subst same
      simp [Memory.find]
    · simp [Memory.find, same]

/-- Settles O42: where no other condition is missing, a tick scan begins as `ready_iff` says, with the cut-offs of
`find_raiseCutoffs`. -/
theorem tickScansBegin : Obligations.TickScansBegin := by
  intro s free
  have run : exec .tickScanBegin s = .next (tickScanBegin s) := live_of_free tickScanBegin s free
  rw [run]
  refine ⟨fun missing => congrArg _ (tickScanBegin_stays fun t bank may => ?_),
    fun t bank l cursor active line runs still noBoundary noChange => ?_⟩
  · obtain ⟨state, still, noBoundary⟩ := may.tests
    obtain noCursor | noBank | stopped | flight | ⟨c, closing, boundary⟩ | ⟨x, waits⟩ | noLine := missing
    · exact absurd (noCursor.symm.trans may.cursor) nofun
    · exact absurd (noBank.symm.trans may.active) nofun
    · exact absurd state (not_or.2 stopped)
    · simp [still] at flight
    · simp [noBoundary c closing] at boundary
    · exact absurd waits (may.noChange x)
    · simp [ready, lineReached, noLine]
  · intro dmax grace contributes done isReady
    have begins := tickScanBegin_of_mayScan ⟨cursor, active, ⟨runs, still, noBoundary⟩, noChange⟩
    have dmaxIs : activeDmax s = dmax := activeDmax_of_active active
    have doneIs : complete s t = done := by
      simp only [complete, laneDelivered, dmaxIs]
      rfl
    have readyIs : ready s t = true ↔ isReady := by
      rw [ready_iff active line]
      exact ⟨fun h => ⟨h.reached, doneIs ▸ h.delivered⟩, fun h => ⟨h.1, doneIs ▸ h.2⟩⟩
    refine ⟨fun unready => ?_, fun is => ⟨raiseCutoffs s.tracker.lanes (t + dmax) s.scan.cutoffs, ?_, fun lane unmapped => ?_,
      fun lane e mapped => ?_⟩⟩
    · rw [begins, if_neg (mt readyIs.1 unready)]
    · rw [begins, if_pos (readyIs.2 is), beginTick, contributingSet_eq, dmaxIs, doneIs]
      rfl
    · have unlisted : Memory.find s.tracker.lanes lane = none := unmapped
      simp [find_raiseCutoffs, unlisted]
    · have listed : Memory.find s.tracker.lanes lane = some e := mapped
      simp [find_raiseCutoffs, listed]

end Sys2Proof.Machine

namespace Sys2Proof.Machine

/-! ## VOXEL_EVALUATION (R79 to R82, R85) -/

/-! ### The lanes of the contributing set -/

/-- The delay entry of a lane in the voxel that the tick scan `k` evaluates next (R60). -/
def voxelDelay (s : State) (k : TickScan) (lane : Nat) : DelayEntry := readDelay (s.banks.get k.bank) k.voxel lane

/-- What the read of a lane's cell answers for that voxel, or none where the delay is NONE (R80). -/
def voxelCell (s : State) (k : TickScan) (lane : Nat) : Option CellAnswer :=
  (voxelDelay s k lane).delay.map fun d => (trackOf s lane).readCell (k.origin + d)

/-- The delay entry of a lane is read good, and its cell too, or fails as it has failed before in the tick scan (R80). -/
def ReadGood (s : State) (k : TickScan) (p : Nat × Nat) : Prop :=
  (voxelDelay s k p.1).parityOk = true
    ∧ ∀ d, (voxelDelay s k p.1).delay = some d → (trackOf s p.1).readCell (k.origin + d) = .parityFailure →
      (p.1, k.origin + d) ∈ k.parityMet ∧ s.notice.frozen = false

/-- The (lane, weight, cell) of the lanes of `c` whose cells are present (R80). -/
def presentCells (s : State) (k : TickScan) (c : List (Nat × Nat)) : List (Nat × Nat × Nat) :=
  c.filterMap fun p =>
    match voxelCell s k p.1 with
    | some (.value x) => some (p.1, p.2, x)
    | _ => none

/-- The stack `x` with the lanes of `cells` added to it (R80, R81). -/
def Stack.addCells (x : Stack) (cells : List (Nat × Nat × Nat)) : Stack :=
  { sum := x.sum + (cells.map fun c => c.2.1 * c.2.2).sum
    wsum := x.wsum + (cells.map fun c => c.2.1).sum
    pairs := x.pairs ++ cells.map fun c => (c.1, c.2.1 * c.2.2) }

@[simp] theorem Stack.addCells_nil (x : Stack) : x.addCells [] = x := by simp [Stack.addCells]

theorem Stack.addCells_cons (x : Stack) (lane w c : Nat) (cells : List (Nat × Nat × Nat)) :
    x.addCells ((lane, w, c) :: cells) = (x.add lane w c).addCells cells := by
  simp [Stack.addCells, Stack.add, Nat.add_assoc]

/-- The walk over the lanes, from the stack `x` on. -/
def walkLanes (k : TickScan) (c : List (Nat × Nat)) (x : Stack) (s : State) : Option Stack × State :=
  stackLanes k.bank k.voxel k.origin c x s

theorem meetTrackParity_of_met {s : State} {k : TickScan} {lane u : Nat} (tick : s.scan.tick = some k)
    (met : (lane, u) ∈ k.parityMet) : meetTrackParity lane u s = s := by
  simp [meetTrackParity, tick, met]

/-- A lane that is read good adds its cell to the stack, where it is present, and changes nothing else. -/
theorem walkLanes_cons {s : State} {k : TickScan} {p : Nat × Nat} (tick : s.scan.tick = some k) (good : ReadGood s k p)
    (rest : List (Nat × Nat)) (x : Stack) :
    walkLanes k (p :: rest) x s = walkLanes k rest (x.addCells (presentCells s k [p])) s := by
  obtain ⟨lane, w⟩ := p
  obtain ⟨entry, cell⟩ := good
  unfold walkLanes
  rw [stackLanes]
  change (if !(voxelDelay s k lane).parityOk then _ else _) = _
  rw [if_neg (by simp [entry])]
  change (match (voxelDelay s k lane).delay with | none => _ | some d => _) = _
  cases delay : (voxelDelay s k lane).delay with
  | none => simp [presentCells, voxelCell, delay]
  | some d =>
    cases answer : (trackOf s lane).readCell (k.origin + d) with
    | value c => simp [presentCells, voxelCell, delay, answer, Stack.addCells_cons]
    | absent => simp [presentCells, voxelCell, delay, answer]
    | parityFailure =>
      obtain ⟨met, awake⟩ := cell d delay answer
      simp [presentCells, voxelCell, delay, answer, meetTrackParity_of_met tick met, awake]

theorem walkLanes_append {s : State} {k : TickScan} (tick : s.scan.tick = some k) {before : List (Nat × Nat)}
    (good : ∀ q ∈ before, ReadGood s k q) (rest : List (Nat × Nat)) (x : Stack) :
    walkLanes k (before ++ rest) x s = walkLanes k rest (x.addCells (presentCells s k before)) s := by
  induction before generalizing x with
  | nil => simp [presentCells]
  | cons p before ih =>
    have split : x.addCells (presentCells s k (p :: before))
        = (x.addCells (presentCells s k [p])).addCells (presentCells s k before) := by
      have both : presentCells s k (p :: before) = presentCells s k [p] ++ presentCells s k before :=
        List.filterMap_append (l := [p])
      simp [both, Stack.addCells, Nat.add_assoc]
    rw [List.cons_append, walkLanes_cons tick (good p (by simp)), ih fun q mem => good q (by simp [mem]), split]

/-- A delay entry that fails its parity check ends the walk (R80). -/
theorem walkLanes_of_badDelay {s : State} {k : TickScan} {p : Nat × Nat} (bad : (voxelDelay s k p.1).parityOk = false)
    (rest : List (Nat × Nat)) (x : Stack) :
    walkLanes k (p :: rest) x s = (none, takeFault .scan (.table k.bank k.voxel (.delay p.1)) s) := by
  unfold walkLanes
  rw [stackLanes]
  exact if_pos (by simpa [voxelDelay] using bad)

/-- Behind the lanes `before`, read good, stands the lane of `p` in the contributing set: its cell, at the delay `d`, fails its
parity check (R80). -/
structure CellFails (s : State) (k : TickScan) (before : List (Nat × Nat)) (p : Nat × Nat) (after : List (Nat × Nat))
    (d : Nat) : Prop where
  tick : s.scan.tick = some k
  split : k.contributing = before ++ p :: after
  good : ∀ q ∈ before, ReadGood s k q
  entry : (voxelDelay s k p.1).parityOk = true
  delay : (voxelDelay s k p.1).delay = some d
  bad : (trackOf s p.1).readCell (k.origin + d) = .parityFailure

/-- The failure is met, and the walk ends where that has frozen the engine (R80). -/
theorem CellFails.walk {s met : State} {k : TickScan} {before after : List (Nat × Nat)} {p : Nat × Nat} {d : Nat}
    (h : CellFails s k before p after d) (meets : meetTrackParity p.1 (k.origin + d) s = met) (x : Stack) :
    walkLanes k k.contributing x s = if met.notice.frozen then (none, met)
      else walkLanes k after (x.addCells (presentCells s k before)) met := by
  rw [h.split, walkLanes_append h.tick h.good]
  obtain ⟨lane, w⟩ := p
  have entry := h.entry
  have delay := h.delay
  unfold voxelDelay at entry delay
  unfold walkLanes
  rw [stackLanes]
  simp [entry, delay, h.bad, meets]

/-! ### The first failure of a cell in a tick scan -/

/-- The tick scan in flight once it has met the failure of a lane's cell of tick `u` (R80). -/
def TickScan.meet (k : TickScan) (lane u : Nat) : TickScan := { k with parityMet := k.parityMet ++ [(lane, u)] }

theorem meetTrackParity_of_new {s : State} {k : TickScan} {lane u : Nat} (tick : s.scan.tick = some k)
    (new : (lane, u) ∉ k.parityMet) :
    meetTrackParity lane u s =
      takeFault .scan (.track lane u) (s.setScan { s.scan with tick := some (k.meet lane u) }) := by
  simp [meetTrackParity, tick, new, updateTick, TickScan.meet]

/-- A fault that leaves the engine running leaves what the walk reads. -/
structure SameForWalk (s t : State) : Prop where
  banks : t.banks = s.banks
  tracks : t.tracks = s.tracks

theorem SameForWalk.delay {s t : State} (h : SameForWalk s t) (k : TickScan) (lane : Nat) :
    voxelDelay t k lane = voxelDelay s k lane := by
  unfold voxelDelay
  rw [h.banks]

theorem SameForWalk.track {s t : State} (h : SameForWalk s t) (lane : Nat) : trackOf t lane = trackOf s lane := by
  unfold trackOf
  rw [h.tracks]

theorem SameForWalk.cells {s t : State} (h : SameForWalk s t) (k : TickScan) (c : List (Nat × Nat)) :
    presentCells t k c = presentCells s k c := by
  unfold presentCells voxelCell
  simp only [h.delay, h.track]

/-- With the failure met and the engine running, the walk finds it again, as one met before. -/
theorem SameForWalk.cellFails {s t : State} (h : SameForWalk s t) {k : TickScan} {before after : List (Nat × Nat)}
    {p : Nat × Nat} {d : Nat} (fails : CellFails s k before p after d) (awake : t.notice.frozen = false)
    (tick : t.scan.tick = some (k.meet p.1 (k.origin + d))) :
    CellFails t (k.meet p.1 (k.origin + d)) before p after d := by
  refine ⟨tick, fails.split, fun q mem => ?_, ?_, ?_, ?_⟩
  · obtain ⟨entry, cell⟩ := fails.good q mem
    refine ⟨(congrArg DelayEntry.parityOk (h.delay k q.1)).trans entry, fun d' delay bad => ⟨?_, awake⟩⟩
    have delay : (voxelDelay s k q.1).delay = some d' := (congrArg DelayEntry.delay (h.delay k q.1)).symm.trans delay
    exact List.mem_append_left _ (cell d' delay (h.track q.1 ▸ bad)).1
  · exact (congrArg DelayEntry.parityOk (h.delay k p.1)).trans fails.entry
  · exact (congrArg DelayEntry.delay (h.delay k p.1)).trans fails.delay
  · rw [h.track]
    exact fails.bad

/-! ### The voxel -/

theorem exec_voxelEvaluation {s : State} (free : s.resetHeld = false) :
    exec .voxelEvaluation s = .next (settleLine (voxelEvaluation s)) :=
  live_of_free (fun t => settleLine (voxelEvaluation t)) s free

theorem voxelEvaluation_of_tick {s : State} {k : TickScan} (tick : s.scan.tick = some k)
    (below : k.voxel < (s.banks.get k.bank).voxelCount) : voxelEvaluation s = evaluateVoxel k s := by
  simp [voxelEvaluation, tick, below]

/-- The tick scan in flight goes on as `x`, at the voxel after the one that `k` has evaluated (R79). -/
def passVoxel (k x : TickScan) (s : State) : State :=
  s.setScan { s.scan with tick := some { x with voxel := k.voxel + 1 } }

theorem nextVoxel_eq {s : State} {k : TickScan} (tick : s.scan.tick = some k) : nextVoxel s = passVoxel k k s := by
  simp [nextVoxel, updateTick, passVoxel, tick]

/-- The flag entry of the voxel is read good, and the voxel is ENABLED (R79). -/
structure VoxelEnabled (s : State) (k : TickScan) : Prop where
  parity : (readFlags (s.banks.get k.bank) k.voxel).parityOk = true
  enabled : (readFlags (s.banks.get k.bank) k.voxel).enabled = true

theorem evaluateVoxel_of_enabled {s : State} {k : TickScan} (h : VoxelEnabled s k) :
    evaluateVoxel k s = nextVoxel (takeVoxel (readFlags (s.banks.get k.bank) k.voxel).nuisance
      (walkLanes k k.contributing Stack.nothing s).1 (walkLanes k k.contributing Stack.nothing s).2) := by
  simp [evaluateVoxel, h.parity, h.enabled, walkLanes]

/-- The stack of a voxel whose entries are all read good enters the running values where its weight suffices (R81, R82). -/
theorem nextVoxel_takeVoxel {s : State} {k : TickScan} (tick : s.scan.tick = some k) (nuisance : Bool) (x : Stack) :
    nextVoxel (takeVoxel nuisance (some x) s) =
      if x.wsum < (scanValues s).minWeight then passVoxel k k s else passVoxel k (k.takeStack nuisance x) s := by
  unfold takeVoxel
  dsimp only
  split
  · exact nextVoxel_eq tick
  · simp [nextVoxel, updateTick, passVoxel, tick, TickScan.takeStack]

/-- With the failure met and the engine running, the evaluation goes on as one that finds it met before (R80). -/
theorem evaluateVoxel_of_met {s met : State} {k : TickScan} {before after : List (Nat × Nat)} {p : Nat × Nat} {d : Nat}
    (enabled : VoxelEnabled s k) (fails : CellFails s k before p after d)
    (meets : meetTrackParity p.1 (k.origin + d) s = met) (awake : met.notice.frozen = false) (same : SameForWalk s met)
    (tick : met.scan.tick = some (k.meet p.1 (k.origin + d))) :
    evaluateVoxel k s = evaluateVoxel (k.meet p.1 (k.origin + d)) met := by
  have flags : readFlags (met.banks.get k.bank) k.voxel = readFlags (s.banks.get k.bank) k.voxel := by rw [same.banks]
  have enabledAgain : VoxelEnabled met (k.meet p.1 (k.origin + d)) :=
    ⟨(congrArg FlagEntry.parityOk flags).trans enabled.parity, (congrArg FlagEntry.enabled flags).trans enabled.enabled⟩
  have metBefore : meetTrackParity p.1 (k.origin + d) met = met :=
    meetTrackParity_of_met tick (by simp [TickScan.meet])
  have walk := fails.walk meets Stack.nothing
  have again := (same.cellFails fails awake tick).walk metBefore Stack.nothing
  rw [if_neg (by simp [awake])] at walk again
  have cells : presentCells met (k.meet p.1 (k.origin + d)) before = presentCells s k before := same.cells k before
  rw [evaluateVoxel_of_enabled enabled, evaluateVoxel_of_enabled enabledAgain, walk, again, cells, ← flags]
  rfl

/-- Settles O43: the walk passes over the lanes read good by `walkLanes_append`, and each other form is what the next lane does to
it. -/
theorem voxelsEvaluated : Obligations.VoxelsEvaluated := by
  intro s free
  have settles {t : State} (h : voxelEvaluation s = t) : exec .voxelEvaluation s = .next (settleLine t) :=
    h ▸ exec_voxelEvaluation free
  refine ⟨fun idle => settles (by simp [voxelEvaluation, idle]), fun k tick => ?_⟩
  intro b flags pass delay cell good part sum wsum value new
  refine ⟨fun past => settles ?_, fun below => ?_⟩
  · unfold voxelEvaluation
    rw [tick]
    exact if_neg (Nat.not_lt.2 past)
  have evaluates := voxelEvaluation_of_tick tick below
  refine ⟨fun parity disabled => settles ?_, fun parity => settles ?_, fun before p after parity enabled split goods => ?_,
    fun parity enabled goods => settles ?_⟩
  · have passed : evaluateVoxel k s = nextVoxel s := by
      have parity : (readFlags (s.banks.get k.bank) k.voxel).parityOk = true := parity
      have disabled : (readFlags (s.banks.get k.bank) k.voxel).enabled = false := disabled
      simp [evaluateVoxel, parity, disabled]
    rw [evaluates, passed]
    exact nextVoxel_eq tick
  · rw [evaluates]
    exact if_pos (by simpa using parity)
  · have enters := evaluateVoxel_of_enabled ⟨parity, enabled⟩
    refine ⟨fun bad => settles ?_, fun d entry is bad unmet => ?_⟩
    · rw [evaluates, enters, split, walkLanes_append tick goods, walkLanes_of_badDelay bad]
      rfl
    · intro met
      have fails : CellFails s k before p after d := ⟨tick, split, goods, entry, is, bad⟩
      have meets : meetTrackParity p.1 (k.origin + d) s = met := meetTrackParity_of_new tick unmet
      refine ⟨fun frozen => settles ?_, fun awake => ?_⟩
      · rw [evaluates, enters, fails.walk meets, if_pos frozen]
        rfl
      · obtain ⟨_, _, _, runs⟩ := takeFault_running awake
        have runs : met = _ := runs
        have same : SameForWalk s met := by rw [runs]; constructor <;> simp
        have tick' : met.scan.tick = some (k.meet p.1 (k.origin + d)) := by rw [runs]; simp [TickScan.meet]
        have free' : met.resetHeld = false := by rw [runs]; simpa using free
        have goesOn := evaluateVoxel_of_met ⟨parity, enabled⟩ fails meets awake same tick'
        rw [settles (evaluates.trans goesOn), exec_voxelEvaluation free',
          voxelEvaluation_of_tick tick' (same.banks ▸ below)]
  · have walked : walkLanes k k.contributing Stack.nothing s = (some (Stack.nothing.addCells part), s) := by
      have walked := walkLanes_append tick goods [] Stack.nothing
      rw [List.append_nil] at walked
      exact walked
    rw [evaluates, evaluateVoxel_of_enabled ⟨parity, enabled⟩, walked, nextVoxel_takeVoxel tick]
    have weight : (Stack.nothing.addCells part).wsum = wsum := Nat.zero_add _
    rw [weight]
    refine if_congr Iff.rfl rfl ?_
    have taken : k.takeStack flags.nuisance (Stack.nothing.addCells part) = { k with
        count := k.count + 1
        total := k.total + value
        peak := takePeak k.peak new } := by
      simp [TickScan.takeStack, Stack.value, Stack.addCells, Stack.nothing, value, sum, wsum, new]
    change passVoxel k (k.takeStack flags.nuisance (Stack.nothing.addCells part)) s = pass _
    rw [taken]
    cases peak : k.peak <;> rfl

end Sys2Proof.Machine

namespace Sys2Proof.Machine

/-! ## TICK_RESULT_DELIVERY (R70, R73, R83, R84, R86) -/

/-! ### The line's settling depends on the line and the Command Unit -/

/-- One line and one Command Unit. -/
structure SameLine (s u : State) : Prop where
  line : u.line = s.line
  cmd : u.cmd = s.cmd

theorem SameLine.placeOneWaiter {s u : State} (h : SameLine s u) : SameLine (placeOneWaiter s) (placeOneWaiter u) := by
  unfold Machine.placeOneWaiter
  rw [h.line, h.cmd]
  split
  · split
    · split
      · exact ⟨by simp [placeReply, h.line], by simp [placeReply, h.cmd]⟩
      · exact h
    · split
      · exact ⟨by simp, by simp [h.cmd]⟩
      · exact h
    · exact h
    · exact h
  · exact h

theorem SameLine.placeWaiters {s u : State} (h : SameLine s u) : SameLine (placeWaiters s) (placeWaiters u) :=
  h.placeOneWaiter.placeOneWaiter.placeOneWaiter

theorem SameLine.settleLine {s u : State} (h : SameLine s u) : SameLine (settleLine s) (settleLine u) := by
  have placed := h.placeWaiters
  have chosen : SameLine (arbitrate (Machine.placeWaiters s)) (arbitrate (Machine.placeWaiters u)) :=
    ⟨by simp [arbitrate, placed.line], by simp [placed.cmd]⟩
  exact chosen.placeWaiters

theorem SameLine.answer {s u : State} (h : SameLine s u) (k : ReplyCode) (x : Bytes) :
    SameLine (answer k x s) (answer k x u) := by
  unfold Machine.answer
  rw [h.line, h.cmd]
  split
  · exact h
  · dsimp only
    split
    · exact ⟨by simp [placeReply, h.line], by simp [placeReply, h.cmd]⟩
    · exact ⟨rfl, rfl⟩

theorem placeWaiters_of_full {s : State} (full : Config.ownDepth ≤ s.line.own.length) : placeWaiters s = s := by
  have one : placeOneWaiter s = s := if_neg (by simpa [Line.room] using full)
  simp [placeWaiters, one]

/-- With the Own Queue full and the downstream transmitter taken, the line stands as it is (R148, R149). -/
theorem settleLine_of_full {s : State} (full : Config.ownDepth ≤ s.line.own.length) (sends : s.line.dnTx.isSome = true) :
    settleLine s = s := by
  have chosen : arbitrate s = s := by
    have line : s.line.arbitrate = s.line := if_pos (by simp [sends])
    simp [arbitrate, line, State.setLine]
  rw [settleLine, placeWaiters_of_full full, chosen, placeWaiters_of_full full]

/-- A reply built in a step that has left the line and the Command Unit alone answers the oldest held command (R148, R158). -/
theorem answered_settleLine {s u t : State} {c : Held} {rest : List Held} (k : ReplyCode) (x : Bytes) (same : SameLine s u)
    (reply : SameLine (answer k x u) t) (hh : s.cmd.held = c :: rest) : Answered k x c rest s (settleLine t) := by
  have ends : SameLine (settleLine (answer k x s)) (settleLine t) := by
    have first := (same.answer k x).settleLine
    have second := reply.settleLine
    exact ⟨second.line.trans first.line, second.cmd.trans first.cmd⟩
  refine ⟨fun room => ?_, fun full absent sends => ?_⟩
  · rw [ends.cmd, ends.line, settleLine_answer k x hh room]
    exact ⟨rfl, rfl⟩
  · have waits := answer_waits k x hh (s := s) (by simp [Line.mayPlace, Line.room, full])
    rw [settleLine_of_full (by simpa [waits] using full) (by simpa [waits] using sends), waits] at ends
    have others : s.line.waiters.filter (fun q => q != .commandUnit) = s.line.waiters :=
      List.filter_eq_self.2 fun q mem => by
        rw [bne_iff_ne]
        rintro rfl
        exact absent mem
    rw [ends.cmd, ends.line, others]
    exact ⟨by simp [hh], rfl⟩

/-! ### What the Detector keeps -/

/-- Only a completed close moves the serial counter (R110). -/
theorem beginClose_serial (reason : CloseReason) (tick : Nat) (boundary : Bool) (s : State) :
    (beginClose reason tick boundary s).det.serial = s.det.serial := by
  unfold beginClose
  split
  · rfl
  · simp [discardClose, Detector.afterClose]

theorem takeOverrun_serial (s : State) : (takeOverrun s).det.serial = s.det.serial := by
  unfold takeOverrun cutOpenEvent
  split
  · rfl
  · split
    · rfl
    · split
      · rfl
      · exact beginClose_serial ..
      · rfl

theorem takeTickResult_serial (r : TickResult) (s : State) : (takeTickResult r s).det.serial = s.det.serial := by
  have quiet (v : DetectParams) : (tickInQuiet v r s.det).serial = s.det.serial := by
    unfold tickInQuiet openCandidate
    split_ifs <;> rfl
  have onset (v : DetectParams) (run : Running) : (tickInOnset v r run s.det).serial = s.det.serial := by
    unfold tickInOnset
    dsimp only
    split_ifs <;> rfl
  unfold takeTickResult
  dsimp only
  split
  · exact quiet _
  · exact onset _ _
  · unfold tickInDeclared
    dsimp only
    split_ifs
    · exact beginClose_serial ..
    · exact beginClose_serial ..
    · rfl
  · rfl
  · rfl

theorem retest_serial (s : State) : (retest s).det.serial = s.det.serial := by
  obtain same | ⟨x, y, _, _, _, _, jump⟩ := retest_cases s
  · rw [same]
  · rw [jump, jumpCursor, setFlag_det, takeOverrun_serial]
    rfl

theorem stop_serial (d : Detector) : d.stop.serial = d.serial := by
  unfold Detector.stop
  split <;> rfl

/-- STOP of a Detector that rests (R103). -/
theorem stop_of_resting {d : Detector} (rests : d.state = .quiet ∨ d.state = .holdoff) :
    d.stop = { d with state := .quiet, holdoff := if d.state = .holdoff then 0 else d.holdoff } := by
  unfold Detector.stop
  rcases rests with state | state
  · simp [state]
    rw [← state]
  · simp [state]

/-- A tick result does the same in states with one Detector, one parameter set and one Event Queue (R94 to R100). -/
theorem SameForCut.takeTickResult {s u : State} (h : SameForCut s u) (hq : u.queue = s.queue) (r : TickResult) :
    (takeTickResult r u).det = (takeTickResult r s).det ∧ (takeTickResult r u).queue = (takeTickResult r s).queue := by
  have values : detValues u = detValues s := by rw [detValues, h.det, h.params, detValues]
  have set (d : Detector) : SameForCut (s.setDet d) (u.setDet d) := ⟨rfl, h.params, h.length⟩
  have queue (d : Detector) : (u.setDet d).queue = (s.setDet d).queue := hq
  unfold Machine.takeTickResult
  rw [values, h.det]
  dsimp only
  split
  · exact ⟨rfl, hq⟩
  · exact ⟨rfl, hq⟩
  · unfold tickInDeclared
    rw [h.det]
    dsimp only
    split_ifs
    · exact ⟨(set _).beginClose_det _ _ _, (set _).beginClose_queue (queue _) _ _ _⟩
    · exact ⟨(set _).beginClose_det _ _ _, (set _).beginClose_queue (queue _) _ _ _⟩
    · exact ⟨rfl, hq⟩
  · exact ⟨rfl, hq⟩
  · exact ⟨h.det, hq⟩

theorem length_beginClose (reason : CloseReason) (tick : Nat) (boundary : Bool) (s : State) :
    (beginClose reason tick boundary s).queue.length = s.queue.length := by
  unfold beginClose
  split
  · rfl
  · simp [discardClose]

theorem length_takeTickResult (r : TickResult) (s : State) : (takeTickResult r s).queue.length = s.queue.length := by
  unfold takeTickResult
  dsimp only
  split
  · rfl
  · rfl
  · unfold tickInDeclared
    dsimp only
    split_ifs
    · exact length_beginClose ..
    · exact length_beginClose ..
    · rfl
  · rfl
  · rfl

/-! ### The delivery -/

/-- The scan with the result of the tick scan `k` delivered (R83). -/
def scanDelivered (k : TickScan) (s : State) : Scan :=
  { s.scan with cursor := some (count48 (k.origin + 1)), tick := none, lastResult := some k.result.summary
                ticksScanned := satAdd s.scan.ticksScanned 1 }

theorem deliver_scan (k : TickScan) (s : State) : (deliver k.result s).scan = scanDelivered k s := by
  simp [deliver, scanDelivered, TickScan.result]

/-- The Detector does not look at the scan (R94). -/
theorem takeTickResult_setScan (r : TickResult) (s : State) (x : Scan) :
    (takeTickResult r (s.setScan x)).det = (takeTickResult r s).det
      ∧ (takeTickResult r (s.setScan x)).queue = (takeTickResult r s).queue :=
  SameForCut.takeTickResult (s := s) (u := s.setScan x) ⟨rfl, rfl, rfl⟩ rfl r

theorem deliver_det (r : TickResult) (s : State) : (deliver r s).det = (takeTickResult r s).det :=
  (takeTickResult_setScan r s _).1

theorem deliver_queue (r : TickResult) (s : State) : (deliver r s).queue = (takeTickResult r s).queue :=
  (takeTickResult_setScan r s _).2

/-! ### The boundary, in parts -/

/-- HALTING ends at this boundary (R70). -/
def haltEnds (s : State) : Bool := s.scan.state = .halting && detResting s

/-- The boundary up to the SET LANE that waits: the end of HALTING, or a pending switch where the Detector rests (R70, R73). -/
def boundaryBegun (s : State) : State :=
  if haltEnds s then endHalting s else if detResting s then takeSwitch s else s

/-- An IDLE scan makes no fall-behind test, so that the tests may be taken to end every boundary (R73, R74). -/
theorem tickBoundary_eq (s : State) : tickBoundary s = retest (applyWaitingChange (boundaryBegun s)) := by
  unfold tickBoundary boundaryBegun haltEnds
  split
  · symm
    refine retest_stays (.inl fun tests => ?_)
    have idle : (applyWaitingChange (endHalting s)).scan.state = .idle := by simp [endHalting]
    rcases tests.1 with state | state <;> exact nomatch idle.symm.trans state
  · rfl

theorem detResting_iff (s : State) : detResting s = true ↔ s.det.state = .quiet ∨ s.det.state = .holdoff := by
  simp [detResting]

theorem haltEnds_iff (s : State) :
    haltEnds s = true ↔ s.scan.state = .halting ∧ (s.det.state = .quiet ∨ s.det.state = .holdoff) := by
  simp [haltEnds, detResting_iff]

/-! `boundaryBegun` changes at most: banks, scan, det, notice. -/
@[simp] theorem boundaryBegun_line (s : State) : (boundaryBegun s).line = s.line := by
  unfold boundaryBegun; split_ifs <;> simp
@[simp] theorem boundaryBegun_cmd (s : State) : (boundaryBegun s).cmd = s.cmd := by
  unfold boundaryBegun; split_ifs <;> simp
@[simp] theorem boundaryBegun_params (s : State) : (boundaryBegun s).params = s.params := by
  unfold boundaryBegun; split_ifs <;> simp
@[simp] theorem boundaryBegun_tracker (s : State) : (boundaryBegun s).tracker = s.tracker := by
  unfold boundaryBegun; split_ifs <;> simp
@[simp] theorem boundaryBegun_queue (s : State) : (boundaryBegun s).queue = s.queue := by
  unfold boundaryBegun; split_ifs <;> simp
@[simp] theorem boundaryBegun_store (s : State) : (boundaryBegun s).store = s.store := by
  unfold boundaryBegun; split_ifs <;> simp
@[simp] theorem boundaryBegun_capture (s : State) : (boundaryBegun s).capture = s.capture := by
  unfold boundaryBegun; split_ifs <;> simp

theorem same_boundaryBegun (s : State) : SameMemories s (boundaryBegun s) := by
  unfold boundaryBegun
  split_ifs
  · exact same_endHalting s
  · exact same_takeSwitch s
  · exact .refl s

theorem boundaryBegun_scan (s : State) :
    (boundaryBegun s).scan = { s.scan with state := if haltEnds s then .idle else s.scan.state } := by
  unfold boundaryBegun
  split_ifs <;> simp [endHalting]

theorem boundaryBegun_det (s : State) : (boundaryBegun s).det = if haltEnds s then s.det.stop else s.det := by
  unfold boundaryBegun
  split_ifs <;> simp [endHalting]

theorem takeSwitch_of_none {s : State} (still : s.banks.pendingSwitch = none) : takeSwitch s = s := by
  simp [takeSwitch, still]

theorem takeSwitch_taken {s : State} {bank : BankId} (pending : s.banks.pendingSwitch = some bank) :
    (takeSwitch s).banks = s.banks.activate bank ∧ (takeSwitch s).notice.isSet .bank = true := by
  unfold takeSwitch
  rw [pending]
  exact ⟨by simp, isSet_setFlag_self _ _⟩

/-- A pending switch is taken at the boundary where the Detector rests (R64, R73). -/
theorem boundaryBegun_switched {s : State} {bank : BankId} (rests : detResting s = true)
    (pending : s.banks.pendingSwitch = some bank) :
    (boundaryBegun s).banks = s.banks.activate bank ∧ (boundaryBegun s).notice.isSet .bank = true := by
  unfold boundaryBegun
  split_ifs
  · obtain ⟨banks, flag⟩ := takeSwitch_taken
      (s := (s.setScan { s.scan with state := .idle }).setDet s.det.stop) pending
    exact ⟨by simpa [endHalting] using banks, isSet_setFlag _ flag⟩
  · exact takeSwitch_taken pending

theorem boundaryBegun_banks {s : State} (kept : detResting s = false ∨ s.banks.pendingSwitch = none) :
    (boundaryBegun s).banks = s.banks := by
  unfold boundaryBegun
  split_ifs with ends rests
  · have rests : detResting s = true := by
      simp only [haltEnds, Bool.and_eq_true] at ends
      exact ends.2
    have still : s.banks.pendingSwitch = none := kept.resolve_left (by simp [rests])
    simp [endHalting, takeSwitch, still]
  · rw [takeSwitch_of_none (kept.resolve_left (by simp [rests]))]
  · rfl

/-! ### The SET LANE that waits -/

theorem applyWaitingChange_of_change {s : State} {x : LaneChange} (waits : s.cmd.executing = some (.laneChange x)) :
    applyWaitingChange s = answer (okOr x.clamped) [] (applyLaneChange x s) := by
  unfold applyWaitingChange
  rw [waits]

theorem applyWaitingChange_of_none {s : State} (none : ∀ x, s.cmd.executing ≠ some (.laneChange x)) :
    applyWaitingChange s = s := by
  unfold applyWaitingChange
  split
  · rename_i x is
    exact absurd is (none x)
  · rfl

theorem isSet_applyWaitingChange {f : Flag} {s : State} (h : s.notice.isSet f = true) :
    (applyWaitingChange s).notice.isSet f = true := by
  unfold applyWaitingChange
  split
  · rename_i x _
    rw [answer_notice, applyLaneChange_eq]
    refine isSet_waitTestFor _ (isSet_setFlag _ ?_)
    unfold changeIncluded
    split <;> simpa using h
  · exact h

theorem applyWaitingChange_lineTime (s : State) : (applyWaitingChange s).tracker.lineTime = s.tracker.lineTime := by
  unfold applyWaitingChange
  split
  · simp [applyLaneChange_eq, changeIncluded_lineTime]
  · rfl

theorem length_applyWaitingChange (s : State) : (applyWaitingChange s).queue.length = s.queue.length := by
  unfold applyWaitingChange
  split
  · simp [applyLaneChange_eq, changeIncluded_queue]
  · rfl

/-- The wait test of the change, in the engine as the step leaves it (R126). -/
theorem applyLaneChange_tested {x : LaneChange} {s t : State} {q : List EventRecord}
    (same : SameForTest (applyLaneChange x s) t)
    (captures : { t.captures with queue := q } = (applyLaneChange x s).captures) :
    LaneTested t x.lane s.captures { t.captures with queue := q } := by
  have tested := waitTestFor_tested x.lane (setFlag .laneChange (changeIncluded x s))
  rw [applyLaneChange_captures, ← applyLaneChange_eq] at tested
  rw [captures]
  exact tested.congr same

/-- A change applied to the lanes of `u` is applied to those of every state that lists the same. -/
theorem SameMemories.laneChangeApplied {s u t : State} (h : SameMemories s u) {x : LaneChange} {l : Lane}
    (applied : LaneChangeApplied x l u t) : LaneChangeApplied x l s t := by
  refine ⟨applied.flag, applied.excluded, fun into => ?_, fun lane other => ?_⟩
  · rw [← h.trackOf, ← h.ringOf]
    exact applied.included into
  · rw [← h.trackOf, ← h.ringOf, ← h.laneOf]
    exact applied.others lane other

/-! ### The whole boundary -/

/-- The boundary up to the fall-behind test: the SET LANE that waits is applied (R4, R73). -/
def boundaryApplied (s : State) : State := applyWaitingChange (boundaryBegun s)

theorem tickBoundary_tests (s : State) : tickBoundary s = retest (boundaryApplied s) := tickBoundary_eq s

theorem boundaryApplied_scan (s : State) :
    (boundaryApplied s).scan = { s.scan with state := if haltEnds s then .idle else s.scan.state } := by
  simp [boundaryApplied, boundaryBegun_scan]

theorem boundaryApplied_det (s : State) : (boundaryApplied s).det = if haltEnds s then s.det.stop else s.det := by
  simp [boundaryApplied, boundaryBegun_det]

theorem boundaryApplied_banks (s : State) : (boundaryApplied s).banks = (boundaryBegun s).banks := by
  simp [boundaryApplied]

theorem boundaryApplied_params (s : State) : (boundaryApplied s).params = s.params := by simp [boundaryApplied]

theorem boundaryApplied_lineTime (s : State) : (boundaryApplied s).tracker.lineTime = s.tracker.lineTime := by
  simp [boundaryApplied, applyWaitingChange_lineTime]

theorem length_boundaryApplied (s : State) : (boundaryApplied s).queue.length = s.queue.length := by
  simp [boundaryApplied, length_applyWaitingChange]

theorem boundaryApplied_of_none {s : State} (none : ∀ x, s.cmd.executing ≠ some (.laneChange x)) :
    boundaryApplied s = boundaryBegun s := applyWaitingChange_of_none (by simpa using none)

theorem boundaryApplied_of_change {s : State} {x : LaneChange} (waits : s.cmd.executing = some (.laneChange x)) :
    boundaryApplied s = answer (okOr x.clamped) [] (applyLaneChange x (boundaryBegun s)) :=
  applyWaitingChange_of_change (by simpa using waits)

theorem tickBoundary_banks (s : State) : (tickBoundary s).banks = (boundaryBegun s).banks := by
  rw [tickBoundary_tests, retest_banks, boundaryApplied_banks]

theorem isSet_tickBoundary {f : Flag} {s : State} (h : (boundaryBegun s).notice.isSet f = true) :
    (tickBoundary s).notice.isSet f = true := by
  rw [tickBoundary_tests]
  exact isSet_retest (isSet_applyWaitingChange h)

theorem tickBoundary_scan (s : State) : ∃ x n, (tickBoundary s).scan = { s.scan with
    state := if haltEnds s then .idle else s.scan.state, cursor := x, skippedTicks := n } := by
  obtain ⟨x, n, scan⟩ := retest_scan (boundaryApplied s)
  exact ⟨x, n, by rw [tickBoundary_tests, scan, boundaryApplied_scan]⟩

theorem tickBoundary_serial (s : State) : (tickBoundary s).det.serial = s.det.serial := by
  rw [tickBoundary_tests, retest_serial, boundaryApplied_det]
  split
  · exact stop_serial _
  · rfl

/-- A boundary that ends HALTING (R70). -/
theorem tickBoundary_of_end {s : State} (ends : haltEnds s = true) :
    tickBoundary s = boundaryApplied s ∧ (tickBoundary s).notice.isSet .scanState = true := by
  refine ⟨?_, isSet_tickBoundary ?_⟩
  · rw [boundaryApplied, boundaryBegun, if_pos ends]
    exact if_pos ends
  · rw [boundaryBegun, if_pos ends]
    exact isSet_setFlag_self _ _

/-- The fall-behind test at a boundary finds the margin kept, or is not made (R74, R86). -/
theorem tickBoundary_of_within {s : State} {x : Nat} (cursor : s.scan.cursor = some x) (goes : haltEnds s = false)
    (within : ¬(s.scan.state = .running ∨ s.scan.state = .halting) ∨ ∀ l, s.tracker.lineTime = some l →
      l ≤ x + activeDmax (tickBoundary s) + (scanValues s).grace + (scanValues s).lagAllowance) :
    tickBoundary s = boundaryApplied s := by
  have dmax : activeDmax (tickBoundary s) = activeDmax (boundaryApplied s) := by
    simp [activeDmax, activeBank, tickBoundary_banks, boundaryApplied_banks]
  have values : scanValues (boundaryApplied s) = scanValues s := by
    simp [scanValues, boundaryApplied_scan, boundaryApplied_params]
  rw [dmax] at within
  rw [tickBoundary_tests]
  refine retest_stays ?_
  rw [boundaryApplied_lineTime, values]
  rcases within with stopped | within
  · refine .inl fun tests => stopped ?_
    simpa [boundaryApplied_scan, goes] using tests.1
  · cases line : s.tracker.lineTime with
    | none => exact .inr (.inr (.inl rfl))
    | some l => exact .inr (.inr (.inr ⟨x, l, by simp [boundaryApplied_scan, cursor], rfl, within l line⟩))

/-- The jump at a boundary, with the DMAX in use after it (R86, R101). -/
theorem tickBoundary_jumps {s : State} {x l : Nat} (goes : haltEnds s = false)
    (runs : s.scan.state = .running ∨ s.scan.state = .halting) (tick : s.scan.tick = none)
    (closed : s.det.closing = none) (cursor : s.scan.cursor = some x) (line : s.tracker.lineTime = some l)
    (passed : x + activeDmax (tickBoundary s) + (scanValues s).grace + (scanValues s).lagAllowance < l) :
    (tickBoundary s).scan.cursor = some (l - activeDmax (tickBoundary s) - (scanValues s).grace)
    ∧ (tickBoundary s).scan.skippedTicks =
        satAdd s.scan.skippedTicks (l - activeDmax (tickBoundary s) - (scanValues s).grace - x)
    ∧ (tickBoundary s).notice.isSet .scanOverrun = true ∧ (tickBoundary s).det = (takeOverrun s).det
    ∧ (tickBoundary s).queue = (takeOverrun (s.setQueue (boundaryApplied s).queue)).queue := by
  have dmax : activeDmax (tickBoundary s) = activeDmax (boundaryApplied s) := by
    simp [activeDmax, activeBank, tickBoundary_banks, boundaryApplied_banks]
  have values : scanValues (boundaryApplied s) = scanValues s := by
    simp [scanValues, boundaryApplied_scan, boundaryApplied_params]
  have scan : (boundaryApplied s).scan = s.scan := by simp [boundaryApplied_scan, goes]
  have det : (boundaryApplied s).det = s.det := by simp [boundaryApplied_det, goes]
  have behind : Behind (boundaryApplied s) x l := by
    refine ⟨⟨scan ▸ runs, scan ▸ tick, by simp [det, closed]⟩, scan ▸ cursor, ?_, ?_⟩
    · rw [boundaryApplied_lineTime, line]
    · rw [← dmax, values]
      exact passed
  have jumped := retest_jumps behind
  have cut : SameForCut s (boundaryApplied s) := ⟨det, boundaryApplied_params s, length_boundaryApplied s⟩
  have cutQueue : SameForCut (s.setQueue (boundaryApplied s).queue) (boundaryApplied s) :=
    ⟨det, boundaryApplied_params s, rfl⟩
  rw [dmax, tickBoundary_tests, ← values]
  refine ⟨?_, ?_, jumped.flag, jumped.det.trans cut.takeOverrun_det, jumped.queue.trans (cutQueue.takeOverrun_queue rfl)⟩
  · rw [jumped.scan]
  · rw [jumped.scan, scan]

/-- The wait test of a SET LANE that the boundary applies (R126). -/
theorem tickBoundary_tested {s : State} {x : LaneChange} (waits : s.cmd.executing = some (.laneChange x)) :
    LaneTested (settleLine (tickBoundary s)) x.lane s.captures
      { (settleLine (tickBoundary s)).captures with queue := (boundaryApplied s).queue } := by
  have applied := boundaryApplied_of_change waits
  have captures : (boundaryBegun s).captures = s.captures := by simp [State.captures]
  rw [← captures, tickBoundary_tests, applied]
  refine applyLaneChange_tested ?_ (by simp [State.captures])
  exact ((sameForTest_answer _ _ _).trans (sameForTest_retest _)).trans (sameForTest_settleLine _)

theorem tickBoundary_captures {s : State} (none : ∀ x, s.cmd.executing ≠ some (.laneChange x)) :
    { (settleLine (tickBoundary s)).captures with queue := (boundaryApplied s).queue } = s.captures := by
  rw [tickBoundary_tests, boundaryApplied_of_none none]
  simp [State.captures]

/-- A SET LANE that the boundary applies (R4, R7, R8). -/
theorem tickBoundary_changes {s : State} {x : LaneChange} {l : Lane} (waits : s.cmd.executing = some (.laneChange x))
    (mapped : laneOf s x.lane = some l) : LaneChangeApplied x l s (settleLine (tickBoundary s)) := by
  have begun := same_boundaryBegun s
  have applied := boundaryApplied_of_change waits
  have flag : (applyLaneChange x (boundaryBegun s)).notice.isSet .laneChange = true :=
    isSet_waitTestFor _ (isSet_setFlag_self _ _)
  refine begun.laneChangeApplied (laneChangeApplied ((begun.laneOf x.lane).trans mapped) ?_ ?_)
  · rw [tickBoundary_tests, applied]
    exact (((same_applyLaneChange x _).trans (same_answer _ _ _)).trans (same_retest _)).trans (same_settleLine _)
  · rw [settleLine_notice, tickBoundary_tests, applied]
    exact isSet_retest (by simpa using flag)

/-- The reply to a SET LANE that the boundary applies, in a step that came to it with the line and the Command Unit of `s` (R4,
R148). -/
theorem tickBoundary_answers {s u : State} (h : SameLine s u) {x : LaneChange} {c : Held} {rest : List Held}
    (waits : s.cmd.executing = some (.laneChange x)) (held : s.cmd.held = c :: rest) :
    Answered (okOr x.clamped) [] c rest s (settleLine (tickBoundary u)) := by
  have applied := boundaryApplied_of_change (s := u) (by rw [h.cmd]; exact waits)
  refine answered_settleLine (u := applyLaneChange x (boundaryBegun u)) _ _ ⟨?_, ?_⟩ ⟨?_, ?_⟩ held
  · simp [h.line]
  · simp [h.cmd]
  · rw [tickBoundary_tests, applied, retest_line]
  · rw [tickBoundary_tests, applied, retest_cmd]

theorem tickBoundary_sameLine {s : State} (none : ∀ x, s.cmd.executing ≠ some (.laneChange x)) :
    SameLine s (tickBoundary s) := by
  rw [tickBoundary_tests, boundaryApplied_of_none none]
  exact ⟨by simp, by simp⟩

/-! ### TICK_RESULT_DELIVERY -/

theorem exec_tickResultDelivery {s : State} (free : s.resetHeld = false) :
    exec .tickResultDelivery s = .next (settleLine (tickResultDelivery s)) :=
  live_of_free (fun t => settleLine (tickResultDelivery t)) s free

theorem tickResultDelivery_of_walked {s : State} {k : TickScan} (tick : s.scan.tick = some k)
    (walked : (s.banks.get k.bank).voxelCount ≤ k.voxel) (closed : s.det.closing = none) :
    tickResultDelivery s = if (deliver k.result s).det.closing.isSome then deliver k.result s
      else tickBoundary (deliver k.result s) := by
  simp [tickResultDelivery, tick, Nat.not_lt.2 walked, closed]

theorem deliver_captures (r : TickResult) (s : State) :
    (deliver r s).captures = { s.captures with queue := (takeTickResult r s).queue } := by
  simp [State.captures, deliver_queue]

/-- What a delivery leaves where a close begins: the boundary waits for it (assumption 12). -/
theorem tickResultDelivery_closes {s : State} {k : TickScan} (tick : s.scan.tick = some k)
    (walked : (s.banks.get k.bank).voxelCount ≤ k.voxel) (closed : s.det.closing = none)
    (begins : (takeTickResult k.result s).det.closing.isSome = true) : tickResultDelivery s = deliver k.result s := by
  rw [tickResultDelivery_of_walked tick walked closed, if_pos (by rw [deliver_det]; exact begins)]

theorem tickResultDelivery_goesOn {s : State} {k : TickScan} (tick : s.scan.tick = some k)
    (walked : (s.banks.get k.bank).voxelCount ≤ k.voxel) (closed : s.det.closing = none)
    (none : (takeTickResult k.result s).det.closing = none) :
    tickResultDelivery s = tickBoundary (deliver k.result s) := by
  rw [tickResultDelivery_of_walked tick walked closed, if_neg (by rw [deliver_det, none]; decide)]

/-- The fall-behind test, with the cursor and line time it finds (R86, R87). -/
theorem fallBehind_forms (s : State) :
    (s.scan.cursor = none ∨ s.tracker.lineTime = none → fallBehind s = s)
    ∧ ∀ t l, s.scan.cursor = some t → s.tracker.lineTime = some l →
      (l ≤ t + (activeDmax s + (scanValues s).grace + (scanValues s).lagAllowance) → fallBehind s = s)
      ∧ (t + (activeDmax s + (scanValues s).grace + (scanValues s).lagAllowance) < l →
        fallBehind s = jumpCursor t (l - activeDmax s - (scanValues s).grace) s) := by
  unfold fallBehind
  refine ⟨fun missing => ?_, fun t l cursor line => ?_⟩
  · rcases missing with noCursor | noLine
    · rw [noCursor]
    · rw [noLine]
      split <;> simp_all
  · rw [cursor, line]
    exact ⟨fun within => if_neg (by omega), fun passed => if_pos passed⟩

/-- The result's Detector rests: it is QUIET or in HOLDOFF. -/
def RestsAfter (s : State) (k : TickScan) : Prop :=
  (takeTickResult k.result s).det.state = .quiet ∨ (takeTickResult k.result s).det.state = .holdoff

theorem restsAfter_iff (s : State) (k : TickScan) : detResting (deliver k.result s) = true ↔ RestsAfter s k := by
  rw [detResting_iff, deliver_det]
  rfl

theorem haltEnds_deliver (s : State) (k : TickScan) :
    haltEnds (deliver k.result s) = true ↔ s.scan.state = .halting ∧ RestsAfter s k := by
  rw [haltEnds_iff, deliver_det, deliver_scan]
  rfl

theorem cursor_scanDelivered {k : TickScan} (s : State) (below : k.origin + 1 < 2 ^ 48) :
    (scanDelivered k s).cursor = some (k.origin + 1) := congrArg some (count48_of_lt below)

theorem scanValues_deliver (k : TickScan) (s : State) : scanValues (deliver k.result s) = scanValues s := by
  simp [scanValues, deliver_scan, scanDelivered]

theorem activeDmax_settleLine (s : State) : activeDmax (settleLine s) = activeDmax s := by simp [activeDmax, activeBank]

theorem sameLine_deliver (r : TickResult) (s : State) : SameLine s (deliver r s) := ⟨by simp, by simp⟩

/-- The delivery that ends HALTING (R70, R103). -/
theorem deliver_ends {s : State} {k : TickScan} (halting : s.scan.state = .halting) (rests : RestsAfter s k) :
    (settleLine (tickBoundary (deliver k.result s))).scan = { scanDelivered k s with state := .idle }
    ∧ (settleLine (tickBoundary (deliver k.result s))).notice.isSet .scanState = true
    ∧ (settleLine (tickBoundary (deliver k.result s))).det = (takeTickResult k.result s).det.stop
    ∧ (settleLine (tickBoundary (deliver k.result s))).queue = (boundaryApplied (deliver k.result s)).queue := by
  have ends := (haltEnds_deliver s k).2 ⟨halting, rests⟩
  obtain ⟨applied, flag⟩ := tickBoundary_of_end ends
  refine ⟨?_, by simpa using flag, ?_, ?_⟩
  · rw [settleLine_scan, applied, boundaryApplied_scan, if_pos ends, deliver_scan]
  · rw [settleLine_det, applied, boundaryApplied_det, if_pos ends, deliver_det]
  · rw [settleLine_queue, applied]

/-- The delivery after which the scan goes on, or stands, within the margin of the fall-behind test (R86). -/
theorem deliver_stays {s : State} {k : TickScan} (below : k.origin + 1 < 2 ^ 48)
    (goes : ¬(s.scan.state = .halting ∧ RestsAfter s k))
    (within : ¬(s.scan.state = .running ∨ s.scan.state = .halting) ∨ ∀ l, s.tracker.lineTime = some l →
      l ≤ k.origin + 1 + activeDmax (settleLine (tickBoundary (deliver k.result s))) + (scanValues s).grace
        + (scanValues s).lagAllowance) :
    (settleLine (tickBoundary (deliver k.result s))).scan = scanDelivered k s
    ∧ (settleLine (tickBoundary (deliver k.result s))).det = (takeTickResult k.result s).det
    ∧ (settleLine (tickBoundary (deliver k.result s))).queue = (boundaryApplied (deliver k.result s)).queue := by
  have on : ¬haltEnds (deliver k.result s) = true := mt (haltEnds_deliver s k).1 goes
  rw [activeDmax_settleLine] at within
  have line : (deliver k.result s).tracker.lineTime = s.tracker.lineTime := by simp
  have applied := tickBoundary_of_within (s := deliver k.result s) (x := k.origin + 1)
    (by rw [deliver_scan]; exact cursor_scanDelivered s below) (by simpa using on)
    (by rw [line, scanValues_deliver, deliver_scan]; exact within)
  refine ⟨?_, ?_, ?_⟩
  · rw [settleLine_scan, applied, boundaryApplied_scan, if_neg on, deliver_scan]
  · rw [settleLine_det, applied, boundaryApplied_det, if_neg on, deliver_det]
  · rw [settleLine_queue, applied]

/-- The delivery after which a scan that has fallen behind jumps (R86, R101). -/
theorem deliver_jumps {s : State} {k : TickScan} {l : Nat} (below : k.origin + 1 < 2 ^ 48)
    (none : (takeTickResult k.result s).det.closing = none) (goes : ¬(s.scan.state = .halting ∧ RestsAfter s k))
    (runs : s.scan.state = .running ∨ s.scan.state = .halting) (line : s.tracker.lineTime = some l)
    (passed : k.origin + 1 + activeDmax (settleLine (tickBoundary (deliver k.result s))) + (scanValues s).grace
      + (scanValues s).lagAllowance < l) :
    let t := settleLine (tickBoundary (deliver k.result s))
    let d := (takeTickResult k.result s).det
    t.scan.cursor = some (l - activeDmax t - (scanValues s).grace) ∧ t.notice.isSet .scanOverrun = true
    ∧ t.scan.skippedTicks =
        satAdd s.scan.skippedTicks (l - activeDmax t - (scanValues s).grace - (k.origin + 1))
    ∧ t.det = (takeOverrun (s.setDet d)).det
    ∧ t.queue = (takeOverrun ((s.setDet d).setQueue (boundaryApplied (deliver k.result s)).queue)).queue := by
  intro t d
  have det : (deliver k.result s).det = d := deliver_det _ s
  rw [activeDmax_settleLine] at passed
  obtain ⟨cursor, skipped, flag, cut, queue⟩ := tickBoundary_jumps (s := deliver k.result s) (x := k.origin + 1) (l := l)
    (by simpa using mt (haltEnds_deliver s k).1 goes) (by rw [deliver_scan]; exact runs) (by rw [deliver_scan]; rfl)
    (by rw [det]; exact none) (by rw [deliver_scan]; exact cursor_scanDelivered s below) (by simpa using line)
    (by rw [scanValues_deliver]; exact passed)
  rw [scanValues_deliver] at cursor skipped
  have same : SameForCut (s.setDet d) (deliver k.result s) :=
    ⟨det, by simp, by rw [deliver_queue]; exact length_takeTickResult _ _⟩
  have sameQueue (q : List EventRecord) : SameForCut ((s.setDet d).setQueue q) ((deliver k.result s).setQueue q) :=
    ⟨det, by simp, rfl⟩
  refine ⟨?_, by simpa [t] using flag, ?_, ?_, ?_⟩
  · rw [settleLine_scan, activeDmax_settleLine, cursor]
  · rw [settleLine_scan, activeDmax_settleLine, skipped, deliver_scan]
    rfl
  · rw [settleLine_det, cut, same.takeOverrun_det]
  · rw [settleLine_queue, queue, (sameQueue _).takeOverrun_queue rfl]

/-- What a delivery leaves of the scan, whatever follows it (R83). -/
theorem deliver_scanEnds (k : TickScan) (s : State) : ∃ x n m, (settleLine (tickBoundary (deliver k.result s))).scan =
    { scanDelivered k s with state := x, cursor := n, skippedTicks := m } := by
  obtain ⟨n, m, after⟩ := tickBoundary_scan (deliver k.result s)
  exact ⟨_, n, m, by rw [settleLine_scan, after, deliver_scan]⟩

/-- Settles O44: a close that begins ends the row with the delivery, and the parts of `tickBoundary` follow elsewhere. -/
theorem tickResultsDelivered : Obligations.TickResultsDelivered := by
  refine ⟨fun s free => ⟨fun idle => ?_, fun k tick => ?_⟩, fun s => fallBehind_forms s⟩
  · rw [exec_tickResultDelivery free]
    simp [tickResultDelivery, idle]
  intro r summary d rests scans v
  rw [exec_tickResultDelivery free]
  refine ⟨fun unfinished => ?_, fun walked closed => ?_⟩
  · have stays : tickResultDelivery s = s := by
      unfold tickResultDelivery
      rw [tick]
      exact if_pos (by simpa using unfinished)
    rw [stays]
  have captures : (deliver k.result s).captures = { s.captures with queue := (takeTickResult r s).queue } :=
    deliver_captures k.result s
  have line := sameLine_deliver k.result s
  by_cases none : d.closing = none
  · rw [tickResultDelivery_goesOn tick walked closed none]
    obtain ⟨_, _, _, scan⟩ := deliver_scanEnds k s
    refine ⟨_, (boundaryApplied (deliver k.result s)).queue, rfl, fun x _ waits => ?_, fun noChange => ?_, ?_, ?_, ?_, ?_, ?_,
      ?_, fun begins => absurd begins (by simp [none]), fun _ halting resting => ?_,
      fun _ goes => ⟨?_, fun below => ⟨fun within => ?_, fun l runs lineTime passed =>
        deliver_jumps below none goes runs lineTime passed⟩⟩,
      fun bank _ resting pending => ?_, fun kept => ?_, fun x _ waits => ⟨fun l mapped => ?_, fun c rest held =>
        tickBoundary_answers line waits held⟩, fun noChange => ?_⟩
    · rw [← captures]
      exact tickBoundary_tested (by rw [line.cmd]; exact waits)
    · have noChange := noChange.resolve_right (by simp [none])
      exact (tickBoundary_captures (by rw [line.cmd]; exact noChange)).trans captures
    iterate 4 · rw [scan]; rfl
    · rw [settleLine_det, tickBoundary_serial, deliver_det]
      exact takeTickResult_serial r s
    · simp
    · obtain ⟨scan, flag, det, queue⟩ := deliver_ends halting resting
      refine ⟨by rw [scan], flag, det.trans (stop_of_resting resting), queue, by rw [scan]; rfl, fun below => ?_⟩
      rw [scan]
      exact cursor_scanDelivered s below
    · obtain ⟨_, _, after⟩ := tickBoundary_scan (deliver k.result s)
      rw [settleLine_scan, after, if_neg (mt (haltEnds_deliver s k).1 goes), deliver_scan]
      rfl
    · obtain ⟨scan, det, queue⟩ := deliver_stays below goes within
      exact ⟨by rw [scan]; exact cursor_scanDelivered s below, det, queue, by rw [scan]; rfl⟩
    · obtain ⟨banks, flag⟩ := boundaryBegun_switched (s := deliver k.result s) (bank := bank)
        ((restsAfter_iff s k).2 resting) (by simpa using pending)
      rw [settleLine_banks, tickBoundary_banks, banks, settleLine_notice]
      exact ⟨activate_active _ _, activate_pendingSwitch _ _, isSet_tickBoundary flag⟩
    · have kept : detResting (deliver k.result s) = false ∨ (deliver k.result s).banks.pendingSwitch = .none :=
        kept.imp (fun awake => by simpa using mt (restsAfter_iff s k).1 awake) (by simp)
      rw [settleLine_banks, tickBoundary_banks, boundaryBegun_banks kept, deliver_banks]
    · have delivered : SameMemories s (deliver k.result s) := same_deliver _ s
      exact delivered.laneChangeApplied (tickBoundary_changes (by rw [line.cmd]; exact waits)
        ((delivered.laneOf x.lane).trans mapped))
    · have noChange := noChange.resolve_right (by simp [none])
      have bounded := tickBoundary_sameLine (s := deliver k.result s) (by rw [line.cmd]; exact noChange)
      have same : SameLine s (tickBoundary (deliver k.result s)) :=
        ⟨bounded.line.trans line.line, bounded.cmd.trans line.cmd⟩
      exact ⟨same.settleLine.cmd, same.settleLine.line⟩
  · have begins : d.closing.isSome = true := Option.isSome_iff_ne_none.2 none
    have scan : (settleLine (deliver k.result s)).scan = scanDelivered k s := (settleLine_scan _).trans (deliver_scan k s)
    have queue : (settleLine (deliver k.result s)).queue = (takeTickResult r s).queue :=
      (settleLine_queue _).trans (deliver_queue _ _)
    have det : (settleLine (deliver k.result s)).det = d := (settleLine_det _).trans (deliver_det _ _)
    rw [tickResultDelivery_closes tick walked closed begins]
    refine ⟨_, (takeTickResult r s).queue, rfl, fun _ no => absurd no none, fun _ => ?_, ?_, ?_, ?_, ?_, ?_, ?_,
      fun _ => ⟨det, queue, ?_, ?_, ?_, fun below => ?_⟩, fun no => absurd no none, fun no => absurd no none,
      fun _ no => absurd no none, fun _ => ?_, fun _ no => absurd no none,
      fun _ => ⟨line.settleLine.cmd, line.settleLine.line⟩⟩
    · simp [State.captures]
    iterate 4 · rw [scan]; rfl
    · rw [det]
      exact takeTickResult_serial r s
    · simp
    · rw [scan]; rfl
    · simp
    · rw [scan]; rfl
    · rw [scan]
      exact cursor_scanDelivered s below
    · simp

end Sys2Proof.Machine

namespace Sys2Proof.Machine

/-! ## The Detector on a tick result (R94 to R100) -/

/-! ### The tests of one tick -/

theorem triggerAt_iff (level coherence : Nat) (r : TickResult) : triggerAt level coherence r = true ↔
    1 ≤ r.eligible ∧ r.nuisance = false ∧ level ≤ r.peak ∧ r.mean * coherence ≤ r.peak * 16 := by
  simp [triggerAt, and_assoc]

theorem vetoTick_iff (r : TickResult) : vetoTick r = true ↔ 1 ≤ r.eligible ∧ r.nuisance = true := by simp [vetoTick]

/-! ### The result in each state -/

theorem takeTickResult_of_quiet {s : State} (r : TickResult) (state : s.det.state = .quiet) :
    takeTickResult r s = s.setDet (tickInQuiet (detValues s) r s.det) := by
  simp [takeTickResult, state]

theorem takeTickResult_of_onset {s : State} {run : Running} (r : TickResult) (state : s.det.state = .onset)
    (runs : s.det.running = some run) : takeTickResult r s = s.setDet (tickInOnset (detValues s) r run s.det) := by
  simp [takeTickResult, state, runs]

theorem takeTickResult_of_declared {s : State} {run : Running} (r : TickResult) (state : s.det.state = .declared)
    (runs : s.det.running = some run) : takeTickResult r s = tickInDeclared (detValues s) r run s := by
  simp [takeTickResult, state, runs]

theorem takeTickResult_of_holdoff {s : State} (r : TickResult) (state : s.det.state = .holdoff) :
    takeTickResult r s = s.setDet (tickInHoldoff s.det) := by
  simp [takeTickResult, state]

theorem tickInOnset_of_last {v : DetectParams} {r : TickResult} {run : Running} (d : Detector) (on : triggerOn v r = true)
    (last : v.kOn ≤ run.onsetCount + 1) : tickInOnset v r run d =
      { d with state := .declared
               running := some { run with onsetCount := run.onsetCount + 1, lastTick := r.origin
                                          maximum := run.maximum.update r, quietRun := 0, vetoCount := 0 } } := by
  simp [tickInOnset, on, last]

theorem tickInOnset_of_more {v : DetectParams} {r : TickResult} {run : Running} (d : Detector) (on : triggerOn v r = true)
    (more : run.onsetCount + 1 < v.kOn) : tickInOnset v r run d =
      { d with running := some { run with onsetCount := run.onsetCount + 1, lastTick := r.origin
                                          maximum := run.maximum.update r } } := by
  simp [tickInOnset, on, Nat.not_le.2 more]

theorem tickInOnset_of_off {v : DetectParams} {r : TickResult} (run : Running) (d : Detector) (off : ¬triggerOn v r = true) :
    tickInOnset v r run d =
      if vetoTick r then { d.abortOnset with nuisanceHits := satAdd d.abortOnset.nuisanceHits 1 } else d.abortOnset :=
  if_neg off

/-- The closing tests come in their order: the quiet run first (R98, R99). -/
theorem tickInDeclared_closes (v : DetectParams) (r : TickResult) (run : Running) (s : State) :
    let kept := run.takeDeclared v r
    let t := s.setDet { s.det with running := some kept }
    (v.qOff ≤ kept.quietRun → tickInDeclared v r run s = beginClose .quietRun r.origin true t)
    ∧ (kept.quietRun < v.qOff → kept.durationLimit ≤ r.origin - run.onsetTick + 1 →
        tickInDeclared v r run s = beginClose .durationLimit r.origin true t)
    ∧ (kept.quietRun < v.qOff → r.origin - run.onsetTick + 1 < kept.durationLimit → tickInDeclared v r run s = t) := by
  intro kept t
  have onset : kept.onsetTick = run.onsetTick := by
    simp only [kept, Running.takeDeclared]
    split <;> rfl
  have form : tickInDeclared v r run s =
      if v.qOff ≤ kept.quietRun then beginClose .quietRun r.origin true t
      else if kept.durationLimit ≤ r.origin - kept.onsetTick + 1 then beginClose .durationLimit r.origin true t
      else t := rfl
  rw [form, onset]
  refine ⟨fun quiet => if_pos quiet, fun loud long => ?_, fun loud short => ?_⟩
  · rw [if_neg (Nat.not_le.2 loud), if_pos long]
  · rw [if_neg (Nat.not_le.2 loud), if_neg (Nat.not_le.2 short)]

/-- Settles O45: the state of the Detector selects one function, and the tests of one tick its branch. -/
theorem detectorTakesTicks : Obligations.DetectorTakesTicks := by
  intro r s v on off veto here t
  have trigger : triggerOn v r = true ↔ on := triggerAt_iff ..
  have holds : triggerOff v r = true ↔ off := triggerAt_iff ..
  have vetoes : vetoTick r = true ↔ veto := vetoTick_iff r
  refine ⟨fun quiet => ?_, fun run onset runs => ?_, fun run declared runs => ?_, fun holdoff =>
    takeTickResult_of_holdoff r holdoff⟩
  · have taken : t = s.setDet (tickInQuiet v r s.det) := takeTickResult_of_quiet r quiet
    rw [taken, tickInQuiet]
    refine ⟨fun opens => ?_, fun no vetoed => ?_, fun no calm => ?_⟩
    · rw [if_pos (trigger.2 opens)]
      rfl
    · rw [if_neg (mt trigger.1 no), if_pos (vetoes.2 vetoed)]
    · rw [if_neg (mt trigger.1 no), if_neg (mt vetoes.1 calm)]
      rfl
  · have taken : t = s.setDet (tickInOnset v r run s.det) := takeTickResult_of_onset r onset runs
    rw [taken]
    refine ⟨fun goesOn last => ?_, fun goesOn more => ?_, fun no => ⟨fun vetoed => ?_, fun calm => ?_⟩⟩
    · rw [tickInOnset_of_last _ (trigger.2 goesOn) last]
      rfl
    · rw [tickInOnset_of_more _ (trigger.2 goesOn) more]
      rfl
    · rw [tickInOnset_of_off _ _ (mt trigger.1 no), if_pos (vetoes.2 vetoed)]
      rfl
    · rw [tickInOnset_of_off _ _ (mt trigger.1 no), if_neg (mt vetoes.1 calm)]
      rfl
  · have taken : t = tickInDeclared v r run s := takeTickResult_of_declared r declared runs
    rw [taken]
    refine ⟨run.takeDeclared v r, fun loud => if_pos (holds.2 loud), fun calm => ?_, tickInDeclared_closes v r run s⟩
    rw [Running.takeDeclared, if_neg (mt holds.1 calm)]
    simp only [vetoes]
    rfl

end Sys2Proof.Machine

namespace Sys2Proof.Machine

/-! ## OVERRUN, and the beginning of a close (R101, R106, R107, R111, R115) -/

theorem takeOverrun_of_closing {s : State} {c : Closing} (closing : s.det.closing = some c) :
    takeOverrun s = s.setDet { s.det with closing := some { c with overrun := true } } := by
  simp [takeOverrun, closing]

theorem takeOverrun_of_quiet {s : State} (closed : s.det.closing = none) (state : s.det.state = .quiet) :
    takeOverrun s = s := by
  simp [takeOverrun, cutOpenEvent, closed, state]

theorem takeOverrun_of_onset {s : State} (closed : s.det.closing = none) (state : s.det.state = .onset) :
    takeOverrun s = s.setDet s.det.abortOnset := by
  simp [takeOverrun, cutOpenEvent, closed, state]

theorem takeOverrun_of_declared {s : State} {run : Running} (closed : s.det.closing = none) (state : s.det.state = .declared)
    (runs : s.det.running = some run) : takeOverrun s = beginClose .overrun run.lastTick false s := by
  simp [takeOverrun, cutOpenEvent, closed, state, runs]

theorem takeOverrun_of_holdoff {s : State} (closed : s.det.closing = none) (state : s.det.state = .holdoff) :
    takeOverrun s = s.setDet { s.det with state := .quiet, holdoff := 0 } := by
  simp [takeOverrun, closed, state]

/-- A close that finds 32 records held discards its own (R107, R115). -/
theorem beginClose_of_full {s : State} {others : List EventRecord} {last : EventRecord} (reason : CloseReason) (tick : Nat)
    (boundary : Bool) (held : s.queue = others ++ [last]) (full : others.length = 31) :
    beginClose reason tick boundary s = setFlag .queueOverflow ((s.setDet
      { s.det.afterClose (detValues s).holdoff with queueDiscards := satAdd s.det.queueDiscards 1 }).setQueue
        (others ++ [{ last with overflowFollows := true }])) := by
  have discards : beginClose reason tick boundary s = discardClose s :=
    if_neg (by simp [held, full, Config.queueDepth])
  rw [discards, discardClose, held, markOverflow_append]
  rfl

/-- Settles O46: the cases are the Detector's states and the places of the Event Queue. -/
theorem closesBegin : Obligations.ClosesBegin := by
  refine fun s => ⟨fun closed => ⟨takeOverrun_of_quiet closed, takeOverrun_of_onset closed,
    fun run => takeOverrun_of_declared closed, takeOverrun_of_holdoff closed⟩, fun c => takeOverrun_of_closing,
    fun reason tick boundary => ⟨fun room => if_pos room, fun others last held full => ?_⟩⟩
  exact beginClose_of_full reason tick boundary held full

end Sys2Proof.Machine

namespace Sys2Proof.Machine

/-! ## The snippet plan (R111 to R114) -/

/-! ### The ranking of the candidates -/

/-- Pair `p` may stand before pair `q` in rank order: the larger PRODUCT, or as large a one and no higher lane (R111). -/
def RanksUpTo (p q : Nat × Nat) : Prop := q.2 < p.2 ∨ (p.2 = q.2 ∧ p.1 ≤ q.1)

theorem ranksUpTo_of_ranksBefore {p q : Nat × Nat} (h : ranksBefore p q = true) : RanksUpTo p q := by
  simp only [ranksBefore, Bool.or_eq_true, Bool.and_eq_true, decide_eq_true_eq, beq_iff_eq] at h
  unfold RanksUpTo
  omega

theorem ranksUpTo_of_not_ranksBefore {p q : Nat × Nat} (h : ¬ranksBefore p q = true) : RanksUpTo q p := by
  simp only [ranksBefore, Bool.or_eq_true, Bool.and_eq_true, decide_eq_true_eq, beq_iff_eq] at h
  unfold RanksUpTo
  omega

theorem RanksUpTo.trans {p q r : Nat × Nat} (h : RanksUpTo p q) (k : RanksUpTo q r) : RanksUpTo p r := by
  unfold RanksUpTo at *
  omega

theorem insertRanked_perm (p : Nat × Nat) (qs : List (Nat × Nat)) : (insertRanked p qs).Perm (p :: qs) := by
  induction qs with
  | nil => exact .refl _
  | cons q qs ih =>
    unfold insertRanked
    split
    · exact .refl _
    · exact (ih.cons q).trans (.swap p q qs)

theorem insertRanked_ranked {p : Nat × Nat} {qs : List (Nat × Nat)} (ranked : qs.Pairwise RanksUpTo) :
    (insertRanked p qs).Pairwise RanksUpTo := by
  induction qs with
  | nil => exact List.pairwise_singleton _ _
  | cons q qs ih =>
    obtain ⟨first, rest⟩ := List.pairwise_cons.1 ranked
    unfold insertRanked
    split
    · rename_i before
      have ahead := ranksUpTo_of_ranksBefore before
      refine List.pairwise_cons.2 ⟨fun r mem => ?_, ranked⟩
      rcases List.mem_cons.1 mem with rfl | mem
      · exact ahead
      · exact ahead.trans (first r mem)
    · rename_i behind
      refine List.pairwise_cons.2 ⟨fun r mem => ?_, ih rest⟩
      rcases List.mem_cons.1 ((insertRanked_perm p qs).mem_iff.1 mem) with rfl | mem
      · exact ranksUpTo_of_not_ranksBefore behind
      · exact first r mem

theorem rankPairs_perm (pairs : List (Nat × Nat)) : (rankPairs pairs).Perm pairs := by
  induction pairs with
  | nil => exact .refl _
  | cons p ps ih => exact (insertRanked_perm p (rankPairs ps)).trans (ih.cons p)

theorem rankPairs_ranked (pairs : List (Nat × Nat)) : (rankPairs pairs).Pairwise RanksUpTo := by
  induction pairs with
  | nil => exact .nil
  | cons p ps ih => exact insertRanked_ranked ih

/-! ### The two reads of a candidate (R112) -/

/-- The delay that a close reads for a lane, in the row of the maximum's peak voxel. -/
def plannedDelay (m : Maximum) (s : State) (lane : Nat) : DelayEntry := readDelay (s.banks.get m.bank) m.peakVoxel lane

/-- The cell that a close reads for a lane at delay `d`. -/
def plannedCell (m : Maximum) (s : State) (lane d : Nat) : CellAnswer := (trackOf s lane).readCell (m.origin + d)

theorem planRead_of_badDelay {m : Maximum} {s : State} {lane : Nat} (bad : (plannedDelay m s lane).parityOk = false) :
    planRead m lane s = (none, takeFault .planning (.table m.bank m.peakVoxel (.delay lane)) s) :=
  if_pos (by simpa [plannedDelay] using bad)

theorem planRead_of_noDelay {m : Maximum} {s : State} {lane : Nat} (good : (plannedDelay m s lane).parityOk = true)
    (delay : (plannedDelay m s lane).delay = none) : planRead m lane s = (none, s) := by
  unfold plannedDelay at good delay
  simp [planRead, good, delay]

theorem planRead_of_delay {m : Maximum} {s : State} {lane d : Nat} (good : (plannedDelay m s lane).parityOk = true)
    (delay : (plannedDelay m s lane).delay = some d) : planRead m lane s = match plannedCell m s lane d with
      | .value _ => (some d, s)
      | .absent => (none, s)
      | .parityFailure => (none, takeFault .planning (.track lane (m.origin + d)) s) := by
  unfold plannedDelay at good delay
  simp only [planRead, good, delay]
  rfl

/-! ### One candidate of the walk -/

/-- The walk goes on in `t` after a candidate that a fault has passed over, unless that fault froze the engine (R112, R114). -/
def walkOn (m : Maximum) (cap : CaptureParams) (ps : List (Nat × Nat)) (n : Nat) (t : State) : List PlanEntry × State :=
  if t.notice.frozen then ([], t) else walkPlan m cap ps n t

theorem walkOn_of_running {m : Maximum} {cap : CaptureParams} {t : State} (ps : List (Nat × Nat)) (n : Nat)
    (running : t.notice.frozen = false) : walkOn m cap ps n t = walkPlan m cap ps n t := if_neg (by simp [running])

theorem walkPlan_zero (m : Maximum) (cap : CaptureParams) (ps : List (Nat × Nat)) (s : State) :
    walkPlan m cap ps 0 s = ([], s) := by
  cases ps <;> rfl

theorem walkPlan_passedOver {m : Maximum} {cap : CaptureParams} {p : Nat × Nat} {n : Nat} {s t : State}
    (ps : List (Nat × Nat)) (more : 1 ≤ n) (read : planRead m p.1 s = (none, t)) :
    walkPlan m cap (p :: ps) n s = walkOn m cap ps n t := by
  rw [walkPlan, if_neg (by omega), read]
  rfl

theorem walkPlan_passes {m : Maximum} {cap : CaptureParams} {p : Nat × Nat} {n d : Nat} {s : State}
    (ps : List (Nat × Nat)) (more : 1 ≤ n) (read : planRead m p.1 s = (some d, s)) :
    walkPlan m cap (p :: ps) n s = (planEntry m cap s.params.lane.tickLen p.1 p.2 d :: (walkPlan m cap ps (n - 1) s).1,
      (walkPlan m cap ps (n - 1) s).2) := by
  rw [walkPlan, if_neg (by omega), read]

/-! ### A walk in which no read fails -/

/-- Neither read of the lane's candidate fails its parity check. -/
def ReadsWell (m : Maximum) (s : State) (lane : Nat) : Prop :=
  (plannedDelay m s lane).parityOk = true ∧ (plannedDelay m s lane).delay.map (plannedCell m s lane) ≠ some .parityFailure

/-- The plan entry of a candidate, where it passes (R112, R113). -/
def passingEntry (m : Maximum) (cap : CaptureParams) (s : State) (p : Nat × Nat) : Option PlanEntry :=
  match (plannedDelay m s p.1).delay, (plannedDelay m s p.1).delay.map (plannedCell m s p.1) with
  | some d, some (.value _) => some (planEntry m cap s.params.lane.tickLen p.1 p.2 d)
  | _, _ => none

/-- A candidate whose reads succeed passes or is passed over, and no state changes. -/
theorem walkPlan_cons_of_readsWell {m : Maximum} {cap : CaptureParams} {p : Nat × Nat} {n : Nat} {s : State}
    (ps : List (Nat × Nat)) (running : s.notice.frozen = false) (more : 1 ≤ n) (well : ReadsWell m s p.1) :
    walkPlan m cap (p :: ps) n s = match passingEntry m cap s p with
      | some e => (e :: (walkPlan m cap ps (n - 1) s).1, (walkPlan m cap ps (n - 1) s).2)
      | none => walkPlan m cap ps n s := by
  obtain ⟨good, noFailure⟩ := well
  unfold passingEntry
  cases delay : (plannedDelay m s p.1).delay with
  | none =>
    rw [walkPlan_passedOver ps more (planRead_of_noDelay good delay), walkOn_of_running ps n running]
  | some d =>
    have read := planRead_of_delay good delay
    cases cell : plannedCell m s p.1 d with
    | value x =>
      rw [cell] at read
      simp only [Option.map_some, cell]
      exact walkPlan_passes ps more read
    | absent =>
      rw [cell] at read
      simp only [Option.map_some, cell]
      exact (walkPlan_passedOver ps more read).trans (walkOn_of_running ps n running)
    | parityFailure => exact absurd (by rw [delay, Option.map_some, cell]) noFailure

theorem walkPlan_of_readsWell {m : Maximum} {cap : CaptureParams} {s : State} (ps : List (Nat × Nat)) (n : Nat)
    (running : s.notice.frozen = false) (well : ∀ p ∈ ps, ReadsWell m s p.1) :
    walkPlan m cap ps n s = ((ps.filterMap (passingEntry m cap s)).take n, s) := by
  induction ps generalizing n with
  | nil => simp [walkPlan]
  | cons p ps ih =>
    have ih := fun n => ih n fun q mem => well q (List.mem_cons_of_mem p mem)
    cases n with
    | zero => exact walkPlan_zero ..
    | succ n =>
      rw [walkPlan_cons_of_readsWell ps running (by omega) (well p List.mem_cons_self)]
      cases passes : passingEntry m cap s p with
      | none => simp [ih, passes]
      | some e => simp [ih, passes]

/-! ### The plan of a close -/

theorem makePlan_of_nothing {c : Closing} {s : State} (m : Maximum) (h : c.capture.enable = false ∨ s.notice.frozen = true) :
    makePlan c m s = ([], s) := if_pos (by rcases h with h | h <;> simp [h])

theorem makePlan_of_walk {c : Closing} {s : State} (m : Maximum) (enabled : c.capture.enable = true)
    (running : s.notice.frozen = false) : makePlan c m s = walkPlan m c.capture (rankPairs m.pairs) c.capture.snipLanes s :=
  if_neg (by simp [enabled, running])

/-- Settles O48: the ranking is an insertion sort, and the walk takes one candidate at a time by its two reads. -/
theorem plansMade : Obligations.PlansMade := by
  refine ⟨fun c m s => ⟨makePlan_of_nothing m, rankPairs_perm _, rankPairs_ranked _, makePlan_of_walk m,
    fun enabled running well => ?_⟩, fun m cap n s running => ⟨rfl, fun p ps => ⟨rfl, fun more => ⟨fun bad => ?_,
    fun good none => ?_, fun d good delay => ⟨fun absent => ?_, fun fails => ?_, fun x value => ?_⟩⟩⟩⟩⟩
  · have reads : ∀ p ∈ rankPairs m.pairs, ReadsWell m s p.1 := fun p mem => well p ((rankPairs_perm _).mem_iff.1 mem)
    rw [makePlan_of_walk m enabled running, walkPlan_of_readsWell _ _ running reads]
    rfl
  · exact walkPlan_passedOver ps more (planRead_of_badDelay bad)
  · exact (walkPlan_passedOver ps more (planRead_of_noDelay good none)).trans (walkOn_of_running ps n running)
  · have read := planRead_of_delay (s := s) good delay
    rw [plannedCell, absent] at read
    exact (walkPlan_passedOver ps more read).trans (walkOn_of_running ps n running)
  · have read := planRead_of_delay (s := s) good delay
    rw [plannedCell, fails] at read
    exact walkPlan_passedOver ps more read
  · have read := planRead_of_delay (s := s) good delay
    rw [plannedCell, value] at read
    exact walkPlan_passes ps more read

end Sys2Proof.Machine

namespace Sys2Proof.Machine

/-! ## CLOSE_COMPLETION (R108 to R111, R114, R115, R120, R121) -/

/-! ### The faults that a plan takes -/

/-- A fault is not taken, is recorded, or is recorded and freezes the engine (R173). -/
theorem takeFault_forms (a : Activity) (p : FaultPlace) (s : State) : takeFault a p s = s
    ∨ ∃ n, takeFault a p s = s.setNotice n ∨ takeFault a p s = enterFrozen a (s.setNotice n) := by
  unfold takeFault
  dsimp only
  split
  · exact .inl rfl
  · split
    · exact .inr ⟨_, .inr rfl⟩
    · split
      · exact .inr ⟨_, .inl rfl⟩
      · exact .inr ⟨_, .inr rfl⟩

theorem freezeCommand_of_clearScan {s : State} (waits : s.cmd.executing = some .clearScan)
    (closing : s.det.closing.isSome = true) : freezeCommand s = s := by
  unfold freezeCommand
  rw [waits]
  exact if_pos closing

/-- A CLEAR SCAN that waits for its close waits on as the close's own planning freezes the engine (R71). -/
theorem enterFrozen_planning_sameLine {s : State} (waits : s.cmd.executing = some .clearScan)
    (closing : s.det.closing.isSome = true) : SameLine s (enterFrozen .planning s) := by
  unfold enterFrozen
  rw [freezeClose_planning, freezeCommand_of_clearScan (by simpa using waits) (by simpa using closing)]
  exact ⟨by simp, by simp⟩

theorem answer_clearScan (k : ReplyCode) (x : Bytes) (s : State)
    (h : (answer k x s).cmd.executing = some .clearScan) : s.cmd.executing = some .clearScan := by
  unfold answer at h
  split at h
  · exact h
  · split at h <;> cases h

theorem freezeCommand_clearScan (s : State) (h : (freezeCommand s).cmd.executing = some .clearScan) :
    s.cmd.executing = some .clearScan := by
  unfold freezeCommand at h
  split at h
  · exact answer_clearScan _ _ _ h
  · assumption
  · exact answer_clearScan _ _ _ h
  all_goals exact h

theorem enterFrozen_clearScan (a : Activity) (s : State) (h : (enterFrozen a s).cmd.executing = some .clearScan) :
    s.cmd.executing = some .clearScan := by
  simpa using freezeCommand_clearScan _ h

/-- What a plan's faults leave to the close they are met in: the Detector, a CLEAR SCAN that waits for the close, and, in an engine
that they have not frozen, everything but the notices. -/
structure PlanFaults (s t : State) : Prop where
  running : t.notice.frozen = false → s.notice.frozen = false ∧ t = s.setNotice t.notice
  det : t.det = s.det
  clears : s.cmd.executing = some .clearScan → s.det.closing.isSome = true → SameLine s t
  others : t.cmd.executing = some .clearScan → s.cmd.executing = some .clearScan

theorem PlanFaults.refl (s : State) : PlanFaults s s :=
  ⟨fun running => ⟨running, rfl⟩, rfl, fun _ _ => ⟨rfl, rfl⟩, id⟩

theorem PlanFaults.trans {s t u : State} (h : PlanFaults s t) (k : PlanFaults t u) : PlanFaults s u := by
  refine ⟨fun running => ?_, k.det.trans h.det, fun waits closing => ?_, h.others ∘ k.others⟩
  · obtain ⟨before, last⟩ := k.running running
    obtain ⟨first, earlier⟩ := h.running before
    rw [earlier] at last
    exact ⟨first, last⟩
  · have first := h.clears waits closing
    have second := k.clears (first.cmd ▸ waits) (h.det ▸ closing)
    exact ⟨second.line.trans first.line, second.cmd.trans first.cmd⟩

theorem planFaults_takeFault (p : FaultPlace) (s : State) : PlanFaults s (takeFault .planning p s) := by
  refine ⟨fun running => ?_, by simp, fun waits closing => ?_, fun after => ?_⟩
  · obtain ⟨before, _, _, recorded⟩ := takeFault_running running
    exact ⟨before, by rw [recorded]; rfl⟩
  · obtain same | ⟨n, noted | frozen⟩ := takeFault_forms .planning p s
    · rw [same]
      exact ⟨rfl, rfl⟩
    · rw [noted]
      exact ⟨rfl, rfl⟩
    · rw [frozen]
      have stays := enterFrozen_planning_sameLine (s := s.setNotice n) waits closing
      exact ⟨stays.line, stays.cmd⟩
  · obtain same | ⟨n, noted | frozen⟩ := takeFault_forms .planning p s
    · rwa [same] at after
    · rwa [noted] at after
    · rw [frozen] at after
      exact enterFrozen_clearScan .planning (s.setNotice n) after

theorem planFaults_planRead (m : Maximum) (lane : Nat) (s : State) : PlanFaults s (planRead m lane s).2 := by
  unfold planRead
  dsimp only
  split
  · exact planFaults_takeFault _ s
  · split
    · exact .refl s
    · split
      · exact .refl s
      · exact .refl s
      · exact planFaults_takeFault _ s

theorem planFaults_walkPlan (m : Maximum) (cap : CaptureParams) (ps : List (Nat × Nat)) (n : Nat) (s : State) :
    PlanFaults s (walkPlan m cap ps n s).2 := by
  induction ps generalizing n s with
  | nil => exact .refl s
  | cons p ps ih =>
    have read := planFaults_planRead m p.1 s
    unfold walkPlan
    split
    · exact .refl s
    · split
      · rename_i d t heq
        rw [heq] at read
        exact read.trans (ih _ _)
      · rename_i t heq
        rw [heq] at read
        split
        · exact read
        · exact read.trans (ih _ _)

theorem planFaults_makePlan (c : Closing) (m : Maximum) (s : State) : PlanFaults s (makePlan c m s).2 := by
  unfold makePlan
  split
  · exact .refl s
  · exact planFaults_walkPlan _ _ _ _ s

/-- No entry of a plan has a place in the Snippet Store before its capture begins (R113). -/
theorem walkPlan_unplaced (m : Maximum) (cap : CaptureParams) (ps : List (Nat × Nat)) (n : Nat) (s : State) :
    ∀ e ∈ (walkPlan m cap ps n s).1, e.extentOffset = none := by
  induction ps generalizing n s with
  | nil => simp [walkPlan]
  | cons p ps ih =>
    unfold walkPlan
    split
    · simp
    · split
      · rename_i d t _
        intro e mem
        rcases List.mem_cons.1 mem with rfl | mem
        · rfl
        · exact ih _ t e mem
      · split
        · simp
        · exact ih _ _

theorem makePlan_unplaced (c : Closing) (m : Maximum) (s : State) : ∀ e ∈ (makePlan c m s).1, e.extentOffset = none := by
  unfold makePlan
  split
  · simp
  · exact walkPlan_unplaced _ _ _ _ s

/-! ### What the wait test makes of a record of the queue -/

/-- A plan entry without its place in the Snippet Store. -/
def PlanEntry.unplaced (e : PlanEntry) : PlanEntry := { e with extentOffset := none }

/-- What the wait test may make of the record `r`: a WAITING one stays, begins its capture or becomes NO_SPACE, its plan the same
but for the places of its entries; another stays as it is (R127). -/
structure Served (r r' : EventRecord) : Prop where
  fields : { r' with status := r.status, plan := r.plan } = r
  kept : r.status ≠ .waiting → r' = r
  status : r.status = .waiting → r'.status = .waiting ∨ r'.status = .capturing ∨ r'.status = .noSpace
  plan : r'.plan.map PlanEntry.unplaced = r.plan.map PlanEntry.unplaced

theorem Served.refl (r : EventRecord) : Served r r := ⟨rfl, fun _ => rfl, .inl, rfl⟩

theorem Served.trans {r r' r'' : EventRecord} (h : Served r r') (k : Served r' r'') : Served r r'' := by
  refine ⟨?_, fun other => ?_, fun waits => ?_, k.plan.trans h.plan⟩
  · have outer := congrArg (fun x : EventRecord => { x with status := r.status, plan := r.plan }) k.fields
    exact outer.trans h.fields
  · have first := h.kept other
    exact (k.kept (first ▸ other)).trans first
  · by_cases still : r'.status = .waiting
    · exact k.status still
    · rw [k.kept still]
      exact h.status waits

theorem served_self (q : List EventRecord) : q.Forall₂ Served q := List.forall₂_same.2 fun r _ => .refl r

theorem served_trans {q q' q'' : List EventRecord} (h : q.Forall₂ Served q') (k : q'.Forall₂ Served q'') :
    q.Forall₂ Served q'' := by
  induction h generalizing q'' with
  | nil => exact k
  | cons first _ ih =>
    cases k with
    | cons second rest => exact .cons (first.trans second) (ih rest)

theorem served_replace {r r' : EventRecord} (before after : List EventRecord) (h : Served r r') :
    (before ++ r :: after).Forall₂ Served (before ++ r' :: after) :=
  List.rel_append (served_self before) (.cons h (served_self after))

/-- The last record of a queue, after the wait test. -/
theorem served_last {q q' : List EventRecord} {r : EventRecord} (h : (q ++ [r]).Forall₂ Served q') :
    q'.length = q.length + 1 ∧ ∃ r', q'[q.length]? = some r' ∧ Served r r' := by
  obtain ⟨length, each⟩ := List.forall₂_iff_get.1 h
  have total : q'.length = q.length + 1 := by simpa using length.symm
  have below : q.length < q'.length := by omega
  refine ⟨total, q'[q.length], List.getElem?_eq_getElem below, ?_⟩
  simpa using each q.length (by simp) below

theorem PlacedFrom.unplaced {first : Nat} {plan placed : List PlanEntry} (h : PlacedFrom first plan placed) :
    placed.map PlanEntry.unplaced = plan.map PlanEntry.unplaced := by
  refine List.ext_getElem? fun i => ?_
  rw [List.getElem?_map, List.getElem?_map]
  cases entry : plan[i]? with
  | none =>
    have past : placed[i]? = none := List.getElem?_eq_none (h.1 ▸ List.getElem?_eq_none_iff.1 entry)
    rw [past]
  | some x =>
    rw [h.2 i x entry]
    rfl

theorem WaitTested.served {t : State} {c d : Captures} (h : WaitTested t c d) : c.queue.Forall₂ Served d.queue := by
  induction h with
  | noCandidate _ => exact served_self _
  | waits _ _ => exact served_self _
  | begins candidate _ _ placed =>
    rw [candidate.queue]
    exact served_replace _ _ ⟨rfl, fun other => absurd candidate.waits other, fun _ => .inr (.inl rfl), placed.unplaced⟩
  | refused candidate _ _ _ _ ih =>
    rw [candidate.queue]
    refine served_trans (served_replace _ _ ?_) ih
    exact ⟨rfl, fun other => absurd candidate.waits other, fun _ => .inr (.inr rfl), rfl⟩

theorem LaneTested.served {t : State} {lane : Nat} {c d : Captures} (h : LaneTested t lane c d) :
    c.queue.Forall₂ Served d.queue := by
  by_cases planned : ∃ before r after, Candidate t c before r after ∧ ∃ e ∈ r.plan, e.lane = lane
  · obtain ⟨before, r, after, candidate, named⟩ := planned
    exact (h.named before r after candidate named).served
  · have same : d = c := h.other fun before r after candidate e mem is =>
      planned ⟨before, r, after, candidate, e, mem, is⟩
    rw [same]
    exact served_self _

/-! ### A Detector at rest -/

/-- The Detector is in HOLDOFF or QUIET, as the end of a close leaves it (R115). -/
structure Detector.AtRest (d : Detector) : Prop where
  closed : d.closing = none
  ended : d.running = none
  state : d.state = .holdoff ∨ d.state = .quiet ∧ d.holdoff = 0

/-- The Detector with its HOLDOFF dropped. -/
def Detector.dropHoldoff (d : Detector) : Detector := { d with state := .quiet, holdoff := 0 }

theorem Detector.AtRest.dropHoldoff {d : Detector} (h : d.AtRest) : d.dropHoldoff.AtRest :=
  ⟨h.closed, h.ended, .inr ⟨rfl, rfl⟩⟩

theorem Detector.dropHoldoff_of_quiet {d : Detector} (state : d.state = .quiet) (spent : d.holdoff = 0) :
    d.dropHoldoff = d := by
  unfold Detector.dropHoldoff
  rw [← state, ← spent]

/-- OVERRUN does no more to a Detector at rest than STOP does (R101, R103). -/
theorem Detector.AtRest.takeOverrun {s : State} (h : s.det.AtRest) : takeOverrun s = s.setDet s.det.dropHoldoff := by
  rcases h.state with holdoff | ⟨quiet, spent⟩
  · exact takeOverrun_of_holdoff h.closed holdoff
  · rw [takeOverrun_of_quiet h.closed quiet, Detector.dropHoldoff_of_quiet quiet spent]
    rfl

theorem Detector.AtRest.stop {d : Detector} (h : d.AtRest) : d.stop = d.dropHoldoff := by
  unfold Detector.stop
  rcases h.state with holdoff | ⟨quiet, spent⟩
  · exact if_pos holdoff
  · rw [if_neg (by simp [quiet]), Detector.dropHoldoff_of_quiet quiet spent]

/-- CLEAR finds no event open (R104). -/
theorem Detector.AtRest.clear {d : Detector} (h : d.AtRest) : d.clear = d.dropHoldoff := by
  have noEvent : d.state ≠ .declared ∧ d.state ≠ .onset := by
    rcases h.state with holdoff | ⟨quiet, _⟩ <;> simp [*]
  rw [detClear_eq, if_neg noEvent.1, if_neg noEvent.2, ← h.ended]
  rfl

theorem Detector.AtRest.resting {s : State} (h : s.det.AtRest) : detResting s = true :=
  (detResting_iff s).2 (h.state.symm.imp_left And.left)

/-! ### The record appended, and the Detector after it -/

/-- The Detector as a close completes (R110, R115). -/
def closeDet (c : Closing) (s : State) : Detector :=
  { s.det.afterClose c.detect.holdoff with serial := (s.det.serial + 1) % 65536 }

/-- The engine is FROZEN as the walk of the plan ends. -/
def closeFrozen (c : Closing) (run : Running) (s : State) : Bool := (makePlan c run.maximum s).2.notice.frozen

/-- The record that the close appends (R108 to R111, R114). -/
def closeRecord (c : Closing) (run : Running) (s : State) : EventRecord :=
  closedRecord c run c.detect.vetoLimit s.det.serial s.now (makePlan c run.maximum s).1 (closeFrozen c run s)

/-- The record at the tail, before the tests that its append asks for (R118). -/
def closeAppended (c : Closing) (run : Running) (s : State) : State :=
  ((makePlan c run.maximum s).2.setDet (closeDet c s)).setQueue
    ((makePlan c run.maximum s).2.queue ++ [closeRecord c run s])

theorem completeClose_eq (c : Closing) (run : Running) (s : State) : completeClose c run s =
    appendRecord (closeRecord c run s) ((makePlan c run.maximum s).2.setDet (closeDet c s)) := by
  simp [completeClose, appendClosed, closeRecord, closeDet, closeFrozen]

theorem closeRecord_status (c : Closing) (run : Running) (s : State) : (closeRecord c run s).status =
    if closeFrozen c run s then .aborted else if (makePlan c run.maximum s).1 = [] then .none else .waiting := by
  simp [closeRecord, closedRecord, appendedStatus]

theorem closeRecord_settled_iff (c : Closing) (run : Running) (s : State) :
    (closeRecord c run s).status.settled = true ↔ (closeRecord c run s).status ≠ .waiting := by
  rw [closeRecord_status]
  split_ifs <;> simp [SnippetStatus.settled]

theorem running_of_waits {c : Closing} {run : Running} {s : State} (waits : (closeRecord c run s).status = .waiting) :
    closeFrozen c run s = false := by
  rw [closeRecord_status] at waits
  by_contra frozen
  rw [if_pos (by simpa using frozen)] at waits
  cases waits

/-- A record that is settled as it is appended (R120). -/
theorem completeClose_of_settled {c : Closing} {run : Running} {s : State}
    (settled : (closeRecord c run s).status ≠ .waiting) :
    completeClose c run s = setFlag .eventReady (closeAppended c run s) := by
  rw [completeClose_eq]
  exact if_pos ((closeRecord_settled_iff c run s).2 settled)

theorem completeClose_of_waiting {c : Closing} {run : Running} {s : State}
    (waits : (closeRecord c run s).status = .waiting) : completeClose c run s =
      if (candidate ((makePlan c run.maximum s).2.setDet (closeDet c s))).isNone then waitTest (closeAppended c run s)
      else closeAppended c run s := by
  rw [completeClose_eq]
  exact if_neg (mt (closeRecord_settled_iff c run s).1 (not_not.2 waits))

/-- A WAITING record that finds none waiting before it is tested; with a capture in progress that test changes nothing (R121). -/
theorem completeClose_of_first {c : Closing} {run : Running} {s : State}
    (waits : (closeRecord c run s).status = .waiting)
    (first : ∀ x ∈ (makePlan c run.maximum s).2.queue, x.status ≠ .waiting) :
    completeClose c run s = waitTest (closeAppended c run s) := by
  rw [completeClose_of_waiting waits, if_pos]
  rw [Option.isNone_iff_eq_none, candidate_none_iff]
  intro before r after k
  have queue : (makePlan c run.maximum s).2.queue = before ++ r :: after := k.queue
  exact first r (by simp [queue]) k.waits

/-- A WAITING record behind the candidate waits untested; behind a capture there is no candidate to test (R121). -/
theorem completeClose_of_later {c : Closing} {run : Running} {s : State}
    (waits : (closeRecord c run s).status = .waiting) (later : (makePlan c run.maximum s).2.capture.active.isSome = true
      ∨ ∃ x ∈ (makePlan c run.maximum s).2.queue, x.status = .waiting) :
    completeClose c run s = closeAppended c run s := by
  rw [completeClose_of_waiting waits]
  by_cases active : (makePlan c run.maximum s).2.capture.active.isSome = true
  · have none : candidate (closeAppended c run s) = none := if_pos (by simp [closeAppended, active])
    have untested : waitTest (closeAppended c run s) = closeAppended c run s := by simp [waitTest, serveCandidate, none]
    rw [untested, ite_self]
  · obtain ⟨x, mem, is⟩ := later.resolve_left active
    refine if_neg ?_
    have running := running_of_waits waits
    unfold closeFrozen at running
    have found : candidate ((makePlan c run.maximum s).2.setDet (closeDet c s)) =
        (makePlan c run.maximum s).2.queue.find? EventRecord.isWaiting := if_neg (by simp [active, running])
    rw [found, Option.isNone_iff_eq_none, List.find?_eq_none]
    exact fun no => no x mem ((isWaiting_iff x).2 is)

theorem completeClose_served (c : Closing) (run : Running) (s : State) :
    (closeAppended c run s).queue.Forall₂ Served (completeClose c run s).queue := by
  by_cases waits : (closeRecord c run s).status = .waiting
  · rw [completeClose_of_waiting waits]
    split
    · exact (waitTest_tested (closeAppended c run s)).served
    · exact served_self _
  · rw [completeClose_of_settled waits, setFlag_queue]
    exact served_self _

/-! ### The end of the close: a kept OVERRUN -/

theorem closeDet_atRest (c : Closing) (s : State) : (closeDet c s).AtRest := by
  refine ⟨rfl, rfl, ?_⟩
  simp only [closeDet, Detector.afterClose]
  split_ifs with positive
  · exact .inl rfl
  · exact .inr ⟨rfl, by omega⟩

/-- The Detector after the close, an OVERRUN kept meanwhile handled (R101; assumption 12). -/
def closeDoneDet (c : Closing) (run : Running) (s : State) : Detector :=
  if c.overrun && !closeFrozen c run s then (closeDet c s).dropHoldoff else closeDet c s

theorem closeDoneDet_atRest (c : Closing) (run : Running) (s : State) : (closeDoneDet c run s).AtRest := by
  unfold closeDoneDet
  split
  · exact (closeDet_atRest c s).dropHoldoff
  · exact closeDet_atRest c s

theorem closeDoneDet_dropHoldoff (c : Closing) (run : Running) (s : State) :
    (closeDoneDet c run s).dropHoldoff = (closeDet c s).dropHoldoff := by
  unfold closeDoneDet
  split <;> rfl

theorem completeClose_det (c : Closing) (run : Running) (s : State) : (completeClose c run s).det = closeDet c s := by
  rw [completeClose_eq, appendRecord_det]
  rfl

theorem completeClose_frozen (c : Closing) (run : Running) (s : State) :
    (completeClose c run s).notice.frozen = closeFrozen c run s := by
  simp [completeClose, closeFrozen]

theorem closeDone_eq (c : Closing) (run : Running) (s : State) :
    closeDone c run s = (completeClose c run s).setDet (closeDoneDet c run s) := by
  have det := completeClose_det c run s
  unfold closeDone keptOverrun closeDoneDet
  rw [completeClose_frozen]
  split
  · rw [Detector.AtRest.takeOverrun (det ▸ closeDet_atRest c s), det]
  · rw [← det]
    rfl

theorem closeDone_det (c : Closing) (run : Running) (s : State) : (closeDone c run s).det = closeDoneDet c run s := by
  rw [closeDone_eq]
  rfl

theorem closeDone_atRest (c : Closing) (run : Running) (s : State) : (closeDone c run s).det.AtRest := by
  rw [closeDone_det]
  exact closeDoneDet_atRest c run s

theorem closeDone_frozen (c : Closing) (run : Running) (s : State) :
    (closeDone c run s).notice.frozen = closeFrozen c run s := by
  rw [closeDone_eq]
  exact completeClose_frozen c run s

theorem closeDone_captures (c : Closing) (run : Running) (s : State) :
    (closeDone c run s).captures = (completeClose c run s).captures := by
  rw [closeDone_eq]
  rfl

theorem sameLine_closeDone (c : Closing) (run : Running) (s : State) :
    SameLine (makePlan c run.maximum s).2 (closeDone c run s) :=
  ⟨by simp [closeDone, completeClose], by simp [closeDone, completeClose]⟩

theorem closeDone_scan (c : Closing) (run : Running) (s : State) :
    (closeDone c run s).scan = (makePlan c run.maximum s).2.scan := by simp [closeDone, completeClose]

theorem closeDone_banks (c : Closing) (run : Running) (s : State) : (closeDone c run s).banks = s.banks := by
  simp [closeDone]

/-- What a close that the engine's freeze does not meet leaves of the line, the Command Unit, the scan and the lanes. -/
structure SameWork (s t : State) : Prop extends SameLine s t where
  scan : t.scan = s.scan
  tracker : t.tracker = s.tracker

theorem sameWork_closeDone {c : Closing} {run : Running} {s : State} (awake : closeFrozen c run s = false) :
    SameWork s (closeDone c run s) := by
  have plan := ((planFaults_makePlan c run.maximum s).running awake).2
  have line := sameLine_closeDone c run s
  refine ⟨⟨line.line.trans ?_, line.cmd.trans ?_⟩, (closeDone_scan c run s).trans ?_, ?_⟩
  · rw [plan]; rfl
  · rw [plan]; rfl
  · rw [plan]; rfl
  · have tracker : (closeDone c run s).tracker = (makePlan c run.maximum s).2.tracker := by simp [closeDone, completeClose]
    rw [tracker, plan]
    rfl

theorem same_closeDone (c : Closing) (run : Running) (s : State) : SameMemories s (closeDone c run s) := by
  have det : SameMemories (completeClose c run s) (closeDone c run s) := by
    rw [closeDone_eq]
    constructor <;> simp
  exact (same_completeClose c run s).trans det

/-! ### A boundary at which the Detector rests -/

theorem isSet_takeSwitch {f : Flag} {s : State} (h : s.notice.isSet f = true) : (takeSwitch s).notice.isSet f = true := by
  unfold takeSwitch
  split
  · exact h
  · exact isSet_setFlag _ h

theorem isSet_boundaryBegun {f : Flag} {s : State} (h : s.notice.isSet f = true) :
    (boundaryBegun s).notice.isSet f = true := by
  unfold boundaryBegun
  split_ifs
  · exact isSet_setFlag _ (isSet_takeSwitch h)
  · exact isSet_takeSwitch h
  · exact h

theorem isSet_clearScanEffect {f : Flag} {s : State} (h : s.notice.isSet f = true) :
    (clearScanEffect s).notice.isSet f = true := by
  unfold clearScanEffect
  split
  · exact isSet_takeSwitch h
  · exact h

theorem haltEnds_of_atRest {s : State} (rests : s.det.AtRest) : haltEnds s = true ↔ s.scan.state = .halting := by
  simp [haltEnds, rests.resting]

theorem boundaryApplied_atRest {s : State} (rests : s.det.AtRest) : (boundaryApplied s).det.AtRest := by
  rw [boundaryApplied_det]
  split
  · rw [rests.stop]
    exact rests.dropHoldoff
  · exact rests

/-- The fall-behind test begins no close where the Detector rests (R101). -/
theorem tickBoundary_queue {s : State} (rests : s.det.AtRest) : (tickBoundary s).queue = (boundaryApplied s).queue := by
  have cut (x : Scan) : (takeOverrun ((boundaryApplied s).setScan x)).queue = (boundaryApplied s).queue := by
    rw [Detector.AtRest.takeOverrun (s := (boundaryApplied s).setScan x) (boundaryApplied_atRest rests)]
    rfl
  rw [tickBoundary_tests]
  obtain same | ⟨x, y, _, _, _, _, jump⟩ := retest_cases (boundaryApplied s)
  · rw [same]
  · rw [jump, jumpCursor, setFlag_queue]
    exact cut _

theorem settleLine_tickBoundary_captures {s : State} (rests : s.det.AtRest) :
    { (settleLine (tickBoundary s)).captures with queue := (boundaryApplied s).queue } =
      (settleLine (tickBoundary s)).captures := by
  rw [← tickBoundary_queue rests]
  simp [State.captures]

/-- A boundary that makes no jump (R74, R86). -/
theorem tickBoundary_stays {s : State} (goes : haltEnds s = false)
    (stays : ¬(s.scan.state = .running ∨ s.scan.state = .halting) ∨ s.scan.tick.isSome = true ∨ s.scan.cursor = none
      ∨ s.tracker.lineTime = none ∨ ∃ x l, s.scan.cursor = some x ∧ s.tracker.lineTime = some l
        ∧ l ≤ x + activeDmax (tickBoundary s) + (scanValues s).grace + (scanValues s).lagAllowance) :
    (tickBoundary s).det = s.det ∧ (tickBoundary s).scan = s.scan := by
  have scan : (boundaryApplied s).scan = s.scan := by simp [boundaryApplied_scan, goes]
  have det : (boundaryApplied s).det = s.det := by simp [boundaryApplied_det, goes]
  have dmax : activeDmax (tickBoundary s) = activeDmax (boundaryApplied s) := by
    simp [activeDmax, activeBank, tickBoundary_banks, boundaryApplied_banks]
  have values : scanValues (boundaryApplied s) = scanValues s := by simp [scanValues, scan, boundaryApplied_params]
  have same : tickBoundary s = boundaryApplied s := by
    rw [tickBoundary_tests]
    refine retest_stays ?_
    rw [scan, boundaryApplied_lineTime, values, ← dmax]
    obtain idle | flies | rest := stays
    · exact .inl fun tests => idle (scan ▸ tests.1)
    · refine .inl fun tests => ?_
      have none : s.scan.tick = none := scan ▸ tests.2.1
      simp [none] at flies
    · exact .inr rest
  exact ⟨same ▸ det, same ▸ scan⟩

/-! ### The row, by what it finds -/

/-- The close `c` of the running record `run` is in progress. -/
structure Closes (s : State) (c : Closing) (run : Running) : Prop where
  closing : s.det.closing = some c
  running : s.det.running = some run

theorem exec_closeCompletion {s : State} (free : s.resetHeld = false) :
    exec .closeCompletion s = .next (settleLine (closeCompletion s)) :=
  live_of_free (fun t => settleLine (closeCompletion t)) s free

theorem closeCompletion_of_closed {s : State} (closed : s.det.closing = none) : closeCompletion s = s := by
  simp [closeCompletion, closed]

section
variable {s : State} {c : Closing} {run : Running}

theorem closeCompletion_eq (h : Closes s c run) : closeCompletion s = afterCompletion c.boundary (closeDone c run s) := by
  unfold closeCompletion
  rw [h.closing, h.running]
  rfl

/-- A CLEAR SCAN that waits for the close waits as the close ends, and no other command comes to do so. -/
theorem closeDone_clears (h : Closes s c run) :
    (closeDone c run s).cmd.executing = some .clearScan ↔ s.cmd.executing = some .clearScan := by
  have plan := planFaults_makePlan c run.maximum s
  rw [(sameLine_closeDone c run s).cmd]
  refine ⟨plan.others, fun waits => ?_⟩
  rw [(plan.clears waits (by simp [h.closing])).cmd]
  exact waits

theorem closeCompletion_refuses (h : Closes s c run) (frozen : closeFrozen c run s = true)
    (clears : s.cmd.executing = some .clearScan) : closeCompletion s = answer .frozen [] (closeDone c run s) := by
  rw [closeCompletion_eq h, afterCompletion, if_pos ((closeDone_clears h).2 clears), closeDone_frozen, if_pos frozen]

theorem closeCompletion_clears (h : Closes s c run) (awake : closeFrozen c run s = false)
    (clears : s.cmd.executing = some .clearScan) :
    closeCompletion s = answer .ok [] (clearScanEffect (closeDone c run s)) := by
  rw [closeCompletion_eq h, afterCompletion, if_pos ((closeDone_clears h).2 clears), closeDone_frozen,
    if_neg (by simp [awake])]

theorem closeCompletion_ends (h : Closes s c run) (ends : closeFrozen c run s = true ∨ c.boundary = false)
    (other : s.cmd.executing ≠ some .clearScan) : closeCompletion s = closeDone c run s := by
  rw [closeCompletion_eq h, afterCompletion, if_neg (mt (closeDone_clears h).1 other), closeDone_frozen]
  exact if_neg (by rcases ends with ends | ends <;> simp [ends])

theorem closeCompletion_bounds (h : Closes s c run) (awake : closeFrozen c run s = false) (held : c.boundary = true)
    (other : s.cmd.executing ≠ some .clearScan) : closeCompletion s = tickBoundary (closeDone c run s) := by
  rw [closeCompletion_eq h, afterCompletion, if_neg (mt (closeDone_clears h).1 other), closeDone_frozen]
  exact if_pos (by simp [held, awake])

/-! ### The captures after the row -/

theorem captures_queue (u : State) : u.captures.queue = u.queue := rfl

/-- Without a SET LANE that the boundary applies, nothing but the append changes the captures (R126). -/
theorem closeCompletion_captures (h : Closes s c run) (noChange : closeFrozen c run s = true ∨ c.boundary = false
      ∨ ∀ x, s.cmd.executing ≠ some (.laneChange x)) :
    (settleLine (closeCompletion s)).captures = (completeClose c run s).captures := by
  rw [← closeDone_captures]
  by_cases clears : s.cmd.executing = some .clearScan
  · by_cases frozen : closeFrozen c run s = true
    · simp [State.captures, closeCompletion_refuses h frozen clears]
    · simp [State.captures, closeCompletion_clears h (by simpa using frozen) clears]
  · by_cases ends : closeFrozen c run s = true ∨ c.boundary = false
    · simp [State.captures, closeCompletion_ends h ends clears]
    · simp only [not_or, Bool.not_eq_true, Bool.not_eq_false] at ends
      obtain ⟨awake, held⟩ := ends
      have noChange := (noChange.resolve_left (by simp [awake])).resolve_left (by simp [held])
      rw [closeCompletion_bounds h awake held clears, ← settleLine_tickBoundary_captures (closeDone_atRest c run s)]
      exact tickBoundary_captures (by rw [(sameWork_closeDone awake).cmd]; exact noChange)

/-- The wait test of a SET LANE that the boundary applies (R126). -/
theorem closeCompletion_tested (h : Closes s c run) (awake : closeFrozen c run s = false) (held : c.boundary = true)
    {x : LaneChange} (waits : s.cmd.executing = some (.laneChange x)) :
    LaneTested (settleLine (closeCompletion s)) x.lane (completeClose c run s).captures
      (settleLine (closeCompletion s)).captures := by
  have tested := tickBoundary_tested (s := closeDone c run s) (x := x)
    (by rw [(sameWork_closeDone awake).cmd]; exact waits)
  rw [settleLine_tickBoundary_captures (closeDone_atRest c run s), closeDone_captures] at tested
  rw [closeCompletion_bounds h awake held (by simp [waits])]
  exact tested

theorem closeCompletion_served (h : Closes s c run) :
    (completeClose c run s).queue.Forall₂ Served (settleLine (closeCompletion s)).queue := by
  have unchanged (noChange : closeFrozen c run s = true ∨ c.boundary = false
      ∨ ∀ x, s.cmd.executing ≠ some (.laneChange x)) :
      (completeClose c run s).queue.Forall₂ Served (settleLine (closeCompletion s)).queue := by
    have queue := congrArg Captures.queue (closeCompletion_captures h noChange)
    rw [captures_queue, captures_queue] at queue
    rw [queue]
    exact served_self _
  by_cases frozen : closeFrozen c run s = true
  · exact unchanged (.inl frozen)
  by_cases held : c.boundary = true
  · by_cases changes : ∃ x, s.cmd.executing = some (.laneChange x)
    · obtain ⟨x, waits⟩ := changes
      have awake : closeFrozen c run s = false := by simpa using frozen
      have served := (closeCompletion_tested h awake held waits).served
      rwa [captures_queue, captures_queue] at served
    · exact unchanged (.inr (.inr fun x waits => changes ⟨x, waits⟩))
  · exact unchanged (.inr (.inl (by simpa using held)))

/-- EVENT_READY stands to the end of the row. -/
theorem isSet_closeCompletion {f : Flag} (h : Closes s c run) (set : (completeClose c run s).notice.isSet f = true) :
    (settleLine (closeCompletion s)).notice.isSet f = true := by
  have done : (closeDone c run s).notice.isSet f = true := by
    rw [closeDone_eq]
    exact set
  rw [settleLine_notice, closeCompletion_eq h]
  unfold afterCompletion
  split_ifs
  · simpa using done
  · simpa using isSet_clearScanEffect done
  · exact isSet_tickBoundary (isSet_boundaryBegun done)
  · exact done

/-- The record at the tail of the queue as the row leaves it (R108, R118, R121). -/
theorem closeCompletion_appends (h : Closes s c run) :
    (settleLine (closeCompletion s)).queue.length = s.queue.length + 1
    ∧ ∃ r, (settleLine (closeCompletion s)).queue[s.queue.length]? = some r ∧ Served (closeRecord c run s) r
      ∧ ((closeRecord c run s).status ≠ .waiting →
          (settleLine (closeCompletion s)).notice.isSet .eventReady = true) := by
  obtain ⟨length, r, last, served⟩ := served_last
    (served_trans (completeClose_served c run s) (closeCompletion_served h))
  rw [length_makePlan] at length last
  refine ⟨length, r, last, served, fun settled => isSet_closeCompletion h ?_⟩
  rw [completeClose_of_settled settled]
  exact isSet_setFlag_self _ _

/-! ### A FROZEN engine, and a CLEAR SCAN -/

theorem sameLine_closeDone_of_clears (h : Closes s c run) (clears : s.cmd.executing = some .clearScan) :
    SameLine s (closeDone c run s) := by
  have plan := (planFaults_makePlan c run.maximum s).clears clears (by simp [h.closing])
  have done := sameLine_closeDone c run s
  exact ⟨done.line.trans plan.line, done.cmd.trans plan.cmd⟩

theorem SameLine.refl (u : State) : SameLine u u := ⟨rfl, rfl⟩

/-- Where the engine is FROZEN as the walk ends, the record is appended and no boundary follows (R71, R114). -/
theorem closeCompletion_frozen (h : Closes s c run) (frozen : closeFrozen c run s = true) :
    (settleLine (closeCompletion s)).det = closeDet c s
    ∧ (settleLine (closeCompletion s)).scan = (makePlan c run.maximum s).2.scan
    ∧ (settleLine (closeCompletion s)).banks = s.banks := by
  have det : closeDoneDet c run s = closeDet c s := if_neg (by simp [frozen])
  rw [settleLine_det, settleLine_scan, settleLine_banks, ← det, ← closeDone_det, ← closeDone_scan, ← closeDone_banks c run s]
  by_cases clears : s.cmd.executing = some .clearScan
  · rw [closeCompletion_refuses h frozen clears]
    simp
  · rw [closeCompletion_ends h (.inl frozen) clears]
    exact ⟨rfl, rfl, rfl⟩

theorem closeCompletion_refused (h : Closes s c run) (frozen : closeFrozen c run s = true)
    (clears : s.cmd.executing = some .clearScan) {x : Held} {rest : List Held} (held : s.cmd.held = x :: rest) :
    Answered .frozen [] x rest s (settleLine (closeCompletion s)) := by
  rw [closeCompletion_refuses h frozen clears]
  exact answered_settleLine _ _ (sameLine_closeDone_of_clears h clears) (.refl _) held

theorem closeCompletion_ends_sameLine (h : Closes s c run) (ends : closeFrozen c run s = true ∨ c.boundary = false)
    (other : s.cmd.executing ≠ some .clearScan) :
    SameLine (settleLine (makePlan c run.maximum s).2) (settleLine (closeCompletion s)) := by
  rw [closeCompletion_ends h ends other]
  exact (sameLine_closeDone c run s).settleLine

theorem closeCompletion_cleared (h : Closes s c run) (awake : closeFrozen c run s = false)
    (clears : s.cmd.executing = some .clearScan) {x : Held} {rest : List Held} (held : s.cmd.held = x :: rest) :
    Answered .ok [] x rest s (settleLine (closeCompletion s)) := by
  have done := sameLine_closeDone_of_clears h clears
  have effect : SameLine s (clearScanEffect (closeDone c run s)) := ⟨by simp [done.line], by simp [done.cmd]⟩
  rw [closeCompletion_clears h awake clears]
  exact answered_settleLine _ _ effect (.refl _) held

theorem scanning_iff (u : State) : scanning u = true ↔ u.scan.state = .running ∨ u.scan.state = .halting := by
  simp [scanning]

/-- CLEAR SCAN finds the scan stopped (R71). -/
theorem closeCompletion_clears_stopped (h : Closes s c run) (awake : closeFrozen c run s = false)
    (clears : s.cmd.executing = some .clearScan) (stopped : ¬(s.scan.state = .running ∨ s.scan.state = .halting)) :
    (settleLine (closeCompletion s)).det = closeDoneDet c run s ∧ (settleLine (closeCompletion s)).scan = s.scan
    ∧ (settleLine (closeCompletion s)).banks = s.banks := by
  have same := (sameWork_closeDone awake).scan
  have effect : clearScanEffect (closeDone c run s) = closeDone c run s :=
    if_neg (by rw [scanning_iff, same]; exact stopped)
  rw [closeCompletion_clears h awake clears, effect]
  simp [closeDone_det, same, closeDone_banks]

/-- CLEAR SCAN stops a scan that runs, the Detector resting, and takes a pending switch (R64, R71, R104). -/
theorem closeCompletion_clears_scan (h : Closes s c run) (awake : closeFrozen c run s = false)
    (clears : s.cmd.executing = some .clearScan) (runs : s.scan.state = .running ∨ s.scan.state = .halting) :
    (settleLine (closeCompletion s)).det = (closeDet c s).dropHoldoff
    ∧ (settleLine (closeCompletion s)).scan = { s.scan with state := .idle, tick := none }
    ∧ (s.banks.pendingSwitch = none → (settleLine (closeCompletion s)).banks = s.banks)
    ∧ ∀ bank, s.banks.pendingSwitch = some bank → (settleLine (closeCompletion s)).banks = s.banks.activate bank
        ∧ (settleLine (closeCompletion s)).notice.isSet .bank = true := by
  have same := (sameWork_closeDone awake).scan
  have cleared : (closeDone c run s).det.clear = (closeDet c s).dropHoldoff := by
    rw [(closeDone_atRest c run s).clear, closeDone_det, closeDoneDet_dropHoldoff]
  generalize stops : (((closeDone c run s).setScan { (closeDone c run s).scan with state := .idle, tick := none }).setDet
    (closeDone c run s).det.clear) = u
  have effect : clearScanEffect (closeDone c run s) = takeSwitch u := by
    rw [← stops]
    exact if_pos (by rw [scanning_iff, same]; exact runs)
  have det : u.det = (closeDet c s).dropHoldoff := by rw [← stops, ← cleared]; rfl
  have scan : u.scan = { s.scan with state := .idle, tick := none } := by rw [← stops, ← same]; rfl
  have banks : u.banks = s.banks := by rw [← stops, ← closeDone_banks c run s]; rfl
  rw [closeCompletion_clears h awake clears, effect]
  refine ⟨by simp [det], by simp [scan], fun still => ?_, fun bank pending => ?_⟩
  · rw [takeSwitch_of_none (banks ▸ still)]
    simp [banks]
  · obtain ⟨taken, flag⟩ := takeSwitch_taken (s := u) (banks ▸ pending)
    exact ⟨by simp [taken, banks], by simpa using flag⟩

end

/-! ### The boundary that follows the close (R64, R70, R73, R86) -/

section
variable {s : State} {c : Closing} {run : Running}

theorem closeCompletion_switches (h : Closes s c run) (awake : closeFrozen c run s = false) (held : c.boundary = true)
    (other : s.cmd.executing ≠ some .clearScan) :
    (s.banks.pendingSwitch = none → (settleLine (closeCompletion s)).banks = s.banks)
    ∧ ∀ bank, s.banks.pendingSwitch = some bank → (settleLine (closeCompletion s)).banks = s.banks.activate bank
        ∧ (settleLine (closeCompletion s)).notice.isSet .bank = true := by
  have banks := closeDone_banks c run s
  rw [closeCompletion_bounds h awake held other, settleLine_banks, settleLine_notice, tickBoundary_banks, ← banks]
  refine ⟨fun still => boundaryBegun_banks (.inr still), fun bank pending => ?_⟩
  obtain ⟨taken, flag⟩ := boundaryBegun_switched (closeDone_atRest c run s).resting pending
  exact ⟨taken, isSet_tickBoundary flag⟩

/-- The boundary ends HALTING (R70, R103). -/
theorem closeCompletion_halts (h : Closes s c run) (awake : closeFrozen c run s = false) (held : c.boundary = true)
    (other : s.cmd.executing ≠ some .clearScan) (halting : s.scan.state = .halting) :
    (settleLine (closeCompletion s)).det = (closeDet c s).dropHoldoff
    ∧ (settleLine (closeCompletion s)).scan = { s.scan with state := .idle }
    ∧ (settleLine (closeCompletion s)).notice.isSet .scanState = true := by
  have rests := closeDone_atRest c run s
  have scan := (sameWork_closeDone awake).scan
  have ends := (haltEnds_of_atRest rests).2 (scan ▸ halting)
  obtain ⟨applied, flag⟩ := tickBoundary_of_end ends
  rw [closeCompletion_bounds h awake held other]
  refine ⟨?_, ?_, by simpa using flag⟩
  · rw [settleLine_det, applied, boundaryApplied_det, if_pos ends, rests.stop, closeDone_det, closeDoneDet_dropHoldoff]
  · rw [settleLine_scan, applied, boundaryApplied_scan, if_pos ends, scan]

theorem scanValues_closeDone (awake : closeFrozen c run s = false) : scanValues (closeDone c run s) = scanValues s := by
  have params : (closeDone c run s).params = s.params := by simp [closeDone]
  rw [scanValues, (sameWork_closeDone awake).scan, params, scanValues]

/-- A scan that has fallen behind meanwhile jumps at the boundary, and the OVERRUN drops HOLDOFF (R86, R101). -/
theorem closeCompletion_jumps (h : Closes s c run) (awake : closeFrozen c run s = false) (held : c.boundary = true)
    (other : s.cmd.executing ≠ some .clearScan) {x l : Nat} (runs : s.scan.state = .running) (tick : s.scan.tick = none)
    (cursor : s.scan.cursor = some x) (line : s.tracker.lineTime = some l)
    (passed : x + activeDmax (settleLine (closeCompletion s)) + (scanValues s).grace + (scanValues s).lagAllowance < l) :
    let t := settleLine (closeCompletion s)
    t.det = (closeDet c s).dropHoldoff ∧ t.notice.isSet .scanOverrun = true
    ∧ t.scan = { s.scan with
        cursor := some (l - activeDmax t - (scanValues s).grace)
        skippedTicks := satAdd s.scan.skippedTicks (l - activeDmax t - (scanValues s).grace - x) } := by
  intro t
  have rests := closeDone_atRest c run s
  have work := sameWork_closeDone awake
  have goes : haltEnds (closeDone c run s) = false := by
    simpa using mt (haltEnds_of_atRest rests).1 (by simp [work.scan, runs])
  have bounds := closeCompletion_bounds h awake held other
  have dmax : activeDmax t = activeDmax (tickBoundary (closeDone c run s)) := by
    rw [← bounds]
    exact activeDmax_settleLine _
  have behind : x + activeDmax t + (scanValues s).grace + (scanValues s).lagAllowance < l := passed
  rw [dmax, ← scanValues_closeDone awake] at behind
  obtain ⟨target, skipped, flag, det, _⟩ := tickBoundary_jumps goes (work.scan ▸ .inl runs) (work.scan ▸ tick) rests.closed
    (work.scan ▸ cursor) (work.tracker ▸ line) behind
  obtain ⟨y, n, scan⟩ := tickBoundary_scan (closeDone c run s)
  rw [scanValues_closeDone awake, ← dmax] at target skipped
  refine ⟨?_, ?_, ?_⟩
  · rw [settleLine_det, bounds, det, rests.takeOverrun]
    exact (congrArg _ (closeDone_det c run s)).trans (closeDoneDet_dropHoldoff c run s)
  · rw [settleLine_notice, bounds]
    exact flag
  · rw [scan] at target skipped
    rw [settleLine_scan, bounds, scan, ← target, ← work.scan, ← skipped, goes]
    rfl

/-- A boundary without a jump leaves the scan and the Detector to the close (R74). -/
theorem closeCompletion_stays (h : Closes s c run) (awake : closeFrozen c run s = false) (held : c.boundary = true)
    (other : s.cmd.executing ≠ some .clearScan)
    (stays : ¬(s.scan.state = .running ∨ s.scan.state = .halting) ∨ s.scan.state = .running ∧ (s.scan.tick.isSome = true
      ∨ s.scan.cursor = none ∨ s.tracker.lineTime = none
      ∨ ∃ x l, s.scan.cursor = some x ∧ s.tracker.lineTime = some l
        ∧ l ≤ x + activeDmax (settleLine (closeCompletion s)) + (scanValues s).grace + (scanValues s).lagAllowance)) :
    (settleLine (closeCompletion s)).det = closeDoneDet c run s ∧ (settleLine (closeCompletion s)).scan = s.scan := by
  have work := sameWork_closeDone awake
  have going : s.scan.state ≠ .halting := by
    rcases stays with stopped | ⟨runs, _⟩
    · exact fun halting => stopped (.inr halting)
    · simp [runs]
  have goes : haltEnds (closeDone c run s) = false := by
    simpa using mt (haltEnds_of_atRest (closeDone_atRest c run s)).1 (work.scan ▸ going)
  have bounds := closeCompletion_bounds h awake held other
  rw [activeDmax_settleLine, bounds, ← scanValues_closeDone awake, ← work.scan, ← work.tracker] at stays
  obtain ⟨det, scan⟩ := tickBoundary_stays goes (stays.imp_right And.right)
  rw [bounds, settleLine_det, settleLine_scan, det, scan]
  exact ⟨closeDone_det c run s, work.scan⟩

theorem closeCompletion_changes (h : Closes s c run) (awake : closeFrozen c run s = false) (held : c.boundary = true)
    {x : LaneChange} {l : Lane} (waits : s.cmd.executing = some (.laneChange x)) (mapped : laneOf s x.lane = some l) :
    LaneChangeApplied x l s (settleLine (closeCompletion s)) := by
  have done := same_closeDone c run s
  rw [closeCompletion_bounds h awake held (by simp [waits])]
  exact done.laneChangeApplied (tickBoundary_changes (by rw [(sameWork_closeDone awake).cmd]; exact waits)
    ((done.laneOf x.lane).trans mapped))

theorem closeCompletion_answers (h : Closes s c run) (awake : closeFrozen c run s = false) (held : c.boundary = true)
    {x : LaneChange} (waits : s.cmd.executing = some (.laneChange x)) {k : Held} {rest : List Held}
    (oldest : s.cmd.held = k :: rest) : Answered (okOr x.clamped) [] k rest s (settleLine (closeCompletion s)) := by
  rw [closeCompletion_bounds h awake held (by simp [waits])]
  exact tickBoundary_answers (sameWork_closeDone awake).toSameLine waits oldest

/-- With no command that waits for the close or its boundary, the line only settles. -/
theorem closeCompletion_sameLine (h : Closes s c run) (awake : closeFrozen c run s = false)
    (other : s.cmd.executing ≠ some .clearScan)
    (noChange : c.boundary = false ∨ ∀ x, s.cmd.executing ≠ some (.laneChange x)) :
    SameLine (settleLine s) (settleLine (closeCompletion s)) := by
  have done := (sameWork_closeDone awake).toSameLine
  by_cases held : c.boundary = true
  · have bounded := tickBoundary_sameLine (s := closeDone c run s)
      (by rw [done.cmd]; exact noChange.resolve_left (by simp [held]))
    rw [closeCompletion_bounds h awake held other]
    exact SameLine.settleLine ⟨bounded.line.trans done.line, bounded.cmd.trans done.cmd⟩
  · rw [closeCompletion_ends h (.inr (by simpa using held)) other]
    exact done.settleLine

/-- A close that held no boundary back leaves the scan and the banks alone (assumption 12). -/
theorem closeCompletion_unbounded (h : Closes s c run) (awake : closeFrozen c run s = false) (free : c.boundary = false)
    (other : s.cmd.executing ≠ some .clearScan) :
    (settleLine (closeCompletion s)).det = closeDoneDet c run s ∧ (settleLine (closeCompletion s)).scan = s.scan
    ∧ (settleLine (closeCompletion s)).banks = s.banks := by
  rw [closeCompletion_ends h (.inr free) other, settleLine_det, settleLine_scan, settleLine_banks]
  exact ⟨closeDone_det c run s, (sameWork_closeDone awake).scan, closeDone_banks c run s⟩

theorem closeDoneDet_of_awake (awake : closeFrozen c run s = false) :
    closeDoneDet c run s = if c.overrun then (closeDet c s).dropHoldoff else closeDet c s := by
  simp [closeDoneDet, awake]

end

/-- The plan of the record appended, before and after the tests. -/
theorem closeRecord_plan (c : Closing) (run : Running) (s : State) :
    (closeRecord c run s).plan.map PlanEntry.unplaced = (makePlan c run.maximum s).1 := by
  have same : ∀ e ∈ (makePlan c run.maximum s).1, e.unplaced = e := fun e mem => by
    rw [PlanEntry.unplaced, ← makePlan_unplaced c run.maximum s e mem]
  exact (List.map_congr_left same).trans (List.map_id' _)

/-- Settles O47: `closeCompletion` by what it finds, a CLEAR SCAN, a freeze, a boundary that waits or none of these. -/
theorem closesComplete : Obligations.ClosesComplete := by
  intro s free
  refine ⟨fun closed => ?_, fun c run closing running => ?_⟩
  · rw [exec_closeCompletion free, closeCompletion_of_closed closed]
  intro w d resting r0 u clears scans v
  have h : Closes s c run := ⟨closing, running⟩
  have record : closeRecord c run s = r0 :=
    congrArg (fun x => { closeRecord c run s with status := x }) (closeRecord_status c run s)
  have appended : closeAppended c run s = u :=
    congrArg (fun r => (w.2.setDet d).setQueue (w.2.queue ++ [r])) record
  have done (awake : closeFrozen c run s = false) : closeDoneDet c run s = if c.overrun then resting else d :=
    closeDoneDet_of_awake awake
  rw [exec_closeCompletion free, ← record, ← appended]
  obtain ⟨length, r, last, served, flag⟩ := closeCompletion_appends h
  refine ⟨completeClose_of_settled, fun waits _ first => completeClose_of_first waits first,
    fun waits later => completeClose_of_later waits later,
    settleLine (closeCompletion s), r, rfl, ⟨length, last, ?_, fun settled => ⟨served.kept settled, flag settled⟩,
      fun waits => ⟨served.status waits, served.plan.trans (closeRecord_plan c run s)⟩⟩,
    closeCompletion_captures h, fun frozen => ?_, fun awake clears => ?_, fun awake other unbounded => ?_,
    fun awake other held => ?_⟩
  · exact congrArg (fun x : EventRecord => { x with status := r.status, plan := r.plan }) served.fields
  · obtain ⟨det, scan, banks⟩ := closeCompletion_frozen h frozen
    refine ⟨det, scan, banks, fun clears x rest oldest => closeCompletion_refused h frozen clears oldest, fun other => ?_⟩
    have line := closeCompletion_ends_sameLine h (.inl frozen) other
    exact ⟨line.cmd, line.line⟩
  · refine ⟨fun x rest oldest => closeCompletion_cleared h awake clears oldest, fun stopped => ?_,
      closeCompletion_clears_scan h awake clears⟩
    rw [← done awake]
    exact closeCompletion_clears_stopped h awake clears stopped
  · obtain ⟨det, scan, banks⟩ := closeCompletion_unbounded h awake unbounded other
    have line := closeCompletion_sameLine h awake other (.inl unbounded)
    exact ⟨det.trans (done awake), scan, banks, line.cmd, line.line⟩
  · obtain ⟨still, switched⟩ := closeCompletion_switches h awake held other
    refine ⟨still, switched, closeCompletion_halts h awake held other, fun x l runs tick cursor line passed =>
      closeCompletion_jumps h awake held other runs tick cursor line passed, fun stays => ?_, fun x waits =>
      ⟨fun l mapped => closeCompletion_changes h awake held waits mapped, closeCompletion_tested h awake held waits,
        fun k rest oldest => closeCompletion_answers h awake held waits oldest⟩, fun noChange => ?_⟩
    · rw [← done awake]
      exact closeCompletion_stays h awake held other stays
    · have line := closeCompletion_sameLine h awake other (.inr noChange)
      exact ⟨line.cmd, line.line⟩

end Sys2Proof.Machine

namespace Sys2Proof.Machine

/-! ## FETCH EVENT and RELEASE EVENT (R134, R139) -/

/-- A command served while FROZEN too, whose own handling comes to a reply in a state that keeps the Command Unit and the line. -/
theorem exec_replies {i : Instr} {code : Nat} {s t : State} {c : Held} {rest : List Held} {k : ReplyCode} {x : Bytes}
    (row : commandCode i = some code) (h : Begins s code c rest) (fits : paramsFit i c = true)
    (served : refusedFrozen i = false) (body : commandBody i c s = answer k x t) (cmd : t.cmd = s.cmd)
    (line : t.line = s.line) : exec i s = .next (replied k x c rest t) :=
  (exec_begins row h.toOldest fits fun _ => served).trans (settled_reply h body cmd line)

section
variable {s : State} {c : Held} {r : EventRecord} {q : List EventRecord}

/-! ### FETCH EVENT -/

theorem fetchEvent_of_empty (empty : s.queue = []) : fetchEvent c s = answer .notReady [0] s := by
  rw [fetchEvent, empty]
  rfl

theorem fetchEvent_of_unsettled (head : s.queue = r :: q) (unsettled : r.status.settled = false) :
    fetchEvent c s = answer .busy (encHead r ++ encNat 1 s.queue.length ++ encCopied s r) s := by
  simp only [fetchEvent, head, unsettled]
  rfl

theorem fetchEvent_of_settled (head : s.queue = r :: q) (settled : r.status.settled = true) :
    fetchEvent c s = answer .ok (encNat 1 s.queue.length ++ encRecord r) s := by
  simp only [fetchEvent, head, settled]
  rfl

theorem encCopied_of_waiting (waits : r.status = .waiting) : encCopied s r = [] := by
  simp [encCopied, waits]

theorem encCopied_of_capturing {a : ActiveCapture} (captures : r.status = .capturing) (active : s.capture.active = some a) :
    encCopied s r = encNat 1 (a.next - 1) := by
  simp [encCopied, captures, active]

/-! ### RELEASE EVENT -/

theorem releaseEvent_of_empty (empty : s.queue = []) : releaseEvent c s = answer .notReady [] s := by
  rw [releaseEvent, empty]

theorem releaseEvent_of_head (head : s.queue = r :: q) : releaseEvent c s =
    if r.serial ≠ c.field 0 2 then answer .notReady (encHead r) s
    else if r.status.settled = false then answer .busy (encHead r) s
    else answer .ok (encNat 2 r.serial ++ encNat 1 q.length) (removeHead s) := by
  simp [releaseEvent, head]

/-- A settled head holds an extent where its snippet is COMPLETE or PARTIAL (R119, R124). -/
theorem removeHead_of_settled (head : s.queue = r :: q) (settled : r.status.settled = true) :
    removeHead s = (s.setQueue q).setStore { s.store with freeWords := s.store.freeWords +
      if r.status = .complete ∨ r.status = .partialCopy then (r.plan.map PlanEntry.count).sum else 0 } := by
  have extent : r.extent = if r.status = .complete ∨ r.status = .partialCopy then (r.plan.map PlanEntry.count).sum else 0 := by
    unfold EventRecord.extent extentSize
    cases status : r.status <;> simp_all [SnippetStatus.holdsExtent, SnippetStatus.settled]
  simp only [removeHead, head, extent]

end

/-- Settles O49: the forms are the branches of `fetchEvent` and of `releaseEvent`, by the head of the queue. -/
theorem headFetchedAndReleased : Obligations.HeadFetchedAndReleased := by
  intro s c rest
  refine ⟨fun h some => ?_, fun h none => ?_, fun h other => ?_, fun h two => ?_⟩
  · exact exec_misfit (i := .fetchEvent) rfl h (by simp [paramsFit, fixedBytes, some])
  · have replies {k : ReplyCode} {x : Bytes} (body : fetchEvent c s = answer k x s) :
        exec .fetchEvent s = .next (replied k x c rest s) :=
      exec_replies (i := .fetchEvent) rfl h (by simp [paramsFit, fixedBytes, none]) rfl body rfl rfl
    refine ⟨fun empty => replies (fetchEvent_of_empty empty), fun r q head => ⟨fun waits => ?_, fun a captures active => ?_,
      fun settled => replies (fetchEvent_of_settled head settled)⟩⟩
    · refine replies ((fetchEvent_of_unsettled head (by rw [waits]; rfl)).trans ?_)
      rw [encCopied_of_waiting waits, encHead, waits, List.append_nil]
      rfl
    · refine replies ((fetchEvent_of_unsettled head (by rw [captures]; rfl)).trans ?_)
      rw [encCopied_of_capturing captures active, encHead, captures]
      rfl
  · exact exec_misfit (i := .releaseEvent) rfl h (by simp [paramsFit, fixedBytes, other])
  · have replies {k : ReplyCode} {x : Bytes} {t : State} (cmd : t.cmd = s.cmd) (line : t.line = s.line)
        (body : releaseEvent c s = answer k x t) : exec .releaseEvent s = .next (replied k x c rest t) :=
      exec_replies (i := .releaseEvent) rfl h (by simp [paramsFit, fixedBytes, two]) rfl body cmd line
    refine ⟨fun empty => replies rfl rfl (releaseEvent_of_empty empty), fun r q head => ?_⟩
    have body := releaseEvent_of_head (c := c) head
    refine ⟨fun differs => ?_, fun same unsettled => ?_, fun same settled => ?_⟩
    · rw [if_pos differs] at body
      exact replies rfl rfl body
    · rw [if_neg (not_not.2 same), if_pos unsettled] at body
      exact replies rfl rfl body
    · rw [if_neg (not_not.2 same), if_neg (by simp [settled]), removeHead_of_settled head settled] at body
      exact replies rfl rfl body

/-! ## READ SNIPPET (R135) -/

/-- READ SNIPPET by the head of the queue: its checks in their order (R135). -/
theorem readSnippet_of_head {s : State} {c : Held} {r : EventRecord} {q : List EventRecord} (head : s.queue = r :: q) :
    readSnippet c s =
      if r.status.settled = false then answer .busy (encHead r) s
      else if r.status.holdsExtent = false then answer .notReady (encHead r) s
      else if selected (c.byte 0) r.plan = [] ∨ extentSize (selected (c.byte 0) r.plan) ≤ c.field 1 2 then
        answer .badRequest [] s
      else s.setCmd { s.cmd with executing := some (.streaming
        (newStream r (c.byte 0) (c.field 1 2) (c.field 3 2) (extentSize (selected (c.byte 0) r.plan)))) } := by
  simp only [readSnippet, head, List.isEmpty_iff, Bool.not_eq_true', ite_or]

/-- Settles O50: the checks are the branches of `readSnippet_of_head`. -/
theorem readSnippetForms : Obligations.ReadSnippetForms := by
  intro s c rest h five selector
  have fits : paramsFit .readSnippet c = true := by
    simpa [paramsFit, readSnippetFits, five, selectAll, Config.lanes] using selector
  have replies {k : ReplyCode} {x : Bytes} (body : readSnippet c s = answer k x s) :
      exec .readSnippet s = .next (replied k x c rest s) := exec_replies (i := .readSnippet) rfl h fits rfl body rfl rfl
  refine ⟨fun empty => replies (by rw [readSnippet, empty]), fun r q head => ?_⟩
  intro refusal named words first count
  have body := readSnippet_of_head (c := c) head
  refine ⟨fun unsettled => ?_, fun none => ?_, fun copied => ?_⟩
  · rw [if_pos unsettled] at body
    exact replies body
  · have settled : r.status.settled = true := by rcases none with is | is | is <;> rw [is] <;> rfl
    have empty : r.status.holdsExtent = false := by rcases none with is | is | is <;> rw [is] <;> rfl
    rw [if_neg (by simp [settled]), if_pos empty] at body
    exact replies body
  · have settled : r.status.settled = true := by rcases copied with is | is <;> rw [is] <;> rfl
    have holds : r.status.holdsExtent = true := by rcases copied with is | is <;> rw [is] <;> rfl
    rw [if_neg (by simp [settled]), if_neg (by simp [holds])] at body
    refine ⟨fun outside => ?_, fun names inside => ?_⟩
    · exact replies (body.trans (if_pos outside))
    · have within : ¬(named = [] ∨ words ≤ first) := by
        rintro (nothing | past)
        · exact names nothing
        · omega
      rw [exec_begins (i := .readSnippet) rfl h.toOldest fits fun _ => rfl, ← waiting_begins _ h.held h.noWaiter]
      exact congrArg (fun t => Host.Outcome.next (settleLine t)) (body.trans (if_neg within))

end Sys2Proof.Machine

namespace Sys2Proof.Machine

/-! ## WAIT_TIMER_EXPIRY (R123, R125 to R127) -/

theorem exec_waitTimerExpiry {s : State} (free : s.resetHeld = false) :
    exec .waitTimerExpiry s = .next (waitTimerExpiry s) := live_of_free _ _ free

/-- The state in which the wait test follows the expiry `e` of the wait timer (R126). -/
def waitExpired (e : Nat) (s : State) : State :=
  (s.setNow (max s.now e)).setCapture { s.capture with waitTimer := none }

theorem waitTimerExpiry_of_timer {s : State} {e : Nat} (timer : s.capture.waitTimer = some e)
    (awake : s.notice.frozen = false) : waitTimerExpiry s = waitTest (waitExpired e s) := by
  simp [waitTimerExpiry, timer, awake, waitExpired]

theorem waitTimerExpiry_idle {s : State} (idle : s.capture.waitTimer = none ∨ s.notice.frozen = true) :
    waitTimerExpiry s = s := by
  unfold waitTimerExpiry
  split
  · rfl
  · rename_i e timer
    exact if_pos (idle.resolve_left (by simp [timer]))

/-! ### The wait test of the candidate -/

/-- A record that is not WAITING stands in its place after the wait test. -/
theorem served_settled {before after q : List EventRecord} {r : EventRecord}
    (served : (before ++ r :: after).Forall₂ Served q) (other : r.status ≠ .waiting) : q[before.length]? = some r := by
  induction before generalizing q with
  | nil =>
    cases served with
    | cons first _ => simp [first.kept other]
  | cons x before ih =>
    cases served with
    | cons _ rest => simpa using ih rest

section
variable {s : State} {before after : List EventRecord} {r : EventRecord}

theorem waitTest_of_candidate (k : Candidate s s.captures before r after) : waitTest s =
    if waitTestPasses s r = true then
      if s.store.freeWords < spanWords r.plan then serveCandidate s.queue.length (refuseCapture s) else beginCapture r s
    else s.setCapture { s.capture with waitTimer := some (r.closeTime + s.params.capture.captureWait) } := by
  rw [waitTest, serveCandidate, (candidate_iff s r).2 ⟨before, after, k⟩]
  rfl

/-- A candidate that may not begin yet sets the wait timer (R126). -/
theorem waitTest_waits (k : Candidate s s.captures before r after) (held : ¬MayBegin s r) :
    waitTest s = s.setCapture { s.capture with waitTimer := some (r.closeTime + s.params.capture.captureWait) } := by
  rw [waitTest_of_candidate k, if_neg fun passes => held ((waitTestPasses_iff s r).1 passes)]

/-- A candidate that may begin takes its extent at the write position, where there is room (R123, R127). -/
theorem waitTest_begins (k : Candidate s s.captures before r after) (passes : MayBegin s r)
    (room : spanWords r.plan ≤ s.store.freeWords) : waitTest s =
      ((s.setQueue (before ++ { r with status := .capturing, plan := placeEntries s.store.writePos r.plan } :: after)).setStore
        { s.store with writePos := (s.store.writePos + spanWords r.plan) % 65536
                       freeWords := s.store.freeWords - spanWords r.plan }).setCapture
        { active := some { next := 1, storeError := false }, waitTimer := none } := by
  have queue : modifyFirst EventRecord.isWaiting
      (fun x => { x with status := .capturing, plan := placeEntries s.store.writePos x.plan }) s.queue
        = before ++ { r with status := .capturing, plan := placeEntries s.store.writePos r.plan } :: after := k.modify _
  rw [waitTest_of_candidate k, if_pos ((waitTestPasses_iff s r).2 passes), if_neg (Nat.not_lt.2 room), beginCapture, queue]
  rfl

/-- A candidate that may begin and finds no room stays NO_SPACE, with EVENT_READY, whatever comes of the next ones (R127). -/
theorem waitTest_refuses (k : Candidate s s.captures before r after) (passes : MayBegin s r)
    (full : s.store.freeWords < spanWords r.plan) :
    (waitTest s).queue[before.length]? = some { r with status := .noSpace }
      ∧ (waitTest s).notice.isSet .eventReady = true := by
  have tested : waitTest s = serveCandidate s.queue.length (refuseCapture s) := by
    rw [waitTest_of_candidate k, if_pos ((waitTestPasses_iff s r).2 passes), if_pos full]
  have refused : (refuseCapture s).queue = before ++ { r with status := .noSpace } :: after := by
    have queue : modifyFirst EventRecord.isWaiting (fun x => { x with status := .noSpace }) s.queue = _ := k.modify _
    rw [← queue]
    simp [refuseCapture]
  have fuel : ((refuseCapture s).queue.filter EventRecord.isWaiting).length < s.queue.length := by
    rw [← show (refuseCapture s).queue.length = s.queue.length by simp [refuseCapture]]
    exact List.length_filter_lt_length_iff_exists.2 ⟨{ r with status := .noSpace }, by simp [refused], by
      simp [EventRecord.isWaiting]⟩
  rw [tested]
  refine ⟨?_, isSet_serveCandidate _ (isSet_raise_self _ _)⟩
  have served : (refuseCapture s).queue.Forall₂ Served (serveCandidate s.queue.length (refuseCapture s)).queue :=
    (serveCandidate_tested _ _ fuel).served
  rw [refused] at served
  exact served_settled served (nomatch ·)

end

/-- Settles O52: the wait test is `waitTest_tested`, and the forms of the candidate's test those of `waitTest_of_candidate`. -/
theorem waitTimerExpires : Obligations.WaitTimerExpires := by
  refine ⟨waitTest_tested, fun s free => ⟨fun idle => ?_, fun e timer awake => ?_, ?_⟩⟩
  · rw [exec_waitTimerExpiry free, waitTimerExpiry_idle idle]
  · refine ⟨waitTest (waitExpired e s), ?_, waitTest_tested (waitExpired e s)⟩
    rw [exec_waitTimerExpiry free, waitTimerExpiry_of_timer timer awake]
  · intro e before r after timer awake active head waits oldest now wait size passes
    have candidate : Candidate (waitExpired e s) (waitExpired e s).captures before r after :=
      ⟨awake, active, head, waits, oldest⟩
    rw [exec_waitTimerExpiry free, waitTimerExpiry_of_timer timer awake]
    refine ⟨fun held => ?_, fun may room => ?_, fun may full => ⟨_, rfl, waitTest_refuses candidate may full⟩⟩
    · rw [waitTest_waits candidate held]
      rfl
    · rw [waitTest_begins candidate may room]
      exact ⟨_, rfl, placeEntries_placed _ _⟩

end Sys2Proof.Machine

namespace Sys2Proof.Machine

/-! ## COPY_STEP (R128 to R130, R132) -/

theorem exec_copyStep {s : State} (free : s.resetHeld = false) :
    exec .copyStep s = .next (settleLine (copyStep s)) :=
  live_of_free (fun t => settleLine (copyStep t)) s free

theorem copyEccFailure_of_unflagged {s : State} {a : ActiveCapture} (lane i : Nat) (active : s.capture.active = some a)
    (unflagged : a.storeError = false) : copyEccFailure lane i s = takeFault .capture (.ring lane i)
      (s.setCapture { s.capture with active := some { a with storeError := true } }) := by
  simp [copyEccFailure, active, unflagged]

theorem copyEccFailure_of_flagged {s : State} {a : ActiveCapture} (lane i : Nat) (active : s.capture.active = some a)
    (flagged : a.storeError = true) : copyEccFailure lane i s = s := by
  simp [copyEccFailure, active, flagged]

/-! ### The words copied -/

/-- The sample that the answer to a read of a ring puts into the Snippet Store (R128, R129). -/
def RingAnswer.copied : RingAnswer → Sample
  | .sample x => x
  | _ => missingMarker

/-- The store words after the samples of `answers` have been copied to word `w` and on (R128). -/
def copyAnswers (words : Memory StoreWord) (w : Nat) : List RingAnswer → Memory StoreWord
  | [] => words
  | x :: xs => copyAnswers (Memory.write StoreWord.unwritten words (w % 65536) { sample := x.copied, eccOk := true }) (w + 1) xs

theorem copyAnswers_append (words : Memory StoreWord) (w : Nat) (xs ys : List RingAnswer) :
    copyAnswers words w (xs ++ ys) = copyAnswers (copyAnswers words w xs) (w + xs.length) ys := by
  induction xs generalizing words w with
  | nil => rfl
  | cons x xs ih =>
    rw [List.cons_append, copyAnswers, ih, copyAnswers, List.length_cons, Nat.add_assoc, Nat.add_comm 1]

/-- A word behind which another answer is copied. -/
theorem read_copyAnswers_other (words : Memory StoreWord) (o v : Nat) (answers : List RingAnswer)
    (other : ∀ j < answers.length, v ≠ (o + j) % 65536) :
    Memory.read StoreWord.unwritten (copyAnswers words o answers) v = Memory.read StoreWord.unwritten words v := by
  induction answers generalizing words o with
  | nil => rfl
  | cons x xs ih =>
    rw [copyAnswers, ih _ _ fun j lt => by simpa [Nat.add_assoc, Nat.add_comm 1] using other (j + 1) (by simpa using lt),
      Memory.read_write, if_neg (by simpa using other 0 (by simp))]

theorem read_copyAnswers (words : Memory StoreWord) (o : Nat) (answers : List RingAnswer)
    (fits : answers.length ≤ 65536) (j : Nat) (lt : j < answers.length) :
    Memory.read StoreWord.unwritten (copyAnswers words o answers) ((o + j) % 65536)
      = { sample := answers[j].copied, eccOk := true } := by
  induction answers generalizing words o j with
  | nil => exact absurd lt (Nat.not_lt_zero j)
  | cons x xs ih =>
    have fits : xs.length + 1 ≤ 65536 := fits
    cases j with
    | zero =>
      rw [copyAnswers, read_copyAnswers_other _ _ _ _ fun i lt => by omega, Memory.read_write]
      simp
    | succ j =>
      have later := ih (Memory.write StoreWord.unwritten words (o % 65536) { sample := x.copied, eccOk := true }) (o + 1)
        (by omega) j (by simpa using lt)
      simpa [copyAnswers, Nat.add_assoc, Nat.add_comm 1] using later

/-! ### The copy of a span -/

/-- The answers to the reads of the `n` samples of a lane's ring from index `i` on. -/
def ringAnswers (s : State) (lane i n : Nat) : List RingAnswer :=
  (List.range n).map fun j => (ringOf s lane).readSample (i + j)

theorem ringAnswers_succ (s : State) (lane i n : Nat) :
    ringAnswers s lane i (n + 1) = (ringOf s lane).readSample i :: ringAnswers s lane (i + 1) n := by
  simp [ringAnswers, List.range_succ_eq_map, Function.comp_def, Nat.add_assoc, Nat.add_comm 1]

theorem ringAnswers_append (s : State) (lane i n : Nat) : ringAnswers s lane i (n + 1) =
    ringAnswers s lane i n ++ [(ringOf s lane).readSample (i + n)] := by
  simp [ringAnswers, List.range_succ]

@[simp] theorem length_ringAnswers (s : State) (lane i n : Nat) : (ringAnswers s lane i n).length = n := by
  simp [ringAnswers]

theorem length_filter_ringAnswers (s : State) (lane i n : Nat) (x : RingAnswer) :
    ((ringAnswers s lane i n).filter fun y => y == x).length
      = ((List.range n).filter fun j => (ringOf s lane).readSample (i + j) == x).length := by
  rw [ringAnswers, List.filter_map, List.length_map]
  rfl

/-- The copy under way once the samples of `answers` have been copied to word `w` and on, faults left out (R128). -/
def CopyProgress.copy (p : CopyProgress) (w : Nat) (answers : List RingAnswer) : CopyProgress :=
  { state := p.state.setStore { p.state.store with words := copyAnswers p.state.store.words w answers }
    omitStart := p.omitStart + (answers.filter fun x => x == .older).length
    omitEnd := p.omitEnd + (answers.filter fun x => x == .notReceived).length }

theorem CopyProgress.copy_append (p : CopyProgress) (w : Nat) (xs ys : List RingAnswer) :
    (p.copy w xs).copy (w + xs.length) ys = p.copy w (xs ++ ys) := by
  have counts (z : RingAnswer) : ((xs ++ ys).filter fun y => y == z).length
      = (xs.filter fun y => y == z).length + (ys.filter fun y => y == z).length := by
    rw [List.filter_append, List.length_append]
  simp only [copy, counts, copyAnswers_append, ← Nat.add_assoc]
  rfl

/-- A read that takes no fault: one that does not fail, or that finds the store error flag set (R129). -/
def TakesNoFault (s : State) (x : RingAnswer) : Prop :=
  x ≠ .eccFailure ∨ ∃ a, s.capture.active = some a ∧ a.storeError = true

theorem copyWord_of_noFault {lane i : Nat} {p : CopyProgress} (w : Nat)
    (clean : TakesNoFault p.state ((ringOf p.state lane).readSample i)) :
    copyWord lane i w p = p.copy w [(ringOf p.state lane).readSample i] := by
  unfold copyWord
  split <;> rename_i answer <;> rw [answer] at clean ⊢
  case h_5 =>
    obtain ⟨a, active, flagged⟩ := clean.resolve_left (not_not.2 rfl)
    rw [copyEccFailure_of_flagged (a := a) lane i (by simpa using active) flagged]
    rfl
  all_goals rfl

/-- The capture `a` with its store error flag set (R129). -/
def flagStore (a : ActiveCapture) (s : State) : State :=
  s.setCapture { s.capture with active := some { a with storeError := true } }

/-- The copy under way, the store error flag set and the fault of `place` taken (R129). -/
def CopyProgress.fault (p : CopyProgress) (a : ActiveCapture) (place : FaultPlace) : CopyProgress :=
  { p with state := takeFault .capture place (flagStore a p.state) }

/-- The first word of a capture that fails its ECC check is copied as the missing marker, and takes a fault (R129). -/
theorem copyWord_of_failure {lane i w : Nat} {p : CopyProgress} {a : ActiveCapture}
    (fails : (ringOf p.state lane).readSample i = .eccFailure) (active : p.state.capture.active = some a)
    (unflagged : a.storeError = false) :
    copyWord lane i w p = (p.copy w [.eccFailure]).fault a (.ring lane i) := by
  unfold copyWord
  rw [fails]
  dsimp only
  rw [copyEccFailure_of_unflagged lane i (by simpa using active) unflagged]
  rfl

theorem copyWords_goesOn {lane n i w : Nat} {p : CopyProgress} (awake : (copyWord lane i w p).state.notice.frozen = false) :
    copyWords lane (n + 1) i w p = copyWords lane n (i + 1) (w + 1) (copyWord lane i w p) := if_neg (by simp [awake])

/-- The reads that take no fault at the head of a span. -/
theorem copyWords_of_noFault {lane n i : Nat} {p : CopyProgress} (awake : p.state.notice.frozen = false)
    (clean : ∀ x ∈ ringAnswers p.state lane i n, TakesNoFault p.state x) (m w : Nat) :
    copyWords lane (n + m) i w p = copyWords lane m (i + n) (w + n) (p.copy w (ringAnswers p.state lane i n)) := by
  induction n generalizing i w p with
  | zero => rw [Nat.zero_add]; rfl
  | succ n ih =>
    rw [ringAnswers_succ] at clean ⊢
    have first := copyWord_of_noFault w (clean _ (List.mem_cons_self ..))
    have rest := ih (p := p.copy w [(ringOf p.state lane).readSample i]) (i := i + 1) awake
      (fun x mem => clean x (List.mem_cons_of_mem _ mem)) (w + 1)
    rw [Nat.add_right_comm, copyWords_goesOn (by rw [first]; exact awake), first, rest, Nat.add_right_comm i,
      Nat.add_right_comm w, Nat.add_assoc i, Nat.add_assoc w]
    exact congrArg _ (p.copy_append w [_] _)

/-! ### The capture as the engine freezes -/

theorem enterFrozen_capture (a : Activity) (s : State) : (enterFrozen a s).capture = .idle := by
  rw [enterFrozen, freezeCommand_capture, (freezeClose_frozen a (by simp)).1]
  simp [abortCaptures]

/-- A fault finds the engine FROZEN, is recorded and leaves it running, or freezes it (R173). -/
theorem takeFault_frozen_iff (a : Activity) (p : FaultPlace) (s : State) : (takeFault a p s).notice.frozen = true ↔
    s.notice.frozen = true ∨ s.notice.faultRecord.isSome = true ∨ s.params.faultCapture = false := by
  unfold takeFault
  split
  · simp [*]
  · split
    · simp [*, enterFrozen_frozen]
    · cases capture : s.params.faultCapture with
      | true => simp [*]
      | false => simp [enterFrozen_frozen]

theorem takeFault_enters {a : Activity} {p : FaultPlace} {s : State} (awake : s.notice.frozen = false)
    (frozen : (takeFault a p s).notice.frozen = true) : ∃ n, takeFault a p s = enterFrozen a (s.setNotice n) := by
  rw [takeFault_frozen_iff] at frozen
  rw [takeFault, if_neg (by simp [awake])]
  by_cases held : s.notice.faultRecord.isSome = true
  · exact ⟨_, if_pos held⟩
  · have freezes : s.params.faultCapture = false := by simpa [awake, held] using frozen
    rw [if_neg held]
    exact ⟨_, if_neg (by simp [freezes])⟩

/-- A fault that freezes the engine ends the capture (R132). -/
theorem takeFault_ends_capture {a : Activity} {p : FaultPlace} {s : State} (awake : s.notice.frozen = false)
    (frozen : (takeFault a p s).notice.frozen = true) : (takeFault a p s).capture = .idle := by
  obtain ⟨n, enters⟩ := takeFault_enters awake frozen
  rw [enters, enterFrozen_capture]

/-- The words of the Snippet Store have no part in a fault. -/
theorem takeFault_setStore_frozen (a : Activity) (p : FaultPlace) (s : State) (x : SnippetStore) :
    (takeFault a p (s.setStore x)).notice.frozen = (takeFault a p s).notice.frozen := by
  rw [Bool.eq_iff_iff, takeFault_frozen_iff, takeFault_frozen_iff]
  rfl

theorem takeFault_setStore {a : Activity} {p : FaultPlace} {s : State} (awake : (takeFault a p s).notice.frozen = false)
    (x : SnippetStore) : takeFault a p (s.setStore x) = (takeFault a p s).setStore x := by
  obtain ⟨_, _, _, taken⟩ := takeFault_running awake
  obtain ⟨_, _, _, taken'⟩ := takeFault_running ((takeFault_setStore_frozen a p s x).trans awake)
  rw [taken, taken']
  rfl

/-! ### The first failure of a capture -/

/-- The read of the sample `j` of the span at `i` is the first of it that fails its ECC check (R129). -/
structure FirstFails (s : State) (lane i j : Nat) : Prop where
  fails : (ringOf s lane).readSample (i + j) = .eccFailure
  first : ∀ k < j, (ringOf s lane).readSample (i + k) ≠ .eccFailure

theorem takesNoFault_of_good {s t : State} {lane i n : Nat} (good : ∀ j < n, (ringOf s lane).readSample (i + j) ≠ .eccFailure) :
    ∀ x ∈ ringAnswers s lane i n, TakesNoFault t x := by
  intro x mem
  obtain ⟨j, lt, rfl⟩ := List.mem_map.1 mem
  exact .inl (good j (List.mem_range.1 lt))

theorem takesNoFault_of_flagged {s : State} {a : ActiveCapture} (active : s.capture.active = some a)
    (flagged : a.storeError = true) (x : RingAnswer) : TakesNoFault s x := .inr ⟨a, active, flagged⟩

/-- The copy up to the first failure, and the fault it takes (R129). -/
theorem copyWords_of_failure {lane i j : Nat} {p : CopyProgress} {a : ActiveCapture} (awake : p.state.notice.frozen = false)
    (active : p.state.capture.active = some a) (unflagged : a.storeError = false) (h : FirstFails p.state lane i j)
    (m w : Nat) :
    let met := (p.copy w (ringAnswers p.state lane i (j + 1))).fault a (.ring lane (i + j))
    copyWords lane (j + 1 + m) i w p = if met.state.notice.frozen then met else
      copyWords lane m (i + (j + 1)) (w + (j + 1)) met := by
  intro met
  have before := copyWords_of_noFault awake (takesNoFault_of_good h.first) (m + 1) w
  have answers : ringAnswers p.state lane i (j + 1) = ringAnswers p.state lane i j ++ [.eccFailure] := by
    rw [ringAnswers_append, h.fails]
  have failing : copyWord lane (i + j) (w + j) (p.copy w (ringAnswers p.state lane i j)) = met := by
    have copied := p.copy_append w (ringAnswers p.state lane i j) [.eccFailure]
    rw [length_ringAnswers, ← answers] at copied
    have failed := copyWord_of_failure (p := p.copy w (ringAnswers p.state lane i j)) (w := w + j) h.fails active unflagged
    rw [failed, copied]
  rw [Nat.add_right_comm, Nat.add_assoc j, before, copyWords, failing]
  rfl

/-! ### The step -/

/-- The step's end: the capture stopped meanwhile, goes on with the entry after `k`, or is over (R128 to R130, R132). -/
def CopyProgress.finish (p : CopyProgress) (k entries : Nat) : State :=
  match p.state.capture.active with
  | none => p.state
  | some a =>
    let t := updateCapturing (EventRecord.setOmits k p.omitStart p.omitEnd) p.state
    if k < entries then t.setCapture { t.capture with active := some { a with next := k + 1 } }
    else endCapture a.storeError t

theorem CopyProgress.finish_of_idle {p : CopyProgress} {k entries : Nat} (idle : p.state.capture.active = none) :
    p.finish k entries = p.state := by
  rw [finish, idle]

theorem CopyProgress.finish_of_active {p : CopyProgress} {k entries : Nat} {a : ActiveCapture} {t : State}
    (active : p.state.capture.active = some a)
    (omits : updateCapturing (EventRecord.setOmits k p.omitStart p.omitEnd) p.state = t) :
    p.finish k entries = if k < entries then t.setCapture { t.capture with active := some { a with next := k + 1 } }
      else endCapture a.storeError t := by
  simp only [finish, active, omits]

/-- A capture in progress: `r`, behind `before`, is the record in capture, and its entry `e`, with its place at word `o`, is
the one copied next (R128). -/
structure Copying (s : State) (a : ActiveCapture) (before : List EventRecord) (r : EventRecord) (after : List EventRecord)
    (e : PlanEntry) (o : Nat) : Prop where
  active : s.capture.active = some a
  queue : s.queue = before ++ r :: after
  captures : r.status = .capturing
  first : ∀ x ∈ before, x.status ≠ .capturing
  next : 1 ≤ a.next
  entry : r.plan[a.next - 1]? = some e
  place : e.extentOffset = some o

/-- The copy of a span begins in the state `s`. -/
def CopyProgress.start (s : State) : CopyProgress := { state := s, omitStart := 0, omitEnd := 0 }

section
variable {s : State} {a : ActiveCapture} {before after : List EventRecord} {r : EventRecord} {e : PlanEntry} {o : Nat}

theorem Copying.modify (h : Copying s a before r after e o) (f : EventRecord → EventRecord) :
    modifyFirst EventRecord.isCapturing f s.queue = before ++ f r :: after := by
  rw [h.queue]
  exact modifyFirst_append f (fun x mem => by simpa [EventRecord.isCapturing] using h.first x mem)
    (by simp [EventRecord.isCapturing, h.captures])

theorem copyStep_of_copying (h : Copying s a before r after e o) :
    copyStep s = (copyWords e.lane e.count e.start o (.start s)).finish a.next r.plan.length := by
  have found : s.queue.find? EventRecord.isCapturing = some r := by
    rw [List.find?_eq_some_iff_append]
    exact ⟨by simp [EventRecord.isCapturing, h.captures], before, after, h.queue, fun x mem => by
      simpa [EventRecord.isCapturing] using h.first x mem⟩
  simp only [copyStep, h.active, found, h.entry, h.place]
  rfl

theorem modifyEntry_eq_set {f : PlanEntry → PlanEntry} {k : Nat} {plan : List PlanEntry} (one : 1 ≤ k)
    (entry : plan[k - 1]? = some e) : modifyEntry f k plan = plan.set (k - 1) (f e) := by
  induction plan generalizing k with
  | nil => cases entry
  | cons x xs ih =>
    match k with
    | 1 =>
      obtain rfl : x = e := by simpa using entry
      rfl
    | k + 2 => exact congrArg (x :: ·) (ih (k := k + 1) (by omega) entry)

/-- The store words after the first `n` samples of the span of `e` have been copied to its place. -/
def spanCopied (s : State) (e : PlanEntry) (o n : Nat) : SnippetStore :=
  { s.store with words := copyAnswers s.store.words o (ringAnswers s e.lane e.start n) }

theorem read_spanCopied (s : State) (e : PlanEntry) (o n : Nat) (fits : n ≤ 65536) :
    (∀ j < n, Memory.read StoreWord.unwritten (spanCopied s e o n).words ((o + j) % 65536)
        = { sample := ((ringOf s e.lane).readSample (e.start + j)).copied, eccOk := true })
      ∧ ∀ w, (∀ j < n, w ≠ (o + j) % 65536) → Memory.read StoreWord.unwritten (spanCopied s e o n).words w
        = Memory.read StoreWord.unwritten s.store.words w := by
  refine ⟨fun j lt => ?_, fun w other => read_copyAnswers_other _ _ _ _ (by simpa using other)⟩
  rw [spanCopied, read_copyAnswers _ _ _ (by simpa using fits) j (by simpa using lt)]
  simp [ringAnswers]

/-- What a failing word of a capture leaves where its fault does not freeze the engine (R129). -/
theorem takeFault_flagStore {place : FaultPlace} (running : (takeFault .capture place (flagStore a s)).notice.frozen = false) :
    ∃ n, takeFault .capture place (flagStore a s) = (flagStore a s).setNotice n := by
  obtain ⟨_, _, _, taken⟩ := takeFault_running running
  exact ⟨_, taken⟩

/-- The first failing word of a capture, where its fault leaves the engine running: the step is that of the engine with the fault
taken and the flag set before (R129). -/
theorem copyStep_of_met {j : Nat} (h : Copying s a before r after e o) (awake : s.notice.frozen = false)
    (unflagged : a.storeError = false) (lt : j < e.count) (fails : FirstFails s e.lane e.start j)
    (running : (takeFault .capture (.ring e.lane (e.start + j)) (flagStore a s)).notice.frozen = false) :
    copyStep s = copyStep (takeFault .capture (.ring e.lane (e.start + j)) (flagStore a s)) := by
  obtain ⟨m, count⟩ := Nat.exists_eq_add_of_le (Nat.succ_le_of_lt lt)
  have goesOn := (takeFault_setStore_frozen _ _ _ (spanCopied s e o (j + 1))).trans running
  have met := takeFault_setStore running (spanCopied s e o (j + 1))
  obtain ⟨n, taken⟩ := takeFault_flagStore running
  rw [taken] at running met ⊢
  have again : Copying ((flagStore a s).setNotice n) { a with storeError := true } before r after e o :=
    ⟨rfl, h.queue, h.captures, h.first, h.next, h.entry, h.place⟩
  have second := copyWords_of_noFault (p := .start ((flagStore a s).setNotice n)) (lane := e.lane) (i := e.start) (n := j + 1)
    running (fun x _ => takesNoFault_of_flagged rfl rfl x) m o
  have first := copyWords_of_failure (p := .start s) awake h.active unflagged fails m o
  have progress : (CopyProgress.copy (.start s) o (ringAnswers s e.lane e.start (j + 1))).fault a
      (.ring e.lane (e.start + j)) = CopyProgress.copy (.start ((flagStore a s).setNotice n)) o
        (ringAnswers ((flagStore a s).setNotice n) e.lane e.start (j + 1)) :=
    congrArg (fun t => { CopyProgress.copy (.start s) o (ringAnswers s e.lane e.start (j + 1)) with state := t }) met
  have whole : copyWords e.lane e.count e.start o (.start s) =
      copyWords e.lane e.count e.start o (.start ((flagStore a s).setNotice n)) := by
    rw [count]
    exact (first.trans (if_neg (Bool.eq_false_iff.1 goesOn))).trans ((congrArg _ progress).trans second.symm)
  rw [copyStep_of_copying h, copyStep_of_copying again, whole]

/-- The first failing word of a capture, where its fault freezes the engine: the capture ends at it (R129, R132). -/
theorem copyStep_of_frozen {j : Nat} (h : Copying s a before r after e o) (awake : s.notice.frozen = false)
    (unflagged : a.storeError = false) (lt : j < e.count) (fails : FirstFails s e.lane e.start j)
    (frozen : (takeFault .capture (.ring e.lane (e.start + j)) (flagStore a s)).notice.frozen = true) :
    copyStep s = takeFault .capture (.ring e.lane (e.start + j))
      ((flagStore a s).setStore (spanCopied s e o (j + 1))) := by
  obtain ⟨m, count⟩ := Nat.exists_eq_add_of_le (Nat.succ_le_of_lt lt)
  have stops := (takeFault_setStore_frozen _ _ _ (spanCopied s e o (j + 1))).trans frozen
  have first := copyWords_of_failure (p := .start s) awake h.active unflagged fails m o
  have copied : copyWords e.lane e.count e.start o (.start s) =
      (CopyProgress.copy (.start s) o (ringAnswers s e.lane e.start (j + 1))).fault a (.ring e.lane (e.start + j)) := by
    rw [count]
    exact first.trans (if_pos stops)
  have idle := takeFault_ends_capture (s := (flagStore a s).setStore (spanCopied s e o (j + 1))) awake stops
  rw [copyStep_of_copying h, copied]
  exact CopyProgress.finish_of_idle (congrArg CaptureUnit.active idle)

/-- The omit counts of an entry, as the copy of its span finds them (R128). -/
def PlanEntry.withOmits (e : PlanEntry) (answers : List RingAnswer) : PlanEntry :=
  { e with omitStart := (answers.filter fun x => x == .older).length
           omitEnd := (answers.filter fun x => x == .notReceived).length }

/-- The record in capture once the span of `e` has been copied (R128). -/
def entryCopied (s : State) (a : ActiveCapture) (r : EventRecord) (e : PlanEntry) : EventRecord :=
  { r with plan := r.plan.set (a.next - 1) (e.withOmits (ringAnswers s e.lane e.start e.count)) }

/-- A span without a fault: its words and omit counts, and the next entry or the end of the capture (R128, R130). -/
theorem copyStep_of_noFault (h : Copying s a before r after e o) (awake : s.notice.frozen = false)
    (clean : ∀ x ∈ ringAnswers s e.lane e.start e.count, TakesNoFault s x) :
    let t := (s.setStore (spanCopied s e o e.count)).setQueue (before ++ entryCopied s a r e :: after)
    copyStep s = if a.next < r.plan.length then
        t.setCapture { s.capture with active := some { a with next := a.next + 1 } }
      else endCapture a.storeError t := by
  intro t
  have copied : copyWords e.lane e.count e.start o (.start s) =
      (CopyProgress.start s).copy o (ringAnswers s e.lane e.start e.count) :=
    copyWords_of_noFault awake clean 0 o
  have omits : r.setOmits a.next ((CopyProgress.start s).copy o (ringAnswers s e.lane e.start e.count)).omitStart
      ((CopyProgress.start s).copy o (ringAnswers s e.lane e.start e.count)).omitEnd = entryCopied s a r e := by
    rw [EventRecord.setOmits, modifyEntry_eq_set h.next h.entry]
    simp [CopyProgress.copy, CopyProgress.start, entryCopied, PlanEntry.withOmits]
  have queue := (h.modify _).trans (congrArg (fun x => before ++ x :: after) omits)
  rw [copyStep_of_copying h, copied]
  exact CopyProgress.finish_of_active h.active (congrArg (s.setStore (spanCopied s e o e.count)).setQueue queue)

/-! ### The end of the capture (R130) -/

theorem waitTest_words (s : State) : (waitTest s).store.words = s.store.words := (same_waitTest s).words

/-- The record `r` at the end of its capture, COMPLETE or PARTIAL (R130). -/
def captureDone (r : EventRecord) (storeError : Bool) : EventRecord :=
  { r with status := if storeError = false ∧ ∀ x ∈ r.plan, x.omitStart = 0 ∧ x.omitEnd = 0 then .complete else .partialCopy }

theorem outcome_eq (r : EventRecord) (storeError : Bool) : r.outcome storeError = (captureDone r storeError).status := by
  simp [EventRecord.outcome, captureDone]

theorem captureDone_not_waiting (r : EventRecord) (storeError : Bool) : (captureDone r storeError).status ≠ .waiting := by
  unfold captureDone
  split <;> simp

/-- The capture is over: its record settled, the unit IDLE, and the next candidate still to be tested (R130). -/
def captureOver (before after : List EventRecord) (done : EventRecord) (s : State) : State :=
  raiseEventReady ((s.setQueue (before ++ done :: after)).setCapture .idle)

theorem endCapture_eq (storeError : Bool) (queue : s.queue = before ++ r :: after) (captures : r.status = .capturing)
    (first : ∀ x ∈ before, x.status ≠ .capturing) :
    endCapture storeError s = waitTest (captureOver before after (captureDone r storeError) s) := by
  have settled : modifyFirst EventRecord.isCapturing (fun r => { r with status := r.outcome storeError }) s.queue =
      before ++ captureDone r storeError :: after := by
    rw [queue, modifyFirst_append _ (fun x mem => by simpa [EventRecord.isCapturing] using first x mem)
      (by simp [EventRecord.isCapturing, captures]), outcome_eq]
    rfl
  rw [endCapture, updateCapturing, settled]
  rfl

/-- What the end of a capture leaves: its record settled in its place, EVENT_READY, and the next candidate tested. -/
theorem endCapture_leaves (storeError : Bool) (queue : s.queue = before ++ r :: after) (captures : r.status = .capturing)
    (first : ∀ x ∈ before, x.status ≠ .capturing) :
    let t := settleLine (endCapture storeError s)
    t.store.words = s.store.words ∧ t.notice.isSet .eventReady = true
      ∧ t.queue[before.length]? = some (captureDone r storeError)
      ∧ WaitTested t { queue := before ++ captureDone r storeError :: after, store := s.store, capture := .idle } t.captures := by
  intro t
  have tested := waitTest_tested (captureOver before after (captureDone r storeError) s)
  rw [← endCapture_eq storeError queue captures first] at tested
  have flag : (captureOver before after (captureDone r storeError) s).notice.isSet .eventReady = true := isSet_raise_self _ _
  have start : (captureOver before after (captureDone r storeError) s).captures =
      { queue := before ++ captureDone r storeError :: after, store := s.store, capture := .idle } := rfl
  rw [start] at tested
  have ended : t.captures = (endCapture storeError s).captures := by simp [t, State.captures]
  refine ⟨?_, ?_, ?_, ?_⟩
  · rw [settleLine_store, endCapture_eq storeError queue captures first, waitTest_words]
    rfl
  · rw [settleLine_notice, endCapture_eq storeError queue captures first]
    exact isSet_waitTest flag
  · rw [settleLine_queue]
    exact served_settled tested.served (captureDone_not_waiting r storeError)
  · rw [ended]
    exact tested.congr (sameForTest_settleLine _)

end

/-- Settles O53: `copyStep_of_met` and `copyStep_of_frozen` at the first failing word, `copyStep_of_noFault` and
`endCapture_leaves` where no word takes a fault. -/
theorem copyStepsCopy : Obligations.CopyStepsCopy := by
  refine ⟨fun s a lane i => copyEccFailure_of_unflagged lane i, fun s free idle => ?_, ?_⟩
  · have nothing : copyStep s = s := by simp [copyStep, idle]
    rw [exec_copyStep free, nothing]
  intro s a before r after e o free awake active queue captures first next entry place fits read copied flagged
  have h : Copying s a before r after e o := ⟨active, queue, captures, first, next, entry, place⟩
  have words (n : Nat) (le : n ≤ e.count) : copied n (spanCopied s e o n).words := read_spanCopied s e o n (le.trans fits)
  refine ⟨fun j unflagged lt fails earlier => ?_, fun clean => ?_⟩
  · have failure : FirstFails s e.lane e.start j := ⟨fails, earlier⟩
    refine ⟨fun running => ?_, fun frozen => ⟨_, words (j + 1) lt, ?_⟩⟩
    · have free' : (takeFault .capture (.ring e.lane (e.start + j)) (flagStore a s)).resetHeld = false := by
        simpa [flagStore] using free
      rw [exec_copyStep free, copyStep_of_met h awake unflagged lt failure running]
      exact (exec_copyStep free').symm
    · rw [exec_copyStep free, copyStep_of_frozen h awake unflagged lt failure frozen]
      rfl
  · intro entry plan
    have done : entryCopied s a r e = { r with plan := plan } := by
      simp [entryCopied, PlanEntry.withOmits, length_filter_ringAnswers, plan, entry, read]
    have step := copyStep_of_noFault h awake fun x mem => clean.elim
      (fun flag => takesNoFault_of_flagged active flag x) fun good => takesNoFault_of_good good x mem
    rw [done] at step
    refine ⟨_, words e.count le_rfl, fun more => ?_, fun last => ?_⟩
    · rw [exec_copyStep free, step.trans (if_pos more)]
      rfl
    · have ends := step.trans (if_neg (Nat.not_lt.2 last))
      rw [exec_copyStep free, ends]
      obtain ⟨stored, ready, inPlace, tested⟩ := endCapture_leaves (before := before) (after := after)
        (r := { r with plan := plan }) a.storeError
        (s := (s.setStore (spanCopied s e o e.count)).setQueue (before ++ { r with plan := plan } :: after)) rfl captures first
      exact ⟨_, rfl, stored, ready, _, rfl, inPlace, tested⟩

end Sys2Proof.Machine

namespace Sys2Proof.Machine

/-! ## SNIPPET_FRAME_PLACED (R136, R137, R148) -/

theorem exec_snippetFramePlaced {s : State} (free : s.resetHeld = false) :
    exec .snippetFramePlaced s = .next (settleLine (snippetFramePlaced s)) :=
  live_of_free (fun t => settleLine (snippetFramePlaced t)) s free

/-! ### The words read for a frame -/

/-- The samples that the `n` store words from `first` on give a frame, the missing marker for each that fails its check (R137). -/
def readSamples (s : State) (first n : Nat) : List Sample :=
  (List.range n).map fun i => (s.store.readWord ((first + i) % 65536)).getD missingMarker

/-- Those of the `n` store words from `first` on that fail their ECC check (R137). -/
def failingWords (s : State) (first n : Nat) : List Nat :=
  ((List.range n).map fun i => (first + i) % 65536).filter fun x => (s.store.readWord x).isNone

/-- FROZEN_STORE_ERRORS after `x` more failing words (R137). -/
def countFailures (x : Nat) (s : State) : State :=
  if x = 0 then s
  else s.setNotice { s.notice with frozenStoreErrors := satAdd s.notice.frozenStoreErrors x }

/-- The engine after the words `failing` of a command's stream have failed (R137, R173). -/
def afterFailures (s : State) (st : Stream) (failing : List Nat) : State :=
  match failing with
  | [] => s
  | first :: others =>
    if s.notice.frozen then countFailures failing.length s
    else if st.faultMet then s
    else
      let taken := takeFault .readSnippet (.store first) s
      if taken.notice.frozen then countFailures others.length taken else taken

/-- A stream after `failed` failing words in an engine that was FROZEN or not (R137). -/
def Stream.afterFailures (st : Stream) (frozen : Bool) (failed : Nat) : Stream :=
  { st with replaced := st.replaced + failed, faultMet := st.faultMet || (!frozen && decide (0 < failed)) }

theorem satAdd_satAdd (c m n : Nat) : satAdd (satAdd c m) n = satAdd c (m + n) := by
  unfold satAdd
  omega

theorem countFailures_add (m n : Nat) (s : State) : countFailures n (countFailures m s) = countFailures (m + n) s := by
  unfold countFailures
  by_cases first : m = 0
  · simp [first]
  · by_cases second : n = 0
    · simp [second]
    · simp [first, second, satAdd_satAdd]

@[simp] theorem countFailures_frozen (n : Nat) (s : State) : (countFailures n s).notice.frozen = s.notice.frozen := by
  unfold countFailures
  split <;> rfl

section
variable {s : State} {st : Stream} {word : Nat}

theorem meetStoreFailure_of_frozen (frozen : s.notice.frozen = true) : meetStoreFailure word st s =
    ({ st with replaced := st.replaced + 1 }, countFailures 1 s) := if_pos frozen

theorem meetStoreFailure_of_met (awake : s.notice.frozen = false) (met : st.faultMet = true) : meetStoreFailure word st s =
    ({ st with replaced := st.replaced + 1 }, s) := by
  simp [meetStoreFailure, awake, met]

theorem meetStoreFailure_of_first (awake : s.notice.frozen = false) (unmet : st.faultMet = false) :
    meetStoreFailure word st s =
      ({ st with replaced := st.replaced + 1, faultMet := true }, takeFault .readSnippet (.store word) s) := by
  simp [meetStoreFailure, awake, unmet]

theorem same_meetStoreFailure (word : Nat) (st : Stream) (s : State) : SameMemories s (meetStoreFailure word st s).2 := by
  unfold meetStoreFailure
  dsimp only
  split
  · constructor <;> simp
  · split
    · exact .refl s
    · exact same_takeFault _ _ s

/-- A failing word before the others: the first one of a command takes the fault, and while FROZEN each is counted (R137). -/
theorem meetStoreFailure_cons (word : Nat) (st : Stream) (s : State) (others : List Nat) :
    (meetStoreFailure word st s).1.afterFailures (meetStoreFailure word st s).2.notice.frozen others.length
        = st.afterFailures s.notice.frozen (word :: others).length
      ∧ afterFailures (meetStoreFailure word st s).2 (meetStoreFailure word st s).1 others
        = afterFailures s st (word :: others) := by
  have replaced : st.replaced + 1 + others.length = st.replaced + (word :: others).length := by
    rw [List.length_cons, Nat.add_right_comm, Nat.add_assoc]
  by_cases frozen : s.notice.frozen = true
  · rw [meetStoreFailure_of_frozen frozen]
    refine ⟨by simp [Stream.afterFailures, frozen, replaced], ?_⟩
    cases others with
    | nil => simp [afterFailures, frozen]
    | cons next others => simp [afterFailures, frozen, countFailures_add, Nat.add_comm]
  · have awake : s.notice.frozen = false := by simpa using frozen
    cases met : st.faultMet with
    | true =>
      rw [meetStoreFailure_of_met awake met]
      refine ⟨by simp [Stream.afterFailures, met, replaced], ?_⟩
      cases others <;> simp [afterFailures, awake, met]
    | false =>
      rw [meetStoreFailure_of_first awake met]
      refine ⟨by simp [Stream.afterFailures, met, awake, replaced], ?_⟩
      cases others <;> simp [afterFailures, awake, met, countFailures]

theorem readSamples_succ (s : State) (first n : Nat) : readSamples s first (n + 1) =
    (s.store.readWord (first % 65536)).getD missingMarker :: readSamples s (first + 1) n := by
  simp [readSamples, List.range_succ_eq_map, Function.comp_def, Nat.add_assoc, Nat.add_comm 1]

theorem failingWords_succ (s : State) (first n : Nat) : failingWords s first (n + 1) =
    if (s.store.readWord (first % 65536)).isNone then first % 65536 :: failingWords s (first + 1) n
    else failingWords s (first + 1) n := by
  simp [failingWords, List.range_succ_eq_map, Function.comp_def, Nat.add_assoc, Nat.add_comm 1, List.filter_cons]

theorem readWord_congr {s t : State} (h : SameMemories s t) (w : Nat) : t.store.readWord w = s.store.readWord w := by
  simp only [SnippetStore.readWord, h.words]

/-- The reads of a frame: its samples, the stream's counts, and the engine after the words that failed (R136, R137). -/
theorem readWords_eq (n first : Nat) (st : Stream) (s : State) : readWords n first st s =
    (readSamples s first n, st.afterFailures s.notice.frozen (failingWords s first n).length,
      afterFailures s st (failingWords s first n)) := by
  induction n generalizing first st s with
  | zero => simp [readWords, readSamples, failingWords, Stream.afterFailures, afterFailures]
  | succ n ih =>
    rw [readSamples_succ, failingWords_succ]
    cases read : s.store.readWord (first % 65536) with
    | some x =>
      simp [readWords, read, ih]
    | none =>
      have same := same_meetStoreFailure (first % 65536) st s
      have samples : readSamples (meetStoreFailure (first % 65536) st s).2 (first + 1) n = readSamples s (first + 1) n := by
        simp only [readSamples, readWord_congr same]
      have failing : failingWords (meetStoreFailure (first % 65536) st s).2 (first + 1) n = failingWords s (first + 1) n := by
        simp only [failingWords, readWord_congr same]
      obtain ⟨counted, met⟩ := meetStoreFailure_cons (first % 65536) st s (failingWords s (first + 1) n)
      simp only [readWords, read, ih, samples, failing, counted, met]
      rfl

end

/-! ### The frame and the reply -/

/-- A command in its stream is not one that the FROZEN condition ends (R138). -/
theorem streaming_endures {s : State} {st : Stream} (streams : s.cmd.executing = some (.streaming st)) (x : Executing)
    (is : s.cmd.executing = some x) : endedByFrozen x = false := by
  rw [streams] at is
  cases is
  rfl

/-- The words of the next frame of `st`, from word `w` of the span of `e` on, that fail their check. -/
def frameFailures (s : State) (st : Stream) (e : PlanEntry) (w : Nat) : List Nat :=
  failingWords s (e.extentOffset.getD 0 + w) (frameWords st e w)

/-- The next frame of `st`, from word `w` of the span of `e` on (R136). -/
def nextFrame (s : State) (st : Stream) (e : PlanEntry) (w : Nat) : Bytes :=
  ownFrame 0x33 (encNat 1 s.line.source ++ encNat 2 st.serial ++ encNat 1 e.lane ++ encNat 2 w
    ++ encNat 1 (frameWords st e w)
    ++ ((readSamples s (e.extentOffset.getD 0 + w) (frameWords st e w)).map encSample).flatten)

/-- The stream after its next frame (R136). -/
def nextStream (s : State) (st : Stream) (e : PlanEntry) (w : Nat) : Stream :=
  { st.afterFailures s.notice.frozen (frameFailures s st e w).length with
    sent := st.sent + frameWords st e w
    frames := st.frames + 1 }

/-- The engine with the next frame placed, the producers `waiters` waiting (R136, R137). -/
def framePlaced (s : State) (st : Stream) (e : PlanEntry) (w : Nat) (waiters : List Producer) : State :=
  ((afterFailures s st (frameFailures s st e w)).setLine
    { s.line with own := s.line.own ++ [nextFrame s st e w], waiters := waiters }).setCmd
      { held := s.cmd.held, executing := some (.streaming (nextStream s st e w)) }

theorem framePlaced_line (s : State) (st : Stream) (e : PlanEntry) (w : Nat) (waiters : List Producer) :
    (framePlaced s st e w waiters).line = { s.line with own := s.line.own ++ [nextFrame s st e w], waiters := waiters } := by
  rw [framePlaced, State.line_setCmd, State.line_setLine]

theorem framePlaced_cmd (s : State) (st : Stream) (e : PlanEntry) (w : Nat) (waiters : List Producer) :
    (framePlaced s st e w waiters).cmd = { held := s.cmd.held, executing := some (.streaming (nextStream s st e w)) } := by
  rw [framePlaced, State.cmd_setCmd]

theorem framePlaced_then (s : State) (st : Stream) (e : PlanEntry) (w : Nat) (waiters : List Producer) (l : Line)
    (x : CommandUnit) : ((framePlaced s st e w waiters).setLine l).setCmd x
      = ((afterFailures s st (frameFailures s st e w)).setLine l).setCmd x := by
  unfold framePlaced
  generalize afterFailures s st (frameFailures s st e w) = u
  rfl

/-- The result of the reply that ends a stream (R136). -/
def streamResult (st : Stream) : Bytes :=
  encNat 2 st.serial ++ encNat 1 st.selector ++ encNat 2 st.first ++ encNat 2 st.sent ++ encNat 2 st.frames
    ++ encNat 2 st.replaced

theorem placeSnippet_eq {s : State} {st : Stream} (e : PlanEntry) (w : Nat)
    (streams : s.cmd.executing = some (.streaming st)) : placeSnippet st e w s =
      let t := framePlaced s st e w (s.line.waiters.filter fun q => q != .commandUnit)
      if st.sent + frameWords st e w < st.total then t
      else answer (okOr st.clamped) (streamResult (nextStream s st e w)) t := by
  have reads := readWords_eq (frameWords st e w) (e.extentOffset.getD 0 + w) st s
  have line : (afterFailures s st (frameFailures s st e w)).line = s.line :=
    (congrArg (fun x => x.2.2.line) reads).symm.trans (readWords_line _ _ _ (streaming_endures streams))
  have cmd : (afterFailures s st (frameFailures s st e w)).cmd = s.cmd :=
    (congrArg (fun x => x.2.2.cmd) reads).symm.trans (readWords_cmd _ _ _ (streaming_endures streams))
  have length : (readSamples s (e.extentOffset.getD 0 + w) (frameWords st e w)).length = frameWords st e w := by
    simp [readSamples]
  rw [frameFailures] at line cmd
  simp only [placeSnippet, reads, line, cmd, snippetFrame, length, stopWaiting, State.line_setLine, State.setLine_setLine]
  rfl

/-- Words are left behind the frame: the stream goes on (R136). -/
theorem placeSnippet_goesOn {s : State} {st : Stream} {e : PlanEntry} {w : Nat}
    (streams : s.cmd.executing = some (.streaming st)) (more : st.sent + frameWords st e w < st.total) :
    placeSnippet st e w s = framePlaced s st e w (s.line.waiters.filter fun q => q != .commandUnit) :=
  (placeSnippet_eq e w streams).trans (if_pos more)

/-- The frame holds the last words: the reply follows it (R136). -/
theorem placeSnippet_ends {s : State} {st : Stream} {e : PlanEntry} {w : Nat}
    (streams : s.cmd.executing = some (.streaming st)) (last : st.total ≤ st.sent + frameWords st e w) :
    placeSnippet st e w s = answer (okOr st.clamped) (streamResult (nextStream s st e w))
      (framePlaced s st e w (s.line.waiters.filter fun q => q != .commandUnit)) :=
  (placeSnippet_eq e w streams).trans (if_neg (Nat.not_lt.2 last))

theorem snippetFramePlaced_of_stream {s : State} {st : Stream} {r : EventRecord} {q : List EventRecord} {e : PlanEntry}
    {w : Nat} (streams : s.cmd.executing = some (.streaming st)) (head : s.queue = r :: q)
    (located : locateWord (selected st.selector r.plan) (st.first + st.sent) = some (e, w)) :
    snippetFramePlaced s = if s.line.mayPlace .commandUnit then placeSnippet st e w s else streamWaits s := by
  simp only [snippetFramePlaced, streams, head, located]

theorem mayPlace_iff (l : Line) (p : Producer) : l.mayPlace p = true ↔
    l.own.length < 16 ∧ (l.waiters = [] ∨ ∃ others, l.waiters = p :: others) := by
  unfold Line.mayPlace Line.room
  cases l.waiters <;> simp


/-! ### A place for the frame (R148) -/

/-- The Command Unit finds no place where the Own Queue is full or another producer waits in front (R148). -/
theorem commandUnit_blocked_iff (l : Line) : l.mayPlace .commandUnit = false ↔
    16 ≤ l.own.length ∨ ∃ p others, l.waiters = p :: others ∧ p ≠ .commandUnit := by
  rw [← Bool.not_eq_true, mayPlace_iff, not_and_or, Nat.not_lt]
  refine or_congr Iff.rfl ?_
  cases l.waiters with
  | nil => simp
  | cons p others => simp

theorem arbitrate_of_busy {l : Line} (busy : l.dnTx.isSome = true) : l.arbitrate = l := if_pos (by simp [busy])

theorem withOwn_of_busy {l : Line} (f : Bytes) (busy : l.dnTx.isSome = true) : l.withOwn f = { l with own := l.own ++ [f] } :=
  arbitrate_of_busy busy

theorem settled_of_busy {s : State} (busy : s.line.dnTx.isSome = true) : settled s = s := by
  rw [settled, arbitrate_of_busy busy, State.setLine_self]

theorem streamWaits_of_absent {s : State} (absent : .commandUnit ∉ s.line.waiters) :
    streamWaits s = s.setLine { s.line with waiters := s.line.waiters ++ [.commandUnit] } := by
  simp [streamWaits, absent]

theorem streamWaits_of_waiting {s : State} (waits : .commandUnit ∈ s.line.waiters) : streamWaits s = s := by
  simp [streamWaits, waits]

section
variable {s : State} {st : Stream} {c : Held} {held : List Held}

/-- The code byte of a reply that carries a result (R159). -/
theorem replyFrame_okOr_result (source : Nat) (c : Held) (clamped : Bool) (result : Bytes) :
    replyFrame source c (okOr clamped) result =
      ownFrame 0x31 (encNat 1 source ++ [c.tag, c.code] ++ [if clamped then 1 else 0] ++ result) := by
  cases clamped <;> rfl

/-- The last frame and the reply behind it find places (R136). -/
theorem reply_after_frame (e : PlanEntry) (w : Nat) (k : ReplyCode) (x : Bytes) (oldest : s.cmd.held = c :: held)
    (busy : s.line.dnTx.isSome = true) (empty : s.line.waiters = []) (room : s.line.own.length < 15) :
    settleLine (answer k x (framePlaced s st e w [])) =
      ((afterFailures s st (frameFailures s st e w)).setLine { s.line with
        own := s.line.own ++ [nextFrame s st e w, replyFrame s.line.source c k x] }).setCmd
          { held := held, executing := none } := by
  have places : OwnRoom (framePlaced s st e w []) :=
    ⟨rfl, by simpa [framePlaced, Config.ownDepth] using Nat.add_lt_add_right room 1⟩
  have head : (framePlaced s st e w []).cmd.held = c :: held := by rw [framePlaced_cmd, oldest]
  have own : s.line.own ++ [nextFrame s st e w] ++ [replyFrame s.line.source c k x]
      = s.line.own ++ [nextFrame s st e w, replyFrame s.line.source c k x] := List.append_assoc _ _ _
  rw [settleLine_answer k x head places, replied, withOwn_of_busy (l := (framePlaced s st e w []).line) _ busy,
    framePlaced_then, framePlaced_line, ← own, ← empty]
  rfl

/-- The last frame takes the last place, and the reply waits for one (R148). -/
theorem reply_waits_after_frame (e : PlanEntry) (w : Nat) (k : ReplyCode) (x : Bytes) (oldest : s.cmd.held = c :: held)
    (busy : s.line.dnTx.isSome = true) (last : s.line.own.length = 15) :
    settleLine (answer k x (framePlaced s st e w [])) =
      ((afterFailures s st (frameFailures s st e w)).setLine { s.line with
        own := s.line.own ++ [nextFrame s st e w]
        waiters := [.commandUnit] }).setCmd
          { held := c :: held, executing := some (.replyWaiting (replyFrame s.line.source c k x)) } := by
  have full : (framePlaced s st e w []).line.own.length = 16 := by simp [framePlaced, last]
  have blocked : (framePlaced s st e w []).line.mayPlace .commandUnit = false :=
    (commandUnit_blocked_iff _).2 (.inl full.ge)
  have head : (framePlaced s st e w []).cmd.held = c :: held := by rw [framePlaced_cmd, oldest]
  rw [answer_waits k x head blocked, framePlaced_then, framePlaced_line, framePlaced_cmd, oldest]
  generalize afterFailures s st (frameFailures s st e w) = u
  exact settleLine_of_full (by simp [last, Config.ownDepth]) busy

end

/-- Settles O51: the reads are `readWords_eq`, the frame's place `mayPlace_iff`, and the reply finds one or waits behind the
frame. -/
theorem snippetFramesPlaced : Obligations.SnippetFramesPlaced := by
  refine fun s free => ⟨fun none => ?_, ?_⟩
  · have nothing : snippetFramePlaced s = s := by
      unfold snippetFramePlaced
      split
      · exact absurd ‹_› (none _)
      · rfl
    rw [exec_snippetFramePlaced free, nothing]
  intro st c held r q e w streams oldest head busy located n word samples failing failed counts u frame st' result reply blocked
    placed
  have step := snippetFramePlaced_of_stream streams head located
  have engine : afterFailures s st (frameFailures s st e w) = u := rfl
  have frame_eq : nextFrame s st e w = frame := rfl
  have stream : nextStream s st e w = st' := rfl
  have placed_eq (waiters : List Producer) : framePlaced s st e w waiters = placed waiters := by
    rw [framePlaced, oldest, engine, frame_eq, stream]
  have result_eq : streamResult (nextStream s st e w) = result := rfl
  have reply_eq : replyFrame s.line.source c (okOr st.clamped) result = reply := replyFrame_okOr_result _ _ _ _
  have waits (none : blocked) : s.line.mayPlace .commandUnit = false := (commandUnit_blocked_iff s.line).2 none
  have places (room : s.line.own.length < 16) (first : s.line.waiters = [] ∨ ∃ others, s.line.waiters = .commandUnit :: others) :
      s.line.mayPlace .commandUnit = true := (mayPlace_iff _ _).2 ⟨room, first⟩
  rw [exec_snippetFramePlaced free, step]
  refine ⟨fun none absent => ?_, fun none waiting => ?_, fun room more => ?_, fun empty room last => ?_,
    fun alone almost last => ?_, fun others front room => ?_⟩
  · rw [waits none, if_neg Bool.false_ne_true, streamWaits_of_absent absent]
  · rw [waits none, if_neg Bool.false_ne_true, streamWaits_of_waiting waiting]
  · rw [places room.room (.inl room.noWaiter), if_pos rfl, placeSnippet_goesOn streams more, room.noWaiter, List.filter_nil,
      settleLine_of_noWaiter (by rw [framePlaced_line]), settled_of_busy (by rwa [framePlaced_line]), placed_eq]
  · rw [places (by omega) (.inl empty), if_pos rfl, placeSnippet_ends streams last, empty, List.filter_nil,
      reply_after_frame e w _ _ oldest busy empty room, engine, frame_eq, result_eq, reply_eq]
  · have others : s.line.waiters.filter (fun q => q != .commandUnit) = [] := by
      rcases alone with none | one
      · rw [none, List.filter_nil]
      · rw [one]
        rfl
    rw [places (by omega) (alone.imp id fun one => ⟨[], one⟩), if_pos rfl, placeSnippet_ends streams last, others,
      reply_waits_after_frame e w _ _ oldest busy almost, engine, frame_eq, result_eq, reply_eq]
  · have behind : s.line.waiters.filter (fun q => q != .commandUnit) = others.filter fun q => q != .commandUnit := by
      rw [front, List.filter_cons_of_neg (by simp)]
    rw [places room (.inr ⟨others, front⟩), if_pos rfl]
    refine ⟨fun more => ?_, fun last => ?_⟩
    · rw [placeSnippet_goesOn streams more, behind, placed_eq]
    · rw [placeSnippet_ends streams last, behind, placed_eq, result_eq]
      rfl

end Sys2Proof.Machine

namespace Sys2Proof.Machine

/-! ## The depths of the queues, the account of the Snippet Store and the serials over a step (R106, R110, R118, R122, R146 to
R149) -/

/-! ### What a step keeps of the three -/

/-- The serials of the queued records, the serial counter behind them (R110). -/
def serialRun (s : State) : List Nat := s.queue.map EventRecord.serial ++ [s.det.serial]

/-- From `s` to `t` the queues stay within their depths, the account of the Snippet Store right and the serials consecutive,
each for itself. -/
structure QueuesKept (s t : State) : Prop where
  line : LineBounded s.line → LineBounded t.line
  held : s.cmd.held.length ≤ Config.heldDepth → t.cmd.held.length ≤ Config.heldDepth
  places : placesUsed s ≤ Config.queueDepth → placesUsed t ≤ Config.queueDepth
  accounts : StoreAccounts s → StoreAccounts t
  serials : SerialsFollow s → SerialsFollow t

theorem QueuesKept.refl (s : State) : QueuesKept s s := ⟨id, id, id, id, id⟩

theorem QueuesKept.trans {s t u : State} (h : QueuesKept s t) (k : QueuesKept t u) : QueuesKept s u :=
  ⟨k.line ∘ h.line, k.held ∘ h.held, k.places ∘ h.places, k.accounts ∘ h.accounts, k.serials ∘ h.serials⟩

theorem QueuesKept.bounded {s t : State} (h : QueuesKept s t) (hs : QueuesBounded s) : QueuesBounded t := by
  obtain ⟨forwarding, upward, own, run⟩ := h.line ⟨hs.forwarding, hs.upward, hs.own, hs.run⟩
  exact ⟨forwarding, upward, own, run, h.held hs.held, h.places hs.events⟩

theorem serials_of_run {s t : State} (same : serialRun t = serialRun s) (h : SerialsFollow s) : SerialsFollow t := by
  unfold SerialsFollow at h ⊢
  rwa [← serialRun, same]

/-- `t` stands as `s` does in the Event Queue, the account of the Snippet Store and the serial counter. -/
structure SameEvents (s t : State) : Prop where
  queue : t.queue = s.queue
  closing : t.det.closing = s.det.closing
  serial : t.det.serial = s.det.serial
  free : t.store.freeWords = s.store.freeWords
  position : t.store.writePos = s.store.writePos

theorem SameEvents.kept {s t : State} (h : SameEvents s t) (line : LineBounded s.line → LineBounded t.line)
    (held : s.cmd.held.length ≤ Config.heldDepth → t.cmd.held.length ≤ Config.heldDepth) : QueuesKept s t where
  line := line
  held := held
  places := places_same (by rw [h.queue]) h.closing
  accounts hs := ⟨by rw [h.queue, h.free]; exact hs.total, by rw [h.position]; exact hs.position⟩
  serials := serials_of_run (by rw [serialRun, serialRun, h.queue, h.serial])

/-- `t` stands as `s` does in all that the three invariants speak of. -/
structure SameQueues (s t : State) : Prop where
  line : t.line = s.line
  held : t.cmd.held = s.cmd.held
  queue : t.queue = s.queue
  closing : t.det.closing = s.det.closing
  serial : t.det.serial = s.det.serial
  free : t.store.freeWords = s.store.freeWords
  position : t.store.writePos = s.store.writePos

theorem SameQueues.kept {s t : State} (h : SameQueues s t) : QueuesKept s t :=
  SameEvents.kept ⟨h.queue, h.closing, h.serial, h.free, h.position⟩ (by rw [h.line]; exact id) (by rw [h.held]; exact id)

/-- A change of the Event Queue, the Detector or the Snippet Store, with the line and the Command Unit as they stand. -/
theorem QueuesKept.of_sameLine {s t : State} (same : SameLine s t)
    (places : placesUsed s ≤ Config.queueDepth → placesUsed t ≤ Config.queueDepth)
    (accounts : StoreAccounts s → StoreAccounts t) (serials : SerialsFollow s → SerialsFollow t) : QueuesKept s t :=
  ⟨by rw [same.line]; exact id, by rw [same.cmd]; exact id, places, accounts, serials⟩

/-! ### The line, and the reply to a command -/

theorem queuesKept_settleLine (s : State) : QueuesKept s (settleLine s) :=
  SameEvents.kept (by constructor <;> simp) bounded_settleLine (held_settleLine s).trans

theorem queuesKept_answer (k : ReplyCode) (x : Bytes) (s : State) : QueuesKept s (answer k x s) :=
  SameEvents.kept (by constructor <;> simp) (bounded_answer k x) (held_answer k x s).trans

/-! ### The serials -/

theorem serials_modifyFirst (p : EventRecord → Bool) (f : EventRecord → EventRecord) (same : ∀ r, (f r).serial = r.serial)
    (q : List EventRecord) : (modifyFirst p f q).map EventRecord.serial = q.map EventRecord.serial := by
  induction q with
  | nil => rfl
  | cons r rs ih =>
    unfold modifyFirst
    split
    · simp [same]
    · simp [ih]

theorem serials_markOverflow (q : List EventRecord) :
    (markOverflow q).map EventRecord.serial = q.map EventRecord.serial := by
  induction q with
  | nil => rfl
  | cons r rs ih =>
    cases rs with
    | nil => rfl
    | cons x xs => simpa [markOverflow] using ih

theorem serials_abort (q : List EventRecord) :
    (q.map EventRecord.abort).map EventRecord.serial = q.map EventRecord.serial := by
  rw [List.map_map]
  refine List.map_congr_left fun r _ => ?_
  show r.abort.serial = r.serial
  unfold EventRecord.abort
  split <;> rfl

/-- The wait test changes no serial (R127). -/
theorem serials_served {q q' : List EventRecord} (h : q.Forall₂ Served q') :
    q'.map EventRecord.serial = q.map EventRecord.serial := by
  induction h with
  | nil => rfl
  | cons first _ ih =>
    have serial := congrArg EventRecord.serial first.fields
    rw [List.map_cons, List.map_cons, ih]
    exact congrArg (· :: _) serial

theorem serialRun_waitTest (s : State) : serialRun (waitTest s) = serialRun s := by
  have served : (waitTest s).queue.map EventRecord.serial = s.queue.map EventRecord.serial :=
    serials_served (waitTest_tested s).served
  rw [serialRun, serialRun, served, waitTest_det]

theorem serialRun_waitTestFor (lane : Nat) (s : State) : serialRun (waitTestFor lane s) = serialRun s := by
  unfold waitTestFor
  split
  · exact serialRun_waitTest s
  · rfl

theorem queuesKept_waitTest (s : State) : QueuesKept s (waitTest s) :=
  .of_sameLine ⟨by simp, by simp⟩ (places_same (by simp) (by simp)) accounts_waitTest (serials_of_run (serialRun_waitTest s))

theorem queuesKept_waitTestFor (lane : Nat) (s : State) : QueuesKept s (waitTestFor lane s) :=
  .of_sameLine ⟨by simp, by simp⟩ (places_same (by simp) (by simp)) (accounts_waitTestFor lane)
    (serials_of_run (serialRun_waitTestFor lane s))

/-- A record with the serial that the counter gives is appended, and the counter goes on to the next (R110). -/
theorem serials_append {s t : State} (run : serialRun t = serialRun s ++ [(s.det.serial + 1) % 65536])
    (h : SerialsFollow s) : SerialsFollow t := by
  unfold SerialsFollow at h ⊢
  rw [← serialRun, run, serialRun]
  refine h.append (.singleton _) ?_
  simp

theorem serialRun_appendRecord (r : EventRecord) (s : State) : serialRun (appendRecord r s) =
    s.queue.map EventRecord.serial ++ [r.serial] ++ [s.det.serial] := by
  have appended : serialRun (s.setQueue (s.queue ++ [r])) = s.queue.map EventRecord.serial ++ [r.serial] ++ [s.det.serial] := by
    simp [serialRun]
  rw [← appended]
  unfold appendRecord
  dsimp only
  split
  · simp [serialRun]
  · split
    · exact serialRun_waitTest _
    · rfl

theorem serials_appendClosed {s : State} (c : Closing) (run : Running) (plan : List PlanEntry) (h : SerialsFollow s) :
    SerialsFollow (appendClosed c run plan s) :=
  serials_append (s := s) ((serialRun_appendRecord _ _).trans rfl) h

/-! ### Faults -/

theorem serialRun_abortCaptures (s : State) : serialRun (abortCaptures s) = serialRun s := by
  have queue : (abortCaptures s).queue = s.queue.map EventRecord.abort := by simp [abortCaptures]
  rw [serialRun, serialRun, queue, serials_abort, abortCaptures_det]

theorem serials_freezeClose (a : Activity) {s : State} (h : SerialsFollow s) : SerialsFollow (freezeClose a s) := by
  unfold freezeClose
  split
  · exact h
  · split
    · exact h
    · split
      · exact serials_appendClosed _ _ _ h
      · exact h

theorem serials_enterFrozen (a : Activity) {s : State} (h : SerialsFollow s) : SerialsFollow (enterFrozen a s) := by
  have aborted (u : State) (same : serialRun u = serialRun s) : SerialsFollow (freezeClose a (abortCaptures u)) :=
    serials_freezeClose a (serials_of_run ((serialRun_abortCaptures u).trans same) h)
  have answered (u : State) : serialRun (freezeCommand u) = serialRun u := by simp [serialRun]
  exact serials_of_run (answered _) (aborted _ rfl)

theorem serials_takeFault (a : Activity) (p : FaultPlace) {s : State} (h : SerialsFollow s) :
    SerialsFollow (takeFault a p s) := by
  have noted (n : NoticeUnit) : SerialsFollow (setFlag .fault (s.setNotice n)) := serials_of_run (by simp [serialRun]) h
  unfold takeFault
  dsimp only
  split
  · exact h
  · split
    · exact serials_enterFrozen a (noted _)
    · split
      · exact noted _
      · exact serials_enterFrozen a (noted _)

theorem queuesKept_takeFault (a : Activity) (p : FaultPlace) (s : State) : QueuesKept s (takeFault a p s) where
  line := bounded_takeFault a p
  held := (held_takeFault a p s).trans
  places := (places_takeFault a p s).trans
  accounts := accounts_takeFault a p
  serials := serials_takeFault a p

/-! ### Closes, cuts and tick results -/

theorem serialRun_beginClose (k : CloseReason) (t : Nat) (b : Bool) (s : State) :
    serialRun (beginClose k t b s) = serialRun s := by
  have queue : (beginClose k t b s).queue.map EventRecord.serial = s.queue.map EventRecord.serial := by
    unfold beginClose
    split
    · rfl
    · simp [discardClose, serials_markOverflow]
  rw [serialRun, serialRun, queue, beginClose_serial]

theorem serialRun_cutOpenEvent (k : CloseReason) (s : State) : serialRun (cutOpenEvent k s) = serialRun s := by
  unfold cutOpenEvent
  split
  · rfl
  · exact serialRun_beginClose ..
  · rfl

theorem serialRun_takeOverrun (s : State) : serialRun (takeOverrun s) = serialRun s := by
  unfold takeOverrun
  split
  · rfl
  · split
    · rfl
    · exact serialRun_cutOpenEvent _ s

theorem queuesKept_takeOverrun (s : State) : QueuesKept s (takeOverrun s) :=
  .of_sameLine ⟨by simp, by simp⟩ places_takeOverrun accounts_takeOverrun (serials_of_run (serialRun_takeOverrun s))

theorem queuesKept_takeSilence (s : State) : QueuesKept s (takeSilence s) := by
  refine .of_sameLine ⟨by simp, by simp⟩ places_takeSilence accounts_takeSilence (serials_of_run ?_)
  unfold takeSilence
  split
  · rfl
  · exact serialRun_cutOpenEvent _ s

theorem serialRun_takeTickResult (r : TickResult) (s : State) : serialRun (takeTickResult r s) = serialRun s := by
  have queue : (takeTickResult r s).queue.map EventRecord.serial = s.queue.map EventRecord.serial := by
    have begun (k : CloseReason) (t : Nat) (d : Detector) :
        (beginClose k t true (s.setDet d)).queue.map EventRecord.serial = s.queue.map EventRecord.serial :=
      List.append_inj_left' (serialRun_beginClose k t true (s.setDet d)) rfl
    unfold takeTickResult
    dsimp only
    split
    · rfl
    · rfl
    · unfold tickInDeclared
      dsimp only
      split
      · exact begun _ _ _
      · split
        · exact begun _ _ _
        · rfl
    · rfl
    · rfl
  rw [serialRun, serialRun, queue, takeTickResult_serial]

theorem queuesKept_deliver (r : TickResult) (s : State) : QueuesKept s (deliver r s) := by
  refine .trans (t := s.setScan _) (SameQueues.kept ?_) (.of_sameLine ⟨by simp, by simp⟩ (places_takeTickResult r)
    (accounts_takeTickResult r) (serials_of_run (serialRun_takeTickResult r _)))
  constructor <;> simp

theorem queuesKept_retest (s : State) : QueuesKept s (retest s) := by
  refine .of_sameLine ⟨by simp, by simp⟩ places_retest accounts_retest (serials_of_run ?_)
  obtain same | ⟨x, y, _, _, _, _, jumps⟩ := retest_cases s
  · rw [same]
  · rw [jumps]
    have flagged (u : State) : serialRun (setFlag .scanOverrun u) = serialRun u := by simp [serialRun]
    exact (flagged _).trans (serialRun_takeOverrun _)

end Sys2Proof.Machine

namespace Sys2Proof.Machine

/-! ### The boundary of a tick, and the end of a close -/

theorem Detector.stop_closing (d : Detector) : d.stop.closing = d.closing := by
  unfold Detector.stop
  split <;> rfl

theorem Detector.clear_closing (d : Detector) : d.clear.closing = d.closing := by
  unfold Detector.clear
  cases d.state <;> rfl

theorem Detector.clear_serial (d : Detector) : d.clear.serial = d.serial := by
  unfold Detector.clear
  cases d.state <;> rfl

theorem queuesKept_applyLaneChange (x : LaneChange) (s : State) : QueuesKept s (applyLaneChange x s) := by
  have changed : QueuesKept s (setFlag .laneChange (changeIncluded x s)) := by
    unfold changeIncluded
    split
    · exact SameQueues.kept (by constructor <;> simp)
    · exact SameQueues.kept (by constructor <;> simp)
  exact changed.trans (queuesKept_waitTestFor x.lane _)

theorem queuesKept_boundaryBegun (s : State) : QueuesKept s (boundaryBegun s) := by
  refine SameQueues.kept ⟨by simp, by simp, by simp, ?_, ?_, by simp, by simp⟩
  · rw [boundaryBegun_det]
    split
    · exact s.det.stop_closing
    · rfl
  · rw [boundaryBegun_det]
    split
    · exact stop_serial s.det
    · rfl

theorem queuesKept_tickBoundary (s : State) : QueuesKept s (tickBoundary s) := by
  have applied : QueuesKept (boundaryBegun s) (applyWaitingChange (boundaryBegun s)) := by
    unfold applyWaitingChange
    split
    · exact (queuesKept_applyLaneChange _ _).trans (queuesKept_answer _ _ _)
    · exact .refl _
  rw [tickBoundary_eq]
  exact ((queuesKept_boundaryBegun s).trans applied).trans (queuesKept_retest _)

theorem queuesKept_tickResultDelivery (s : State) : QueuesKept s (tickResultDelivery s) := by
  unfold tickResultDelivery
  split
  · exact .refl s
  · split
    · exact .refl s
    · dsimp only
      split
      · exact queuesKept_deliver _ s
      · exact (queuesKept_deliver _ s).trans (queuesKept_tickBoundary _)

theorem queuesKept_clearScanEffect (s : State) : QueuesKept s (clearScanEffect s) := by
  unfold clearScanEffect
  split
  · exact SameQueues.kept ⟨by simp, by simp, by simp, by simp [Detector.clear_closing], by simp [Detector.clear_serial],
      by simp, by simp⟩
  · exact .refl s

theorem queuesKept_planRead (m : Maximum) (lane : Nat) (s : State) : QueuesKept s (planRead m lane s).2 := by
  unfold planRead
  dsimp only
  split
  · exact queuesKept_takeFault _ _ s
  · split
    · exact .refl s
    · split
      · exact .refl s
      · exact .refl s
      · exact queuesKept_takeFault _ _ s

theorem queuesKept_walkPlan (m : Maximum) (cap : CaptureParams) (ps : List (Nat × Nat)) (n : Nat) (s : State) :
    QueuesKept s (walkPlan m cap ps n s).2 := by
  induction ps generalizing n s with
  | nil => exact .refl s
  | cons p ps ih =>
    unfold walkPlan
    split
    · exact .refl s
    · have first := queuesKept_planRead m p.1 s
      rcases read : planRead m p.1 s with ⟨_ | d, t⟩ <;> rw [read] at first
      · dsimp only
        split
        · exact first
        · exact first.trans (ih n t)
      · exact first.trans (ih (n - 1) t)

theorem queuesKept_makePlan (c : Closing) (m : Maximum) (s : State) : QueuesKept s (makePlan c m s).2 := by
  unfold makePlan
  split
  · exact .refl s
  · exact queuesKept_walkPlan ..

/-- A close that completes takes the place it has reserved (R106). -/
theorem queuesKept_completeClose (c : Closing) (run : Running) {s : State} (reserved : s.det.closing.isSome = true) :
    QueuesKept s (completeClose c run s) := by
  have planned := queuesKept_makePlan c run.maximum s
  refine ⟨fun h => ?_, fun h => ?_, places_completeClose c run reserved, accounts_completeClose c run,
    serials_appendClosed c run _ ∘ planned.serials⟩
  · rw [completeClose, appendClosed_line]
    exact planned.line h
  · rw [completeClose, appendClosed_cmd]
    exact planned.held h

theorem queuesKept_closeCompletion (s : State) : QueuesKept s (closeCompletion s) := by
  have kept (c : Closing) (u : State) : QueuesKept u (keptOverrun c u) := by
    unfold keptOverrun
    split
    · exact queuesKept_takeOverrun u
    · exact .refl u
  have after (boundary : Bool) (u : State) : QueuesKept u (afterCompletion boundary u) := by
    unfold afterCompletion
    split
    · split
      · exact queuesKept_answer _ _ u
      · exact (queuesKept_clearScanEffect u).trans (queuesKept_answer _ _ _)
    · split
      · exact queuesKept_tickBoundary u
      · exact .refl u
  unfold closeCompletion
  split
  · rename_i c run closing _
    exact ((queuesKept_completeClose c run (by rw [closing]; rfl)).trans (kept c _)).trans (after _ _)
  · exact .refl s

/-! ### The tick scan, copies and streams -/

theorem queuesKept_updateTick (f : TickScan → TickScan) (s : State) : QueuesKept s (updateTick f s) :=
  SameQueues.kept (by constructor <;> simp)

theorem queuesKept_stackLanes (bank : BankId) (v t : Nat) (c : List (Nat × Nat)) (k : Stack) (s : State) :
    QueuesKept s (stackLanes bank v t c k s).2 := by
  have met (lane u : Nat) (s : State) : QueuesKept s (meetTrackParity lane u s) := by
    unfold meetTrackParity
    split
    · exact .refl s
    · exact (queuesKept_updateTick _ s).trans (queuesKept_takeFault _ _ _)
  induction c generalizing k s with
  | nil => exact .refl s
  | cons p rest ih =>
    obtain ⟨lane, w⟩ := p
    unfold stackLanes
    dsimp only
    split
    · exact queuesKept_takeFault _ _ s
    · split
      · exact ih k s
      · split
        · exact ih _ s
        · exact ih k s
        · split
          · exact met _ _ s
          · exact (met _ _ s).trans (ih _ _)

theorem queuesKept_voxelEvaluation (s : State) : QueuesKept s (voxelEvaluation s) := by
  have next (u : State) : QueuesKept u (nextVoxel u) := queuesKept_updateTick _ u
  have taken (n : Bool) (x : Option Stack) (u : State) : QueuesKept u (takeVoxel n x u) :=
    SameQueues.kept (by constructor <;> simp)
  unfold voxelEvaluation
  split
  · exact .refl s
  · split
    · unfold evaluateVoxel
      dsimp only
      split
      · exact (queuesKept_takeFault _ _ s).trans (next _)
      · split
        · exact next s
        · exact ((queuesKept_stackLanes _ _ _ _ _ s).trans (taken _ _ _)).trans (next _)
    · exact .refl s

theorem queuesKept_copyWords (lane n i w : Nat) (p : CopyProgress) :
    QueuesKept p.state (copyWords lane n i w p).state := by
  have written (w : Nat) (x : Sample) (u : State) : QueuesKept u (writeStore w x u) :=
    SameQueues.kept (by constructor <;> simp [writeStore, SnippetStore.writeWord])
  have failed (i : Nat) (u : State) : QueuesKept u (copyEccFailure lane i u) := by
    unfold copyEccFailure
    split
    · exact .refl u
    · split
      · exact .refl u
      · exact .trans (t := u.setCapture _) (SameQueues.kept (by constructor <;> simp)) (queuesKept_takeFault _ _ _)
  have copied (i w : Nat) (p : CopyProgress) : QueuesKept p.state (copyWord lane i w p).state := by
    unfold copyWord
    split
    iterate 4 · exact written _ _ _
    · exact (written _ _ _).trans (failed _ _)
  induction n generalizing i w p with
  | zero => exact .refl _
  | succ n ih =>
    unfold copyWords
    dsimp only
    split
    · exact copied i w p
    · exact (copied i w p).trans (ih _ _ _)

theorem queuesKept_updateCapturing (f : EventRecord → EventRecord) (serial : ∀ r, (f r).serial = r.serial)
    (extent : ∀ r, r.isCapturing = true → (f r).extent = r.extent) (s : State) : QueuesKept s (updateCapturing f s) :=
  .of_sameLine ⟨by simp, by simp⟩ (places_same (by simp) (by simp)) (accounts_updateCapturing f extent)
    (serials_of_run (by simp [serialRun, updateCapturing, serials_modifyFirst _ f serial]))

theorem queuesKept_endCapture (e : Bool) (s : State) : QueuesKept s (endCapture e s) := by
  refine .of_sameLine ⟨by simp, by simp⟩ (places_same (by simp) (by simp)) (accounts_endCapture e)
    (serials_of_run ((serialRun_waitTest _).trans ?_))
  exact congrArg (· ++ [s.det.serial])
    (serials_modifyFirst EventRecord.isCapturing (fun r => { r with status := r.outcome e }) (fun _ => rfl) s.queue)

theorem queuesKept_copyStep (s : State) : QueuesKept s (copyStep s) := by
  unfold copyStep
  split
  · split
    · exact .refl s
    · rename_i e _
      have copied := queuesKept_copyWords e.lane e.count e.start (e.extentOffset.getD 0)
        { state := s, omitStart := 0, omitEnd := 0 }
      have noted (k x y : Nat) (u : State) : QueuesKept u (updateCapturing (EventRecord.setOmits k x y) u) :=
        queuesKept_updateCapturing (EventRecord.setOmits k x y) (fun _ => rfl) (fun r _ => extent_setOmits k x y r) u
      have stepped (x : CaptureUnit) (u : State) : QueuesKept u (u.setCapture x) := SameQueues.kept (by constructor <;> simp)
      dsimp only
      split
      · exact copied
      · split
        · exact (copied.trans (noted _ _ _ _)).trans (stepped _ _)
        · exact (copied.trans (noted _ _ _ _)).trans (queuesKept_endCapture _ _)
  · exact .refl s

theorem queuesKept_readWords (n w : Nat) (st : Stream) (s : State) : QueuesKept s (readWords n w st s).2.2 := by
  have met (w : Nat) (st : Stream) (s : State) : QueuesKept s (meetStoreFailure w st s).2 := by
    unfold meetStoreFailure
    dsimp only
    split
    · exact SameQueues.kept (by constructor <;> simp)
    · split
      · exact .refl s
      · exact queuesKept_takeFault _ _ s
  induction n generalizing w st s with
  | zero => exact .refl s
  | succ n ih =>
    unfold readWords
    dsimp only
    split
    · exact ih _ _ s
    · exact (met _ _ _).trans (ih _ _ _)

end Sys2Proof.Machine

namespace Sys2Proof.Machine

/-! ### The rows of the line -/

theorem queuesKept_setLine {s : State} {l : Line} (bounds : LineBounded s.line → LineBounded l) :
    QueuesKept s (s.setLine l) :=
  SameEvents.kept (by constructor <;> rfl) bounds id

/-- The line changes in none of its three queues, nor in the count of forwarded frames. -/
theorem queuesKept_setLine_same {s : State} {l : Line}
    (same : (l.fwd, l.up, l.own, l.sinceOwn) = (s.line.fwd, s.line.up, s.line.own, s.line.sinceOwn)) :
    QueuesKept s (s.setLine l) := by
  obtain ⟨fwd, up, own, run⟩ := by simpa only [Prod.mk.injEq] using same
  exact queuesKept_setLine fun h => ⟨fwd ▸ h.forwarding, up ▸ h.upward, own ▸ h.own, run ▸ h.run⟩

theorem queuesKept_setFlagIf (c : Bool) (f : Flag) (s : State) : QueuesKept s (setFlagIf c f s) :=
  SameQueues.kept (by constructor <;> simp)

theorem queuesKept_setNotice (n : NoticeUnit) (s : State) : QueuesKept s (s.setNotice n) :=
  SameQueues.kept (by constructor <;> rfl)

theorem queuesKept_stopWaiting (p : Producer) (s : State) : QueuesKept s (stopWaiting p s) := queuesKept_setLine_same rfl

theorem queuesKept_cancelIfEmpty (s : State) : QueuesKept s (cancelIfEmpty s) := by
  unfold cancelIfEmpty
  split
  · exact (queuesKept_setNotice _ s).trans (queuesKept_stopWaiting _ _)
  · exact .refl s

theorem queuesKept_addressBecameValid (s : State) : QueuesKept s (addressBecameValid s) := by
  unfold addressBecameValid
  split
  · exact queuesKept_cancelIfEmpty s
  · exact .refl s

/-- The frame that the upstream transmitter takes leaves a place free (R151). -/
theorem bounded_sendUp {l : Line} (h : LineBounded l) : LineBounded l.sendUp := by
  unfold Line.sendUp
  split
  · rename_i g rest _ up
    have shorter : rest.length ≤ l.up.length := by rw [up]; exact Nat.le_succ _
    exact ⟨h.forwarding, shorter.trans h.upward, h.own, h.run⟩
  · exact h

theorem queuesKept_routeUp (f : Bytes) (s : State) : QueuesKept s (routeUp f s) := by
  have placed (l : Line) (h : LineBounded l) : LineBounded (l.upward f) := by
    unfold Line.upward
    split
    · rename_i room
      exact ⟨h.forwarding, by rw [List.length_append]; exact room, h.own, h.run⟩
    · exact ⟨h.forwarding, h.upward, h.own, h.run⟩
  exact queuesKept_setLine fun h => bounded_sendUp (placed _ h)

theorem queuesKept_takeCommand (c : Held) (s : State) : QueuesKept s (takeCommand c s) := by
  unfold takeCommand
  split
  · exact queuesKept_setLine_same rfl
  · rename_i room
    simp only [Bool.or_eq_true, decide_eq_true_eq, not_or, Nat.not_le] at room
    exact SameEvents.kept (by constructor <;> rfl) id fun _ => by
      rw [State.cmd_setCmd, List.length_append]
      exact room.2

theorem queuesKept_placeAnswer (f : Bytes) (s : State) : QueuesKept s (placeAnswer f s) := by
  unfold placeAnswer
  split
  · exact queuesKept_setLine_same rfl
  · split
    · rename_i places
      exact queuesKept_setLine fun h => bounded_own f _ _ h (mayPlace_room places)
    · exact queuesKept_setLine_same rfl

theorem queuesKept_rollcallSet (hop : Nat) (s : State) : QueuesKept s (rollcallSet hop s) := by
  have addressed (c : Bool) : QueuesKept s (setFlagIf c .address (s.setLine (s.line.rollcallAddress hop))) := by
    refine .trans (queuesKept_setLine_same ?_) (queuesKept_setFlagIf _ _ _)
    unfold Line.rollcallAddress
    split
    · rfl
    · split <;> rfl
  unfold rollcallSet
  dsimp only
  split
  · exact (addressed _).trans (queuesKept_stopWaiting _ _)
  · split
    · exact (addressed _).trans (queuesKept_addressBecameValid _)
    · exact addressed _

theorem queuesKept_routeDownstream (f : Bytes) (s : State) : QueuesKept s (routeDownstream f s) := by
  have counted (p : PortCounters) : QueuesKept s (s.setLine { s.line with dnPort := p }) := queuesKept_setLine_same rfl
  unfold routeDownstream
  split
  · exact ((queuesKept_rollcallSet _ s).trans (queuesKept_placeAnswer _ _)).trans (queuesKept_routeUp _ _)
  · split
    · split
      · exact (counted _).trans (queuesKept_routeUp f _)
      · split
        · exact (queuesKept_takeCommand _ s).trans (queuesKept_routeUp f _)
        · split
          · exact queuesKept_takeCommand _ s
          · exact queuesKept_routeUp f s
    · exact queuesKept_routeUp f s

theorem queuesKept_downstreamFrame (f : Bytes) (s : State) : QueuesKept s (downstreamFrame f s) := by
  have counted (p : PortCounters) : QueuesKept s (s.setLine { s.line with dnPort := p }) := queuesKept_setLine_same rfl
  unfold downstreamFrame
  dsimp only
  split
  · exact (counted _).trans (queuesKept_routeDownstream f _)
  · exact counted _

theorem queuesKept_upstreamFrame (f : Bytes) (s : State) : QueuesKept s (upstreamFrame f s) := by
  have handed (u : State) : QueuesKept u (handSample f u) := SameQueues.kept (by constructor <;> simp)
  have joined (u : State) : QueuesKept u (u.setLine (u.line.forwardFrame f)) := by
    unfold Line.forwardFrame
    split
    · rename_i room
      exact queuesKept_setLine fun h => ⟨by rw [List.length_append]; exact room, h.upward, h.own, h.run⟩
    · exact queuesKept_setLine_same rfl
  have counted (p : PortCounters) : QueuesKept s (s.setLine { s.line with upPort := p }) := queuesKept_setLine_same rfl
  unfold upstreamFrame
  dsimp only
  split
  · exact ((counted _).trans (joined _)).trans (handed _)
  · exact counted _

theorem queuesKept_downstreamSent (s : State) : QueuesKept s (s.setLine s.line.downstreamSent) := by
  unfold Line.downstreamSent
  split
  · exact queuesKept_setLine_same rfl
  · split <;> exact queuesKept_setLine_same rfl

theorem queuesKept_upstreamSent (s : State) : QueuesKept s (s.setLine s.line.upstreamSent.sendUp) := by
  have sent : LineBounded s.line → LineBounded s.line.upstreamSent := by
    unfold Line.upstreamSent
    split
    · exact id
    · exact fun h => ⟨h.forwarding, h.upward, h.own, h.run⟩
  exact queuesKept_setLine fun h => bounded_sendUp (sent h)

theorem queuesKept_placeNotice (s : State) : QueuesKept s (placeNotice s) := by
  unfold placeNotice
  split
  · split
    · rename_i places
      exact .trans (queuesKept_setLine fun h => bounded_own _ _ _ h (mayPlace_room places)) (queuesKept_setNotice _ _)
    · split
      · exact .refl s
      · exact queuesKept_setLine_same rfl
  · exact .refl s

theorem queuesKept_processFrame (s : State) : QueuesKept s (processFrame s) := by
  have taken (k : Tracker) (u : State) : QueuesKept u (u.setTracker k) := SameQueues.kept (by constructor <;> rfl)
  unfold processFrame
  split
  · exact .refl s
  · split
    · exact .refl s
    · dsimp only
      split
      · exact (taken _ s).trans (taken _ _)
      · exact (taken _ s).trans (queuesKept_setLine_same rfl)

theorem queuesKept_snippetFramePlaced (s : State) : QueuesKept s (snippetFramePlaced s) := by
  have placed (st : Stream) (e : PlanEntry) (w : Nat) (streams : s.cmd.executing = some (.streaming st))
      (room : s.line.own.length < Config.ownDepth) : QueuesKept s (placeSnippet st e w s) := by
    have built (f : Bytes) (x : Stream) (u : State) (own : u.line.own = s.line.own) : QueuesKept u
        ((stopWaiting .commandUnit (u.setLine { u.line with own := u.line.own ++ [f] })).setCmd
          { u.cmd with executing := some (.streaming x) }) :=
      SameEvents.kept (by constructor <;> rfl) (fun h => bounded_own f _ _ h (own ▸ room)) id
    have line := readWords_line (frameWords st e w) (e.extentOffset.getD 0 + w) st (streaming_endures streams)
    unfold placeSnippet streamReply
    dsimp only
    refine (queuesKept_readWords (frameWords st e w) (e.extentOffset.getD 0 + w) st s).trans ?_
    split
    · exact built _ _ _ (by rw [line])
    · exact (built _ _ _ (by rw [line])).trans (queuesKept_answer _ _ _)
  unfold snippetFramePlaced
  split
  · rename_i st _ _ streams _
    split
    · exact .refl s
    · split
      · rename_i places
        exact placed _ _ _ streams (mayPlace_room places)
      · unfold streamWaits
        split
        · exact .refl s
        · exact queuesKept_setLine_same rfl
  · exact .refl s

/-! ### The rows that are no engine command -/

theorem queuesKept_acceptedBlock (lane : Nat) (s : State) : QueuesKept s (acceptedBlock lane s) := by
  have accepted (lane : Nat) (k : Block) (l : Lane) (u : State) : QueuesKept u (acceptBlock lane k l u) := by
    have stored (o : BlockResult) : QueuesKept u (storeBlock lane k o u) :=
      SameQueues.kept (by constructor <;> simp [storeBlock])
    rw [acceptBlock_eq]
    exact (((stored _).trans (queuesKept_setFlagIf _ _ _)).trans (queuesKept_retest _)).trans (queuesKept_waitTestFor _ _)
  unfold acceptedBlock
  split
  · exact .refl s
  · split
    · exact .refl s
    · rename_i k rest _
      refine QueuesKept.trans (t := s.setTracker { s.tracker with blocks := rest })
        (SameQueues.kept (by constructor <;> simp)) ?_
      unfold takeBlock
      split
      · exact .refl _
      · split
        · exact .refl _
        · split
          · exact SameQueues.kept (by constructor <;> simp)
          · exact accepted _ _ _ _

theorem queuesKept_laneTimerExpiry (lane : Nat) (s : State) : QueuesKept s (laneTimerExpiry lane s) := by
  unfold laneTimerExpiry
  split
  · exact .refl s
  · split
    · exact .refl s
    · split
      · exact .refl s
      · rename_i e _
        have lost (f : Lane → Lane) : QueuesKept s (updateLane lane f (s.setNow (max s.now e))) :=
          SameQueues.kept (by constructor <;> simp)
        exact (((lost _).trans (queuesKept_setFlagIf _ _ _)).trans (queuesKept_retest _)).trans (queuesKept_waitTestFor _ _)

theorem queuesKept_lineSilenceExpiry (s : State) : QueuesKept s (lineSilenceExpiry s) := by
  unfold lineSilenceExpiry
  split
  · exact .refl s
  · split
    · exact .refl s
    · exact .trans (SameQueues.kept (by constructor <;> simp)) (queuesKept_takeSilence _)

theorem queuesKept_waitTimerExpiry (s : State) : QueuesKept s (waitTimerExpiry s) := by
  unfold waitTimerExpiry
  split
  · exact .refl s
  · split
    · exact .refl s
    · exact .trans (SameQueues.kept (by constructor <;> simp)) (queuesKept_waitTest _)

theorem queuesKept_tickScanBegin (s : State) : QueuesKept s (tickScanBegin s) := by
  unfold tickScanBegin
  split
  · split
    · exact SameQueues.kept (by constructor <;> rfl)
    · exact .refl s
  · exact .refl s

theorem queuesKept_ended (s : State) : QueuesKept s (s.setCmd { s.cmd with executing := none }) :=
  SameQueues.kept (by constructor <;> rfl)

theorem queuesKept_endOfValidation (s : State) : QueuesKept s (endOfValidation s) := by
  have ended := queuesKept_ended s
  unfold endOfValidation
  split
  · unfold endValidation
    dsimp only
    split
    · exact ended.trans (queuesKept_answer _ _ _)
    · exact (ended.trans (queuesKept_takeFault _ _ _)).trans (queuesKept_answer _ _ _)
    · split
      · exact .trans (SameQueues.kept (by constructor <;> simp)) (queuesKept_answer _ _ _)
      · exact ended.trans (queuesKept_answer _ _ _)
  · exact .refl s

theorem queuesKept_hotStartCompletion (s : State) : QueuesKept s (hotStartCompletion s) := by
  unfold hotStartCompletion
  split
  · exact (queuesKept_ended s).trans (queuesKept_answer _ _ _)
  · exact .refl s

/-- Every row that is no engine command keeps the three. -/
theorem queuesKept_eventBody (i : Instr) (s : State) : QueuesKept s (eventBody i s) := by
  cases i with
  | upstreamFrameReceived f => exact queuesKept_upstreamFrame f s
  | sampleFrameProcessing => exact queuesKept_processFrame s
  | acceptedBlock lane => exact queuesKept_acceptedBlock lane s
  | laneTimerExpiry lane => exact queuesKept_laneTimerExpiry lane s
  | lineSilenceExpiry => exact queuesKept_lineSilenceExpiry s
  | downstreamFrameReceived f => exact queuesKept_downstreamFrame f s
  | holdReceived | holdReleaseReceived => exact queuesKept_setLine_same rfl
  | downstreamTransmitEnd => exact queuesKept_downstreamSent s
  | upstreamTransmitEnd => exact queuesKept_upstreamSent s
  | noticeFrame => exact queuesKept_placeNotice s
  | endOfValidation => exact queuesKept_endOfValidation s
  | snippetFramePlaced => exact queuesKept_snippetFramePlaced s
  | hotStartCompletion => exact queuesKept_hotStartCompletion s
  | tickScanBegin => exact queuesKept_tickScanBegin s
  | voxelEvaluation => exact queuesKept_voxelEvaluation s
  | tickResultDelivery => exact queuesKept_tickResultDelivery s
  | closeCompletion => exact queuesKept_closeCompletion s
  | waitTimerExpiry => exact queuesKept_waitTimerExpiry s
  | copyStep => exact queuesKept_copyStep s
  | _ => exact .refl s

end Sys2Proof.Machine

namespace Sys2Proof.Machine

/-! ### The engine commands -/

theorem queuesKept_withBank {body : BankId → State → State} (c : Held) {s : State}
    (hb : ∀ bank, QueuesKept s (body bank s)) : QueuesKept s (withBank body c s) := by
  unfold withBank
  split
  · exact queuesKept_answer _ _ s
  · exact hb _

theorem queuesKept_setAddress (c : Held) (s : State) : QueuesKept s (setAddress c s) := by
  have addressed (m : AddressMode) (a : Nat) (v : Bool) :
      QueuesKept s (s.setLine { s.line with mode := m, address := a, addressValid := v }) := queuesKept_setLine_same rfl
  unfold setAddress
  split
  · exact queuesKept_answer _ _ s
  · exact (addressed _ _ _).trans (queuesKept_answer _ _ _)
  · split
    · refine .trans ?_ (queuesKept_answer _ _ _)
      split
      · exact addressed _ _ _
      · exact (addressed _ _ _).trans (queuesKept_addressBecameValid _)
    · exact queuesKept_answer _ _ s

theorem queuesKept_setParameters (c : Held) (s : State) : QueuesKept s (setParameters c s) := by
  have changed (p : Params) (rate tick : Bool) : QueuesKept s (changeEffects rate tick (s.setParams p)) :=
    SameQueues.kept (by constructor <;> simp)
  unfold setParameters
  dsimp only
  split
  · exact queuesKept_answer _ _ s
  · refine .trans ?_ (queuesKept_answer _ _ _)
    split
    · exact (changed _ _ _).trans (queuesKept_waitTest _)
    · exact changed _ _ _

theorem queuesKept_loadLaneMap (c : Held) (s : State) : QueuesKept s (loadLaneMap c s) := by
  unfold loadLaneMap
  dsimp only
  split
  · exact queuesKept_answer _ _ s
  · split
    · refine .trans (QueuesKept.trans (t := replaceMap (mapEntries c) s) ?_ (queuesKept_waitTest _)) (queuesKept_answer _ _ _)
      exact SameQueues.kept (by constructor <;> simp)
    · exact queuesKept_answer _ _ s

theorem queuesKept_setLane (c : Held) (s : State) : QueuesKept s (setLane c s) := by
  unfold setLane
  dsimp only
  split
  · exact queuesKept_answer _ _ s
  · split
    · exact queuesKept_answer _ _ s
    · split
      · exact .trans (SameQueues.kept (by constructor <;> simp)) (queuesKept_answer _ _ _)
      · split
        · exact SameQueues.kept (by constructor <;> rfl)
        · exact ((queuesKept_applyLaneChange _ s).trans (queuesKept_answer _ _ _)).trans (queuesKept_retest _)

theorem queuesKept_switchBank (c : Held) (s : State) : QueuesKept s (switchBank c s) := by
  have banks (k : Banks) (x : ReplyCode) : QueuesKept s (answer x [] (s.setBanks k)) :=
    .trans (SameQueues.kept (by constructor <;> rfl)) (queuesKept_answer _ _ _)
  refine queuesKept_withBank c fun bank => ?_
  split
  · unfold switchAtOnce
    split
    · exact banks _ _
    all_goals exact queuesKept_answer _ _ s
  · unfold switchPending
    split
    · exact banks _ _
    · exact banks _ _
    all_goals exact queuesKept_answer _ _ s

theorem queuesKept_startScan (c : Held) (s : State) : QueuesKept s (startScan c s) := by
  have started (k : Scan) (x : Bytes) : QueuesKept s (answer .ok x (s.setScan k)) :=
    .trans (SameQueues.kept (by constructor <;> rfl)) (queuesKept_answer _ _ _)
  unfold startScan
  split
  · exact queuesKept_answer _ _ s
  · split
    · exact queuesKept_answer _ _ s
    · split
      · split
        · exact (started _ _).trans (queuesKept_retest _)
        · exact queuesKept_answer _ _ s
      · exact queuesKept_answer _ _ s

/-- RELEASE EVENT takes the head's place, extent and serial out (R110, R124, R139). -/
theorem queuesKept_removeHead (s : State) : QueuesKept s (removeHead s) := by
  refine .of_sameLine ⟨by simp, by simp⟩ (fun h => ?_) accounts_removeHead (fun h => ?_)
  · unfold removeHead
    split
    · exact h
    · rename_i r rest queue
      have closing : ((s.setQueue rest).setStore { s.store with freeWords := s.store.freeWords + r.extent }).det = s.det := rfl
      simp only [placesUsed, queue, List.length_cons] at h
      simp only [placesUsed, closing, State.queue_setStore, State.queue_setQueue]
      omega
  · unfold removeHead
    split
    · exact h
    · rename_i r rest queue
      unfold SerialsFollow at h ⊢
      rw [queue] at h
      exact h.tail

theorem queuesKept_releaseEvent (c : Held) (s : State) : QueuesKept s (releaseEvent c s) := by
  unfold releaseEvent
  split
  · exact queuesKept_answer _ _ s
  · split
    · exact queuesKept_answer _ _ s
    · split
      · exact queuesKept_answer _ _ s
      · exact (queuesKept_removeHead s).trans (queuesKept_answer _ _ _)

/-- With no record held, the whole Snippet Store is free (R122). -/
theorem accounts_of_empty {s : State} (queue : s.queue = []) (words : Memory StoreWord)
    (store : s.store = SnippetStore.empty words) : StoreAccounts s :=
  ⟨by rw [queue, store]; rfl, by rw [store]; exact Nat.zero_lt_succ _⟩

/-- A hot start empties the queues, and frees the whole Snippet Store; the serial counter stays (R178). -/
theorem queuesKept_hotStart (c : Held) (s : State) : QueuesKept s (hotStart c s) := by
  refine ⟨fun _ => ?_, fun _ => ?_, fun _ => ?_, fun _ => ?_, fun _ => ?_⟩
  · constructor <;> exact Nat.zero_le _
  · exact show 1 ≤ 4 by decide
  · exact Nat.zero_le _
  · exact accounts_of_empty rfl _ rfl
  · exact .singleton _

/-- Every engine command's own handling keeps the three. -/
theorem queuesKept_commandBody (i : Instr) (c : Held) (s : State) : QueuesKept s (commandBody i c s) := by
  have replied (k : ReplyCode) (x : Bytes) {t : State} (h : SameQueues s t) : QueuesKept s (answer k x t) :=
    h.kept.trans (queuesKept_answer k x t)
  cases i with
  | setAddress => exact queuesKept_setAddress c s
  | readPortCounters =>
    refine .trans ?_ (queuesKept_answer _ _ _)
    split
    · exact queuesKept_setLine_same rfl
    · exact .refl s
  | readStatus | readParameters | readNotices | readFault => exact queuesKept_answer _ _ s
  | setParameters => exact queuesKept_setParameters c s
  | loadLaneMap => exact queuesKept_loadLaneMap c s
  | setLane => exact queuesKept_setLane c s
  | readLane =>
    show QueuesKept s (readLane c s)
    unfold readLane
    dsimp only
    split
    · exact queuesKept_answer _ _ s
    · split
      · exact queuesKept_answer _ _ s
      · refine replied _ _ ?_
        split <;> constructor <;> simp
  | readLaneChanges => exact replied _ _ (by constructor <;> simp)
  | beginBankLoad =>
    show QueuesKept s (beginBankLoad c s)
    refine queuesKept_withBank c fun bank => ?_
    dsimp only
    split_ifs
    iterate 3 · exact queuesKept_answer _ _ s
    · exact replied _ _ (by constructor <;> simp)
  | loadRows =>
    show QueuesKept s (loadRows c s)
    refine queuesKept_withBank c fun bank => ?_
    dsimp only
    split_ifs
    iterate 3 · exact queuesKept_answer _ _ s
    · exact replied _ _ (by constructor <;> simp)
  | endBankLoad =>
    show QueuesKept s (endBankLoad c s)
    refine queuesKept_withBank c fun bank => ?_
    dsimp only
    split
    · exact SameQueues.kept (by constructor <;> rfl)
    · exact queuesKept_answer _ _ s
  | switchBank => exact queuesKept_switchBank c s
  | readBank => exact queuesKept_withBank c fun _ => queuesKept_answer _ _ s
  | readRow =>
    show QueuesKept s (readRow c s)
    refine queuesKept_withBank c fun bank => ?_
    dsimp only
    split_ifs
    iterate 2 · exact queuesKept_answer _ _ s
    · split <;> exact queuesKept_answer _ _ s
  | startScan => exact queuesKept_startScan c s
  | haltScan =>
    show QueuesKept s (haltScan c s)
    unfold haltScan
    split
    · exact replied _ _ (by constructor <;> rfl)
    all_goals exact queuesKept_answer _ _ s
  | clearScan =>
    show QueuesKept s (clearScan c s)
    unfold clearScan
    split
    · exact SameQueues.kept (by constructor <;> rfl)
    · exact (queuesKept_clearScanEffect s).trans (queuesKept_answer _ _ _)
  | readScan =>
    refine replied _ _ ?_
    split <;> constructor <;> rfl
  | readDetector =>
    refine replied _ _ ?_
    split <;> constructor <;> rfl
  | fetchEvent =>
    show QueuesKept s (fetchEvent c s)
    unfold fetchEvent
    dsimp only
    split
    · exact queuesKept_answer _ _ s
    · split <;> exact queuesKept_answer _ _ s
  | readSnippet =>
    show QueuesKept s (readSnippet c s)
    unfold readSnippet
    dsimp only
    split
    · exact queuesKept_answer _ _ s
    · split_ifs
      iterate 4 · exact queuesKept_answer _ _ s
      · exact SameQueues.kept (by constructor <;> rfl)
  | releaseEvent => exact queuesKept_releaseEvent c s
  | clearNotices =>
    exact ((queuesKept_setNotice _ s).trans (queuesKept_cancelIfEmpty _)).trans (queuesKept_answer _ _ _)
  | setNoticeMask =>
    exact ((queuesKept_setNotice _ s).trans (queuesKept_cancelIfEmpty _)).trans (queuesKept_answer _ _ _)
  | clearFault =>
    show QueuesKept s (clearFault c s)
    unfold clearFault
    split
    · exact queuesKept_answer _ _ s
    · exact (queuesKept_setNotice _ s).trans (queuesKept_answer _ _ _)
  | restart => exact queuesKept_hotStart c s
  | _ => exact .refl s

/-! ### A whole step -/

/-- A cold start leaves every queue empty, and the Snippet Store free (R177). -/
theorem queuesKept_coldStart (cause : ColdCause) (s : State) : QueuesKept s (coldStart cause s) := by
  refine ⟨fun _ => ?_, fun _ => Nat.zero_le _, fun _ => Nat.zero_le _, fun _ => ?_, fun _ => .singleton _⟩
  · constructor <;> exact Nat.zero_le _
  · exact accounts_of_empty rfl _ rfl

theorem queuesKept_exec {i : Instr} {s t : State} (h : exec i s = .next t) : QueuesKept s t :=
  exec_keeps (P := QueuesKept s) (fun u hu => hu.trans (queuesKept_settleLine u)) (fun k x => queuesKept_answer k x s)
    (.refl s) (queuesKept_eventBody i s) (fun c _ _ _ _ => queuesKept_commandBody i c s)
    (fun cause _ => queuesKept_coldStart cause s) (fun _ => SameQueues.kept (by constructor <;> rfl)) h

theorem queuesKept_step {s t : State} (h : step s = .next t) : QueuesKept s t := by
  unfold step at h
  split at h
  · injection h with h
    subst h
    exact SameQueues.kept (by unfold passMillisecond; split <;> constructor <;> rfl)
  · exact .trans (SameQueues.kept (by constructor <;> rfl)) (queuesKept_exec h)

/-- Settles O55: each row keeps the depths, the account and the serials by the shared operations it is made of. -/
theorem queuesAndStoreStayRight : Obligations.QueuesAndStoreStayRight := by
  intro s t h
  have kept := queuesKept_step h
  exact ⟨kept.bounded, kept.accounts, kept.serials⟩

end Sys2Proof.Machine

namespace Sys2Proof.Machine

/-! ## Frames: their tests, and those that the engine builds (R142, R143) -/

@[simp] theorem length_encNat (n v : Nat) : (encNat n v).length = n := by
  induction n generalizing v with
  | zero => rfl
  | succ n ih => simp [encNat, ih]

theorem decNat_append_byte (bs : Bytes) (b : Byte) : decNat (bs ++ [b]) = decNat bs * 256 + b.toNat := by
  simp [decNat]

/-- The bytes of a field give its number back, less what is above their bits (7.6). -/
theorem decNat_encNat (n v : Nat) : decNat (encNat n v) = v % 256 ^ n := by
  induction n generalizing v with
  | zero => simp [encNat, decNat, Nat.mod_one]
  | succ n ih =>
    rw [encNat, decNat_append_byte, ih, BitVec.toNat_ofNat, pow_succ' 256 n, Nat.mod_mul]
    omega

theorem frameGood_iff (f : Bytes) : frameGood f = true ↔
    8 ≤ f.length ∧ f.length ≤ 1024 ∧ fieldAt f 2 2 = f.length ∧
      decNat (f.drop (f.length - 2)) = (crc16 (f.take (f.length - 2))).toNat := by
  simp only [frameGood, Bool.and_eq_true, decide_eq_true_eq, beq_iff_eq, and_assoc]

@[simp] theorem length_withTail (h : Bytes) : (withTail h).length = h.length + 2 := by simp [withTail]

/-- The last two bytes of a frame are the CRC of those before them (R142). -/
theorem withTail_crc (h : Bytes) : decNat ((withTail h).drop ((withTail h).length - 2))
    = (crc16 ((withTail h).take ((withTail h).length - 2))).toNat := by
  rw [length_withTail, Nat.add_sub_cancel, withTail, List.drop_left, List.take_left, decNat_encNat]
  exact Nat.mod_eq_of_lt (crc16 h).isLt

@[simp] theorem length_ownFrame (kind : Byte) (body : Bytes) : (ownFrame kind body).length = body.length + 6 := by
  simp [ownFrame]
  omega

theorem ownFrame_header (kind : Byte) (body : Bytes) : (ownFrame kind body).take 2 = [kind, 0] := rfl

/-- The length field of an own frame, between its header and its body (R143). -/
theorem ownFrame_lengthField (kind : Byte) (body : Bytes) (fits : body.length ≤ 1018) :
    fieldAt (ownFrame kind body) 2 2 = body.length + 6 := by
  have shape : (ownFrame kind body).drop 2 = encNat 2 (body.length + 6) ++
      (body ++ encNat 2 (crc16 (kind :: 0 :: (encNat 2 (body.length + 6) ++ body))).toNat) := by
    simp [ownFrame, withTail]
  rw [fieldAt, shape, List.take_left' (length_encNat _ _), decNat_encNat]
  omega

/-- An own frame passes the tests of a received one (R142, R143). -/
theorem frameGood_ownFrame {kind : Byte} {body : Bytes} (atLeast : 2 ≤ body.length) (fits : body.length ≤ 1018) :
    frameGood (ownFrame kind body) = true :=
  (frameGood_iff _).2 ⟨by rw [length_ownFrame]; omega, by rw [length_ownFrame]; omega,
    by rw [length_ownFrame, ownFrame_lengthField kind body fits], withTail_crc _⟩

/-- Settles O6: the tests are those of `frameGood_iff`, and an own frame passes them by its length field and its CRC. -/
theorem framesChecked : Obligations.FramesChecked :=
  ⟨frameGood_iff, fun kind body atLeast fits =>
    ⟨frameGood_ownFrame atLeast fits, ownFrame_header kind body, length_ownFrame kind body⟩⟩

end Sys2Proof.Machine

namespace Sys2Proof.Machine

/-! ## Frames at the two ports (R9, R142 to R147, R151, R179) -/

theorem exec_upstreamFrameReceived (f : Bytes) {s : State} (free : s.resetHeld = false) :
    exec (.upstreamFrameReceived f) s = .next (settleLine (upstreamFrame f s)) :=
  live_of_free (fun t => settleLine (upstreamFrame f t)) s free

theorem exec_downstreamFrameReceived (f : Bytes) {s : State} (free : s.resetHeld = false) :
    exec (.downstreamFrameReceived f) s = .next (settleLine (downstreamFrame f s)) :=
  live_of_free (fun t => settleLine (downstreamFrame f t)) s free

/-! ### The upstream port -/

/-- A good SAMPLE frame is handed over unless the engine is FROZEN or in a hot start (R9, R144, R179). -/
theorem handSample_eq (f : Bytes) (s : State) : handSample f s = s.setTracker
    { s.tracker with
      inbox := if byteAt f 0 = 0x10 ∧ s.notice.frozen = false ∧ s.cmd.executing ≠ some .hotStart
        then s.tracker.inbox ++ [f] else s.tracker.inbox } := by
  have taken : (byteAt f 0 = kindSample && !s.notice.frozen && !hotStarting s) = true ↔
      byteAt f 0 = 0x10 ∧ s.notice.frozen = false ∧ s.cmd.executing ≠ some .hotStart := by
    simp only [hotStarting, Bool.and_eq_true, decide_eq_true_eq, Bool.not_eq_true', beq_eq_false_iff_ne, and_assoc]
    exact Iff.rfl
  unfold handSample
  simp only [taken]
  split <;> rfl

/-- A frame joins the Forwarding Queue, or is counted in FWD_DROPS (R144). -/
theorem forwardFrame_eq (l : Line) (f : Bytes) : l.forwardFrame f =
    { l with fwd := if l.fwd.length < 64 then l.fwd ++ [f] else l.fwd
             upPort := { l.upPort with drops := if l.fwd.length < 64 then l.upPort.drops else satAdd l.upPort.drops 1 } } := by
  unfold Line.forwardFrame
  split <;> rfl

theorem upstreamFrame_of_bad {f : Bytes} {s : State} (bad : frameGood f = false) :
    upstreamFrame f s = s.setLine { s.line with upPort := s.line.upPort.received false } := by
  simp [upstreamFrame, bad]

theorem upstreamFrame_of_good {f : Bytes} {s : State} (good : frameGood f = true) :
    upstreamFrame f s = handSample f (s.setLine
      ({ s.line with upPort := s.line.upPort.received true }.forwardFrame f)) := by
  simp [upstreamFrame, good]

/-- Settles O7: a bad frame is only counted, and a good one is joined by `forwardFrame_eq` and handed over by
`handSample_eq`. -/
theorem upstreamFrameHandled : Obligations.UpstreamFrameHandled := by
  refine fun f s free => ⟨fun bad => ?_, fun good => ?_⟩
  · rw [exec_upstreamFrameReceived f free, upstreamFrame_of_bad bad]
    rfl
  · rw [exec_upstreamFrameReceived f free, upstreamFrame_of_good good, handSample_eq, forwardFrame_eq]
    rfl

/-! ### The downstream port -/

/-- The engine as a frame at the downstream port has been counted (R142). -/
def downCounted (good : Bool) (s : State) : State := s.setLine { s.line with dnPort := s.line.dnPort.received good }

theorem downstreamFrame_of_bad {f : Bytes} {s : State} (bad : frameGood f = false) :
    downstreamFrame f s = downCounted false s := by
  simp [downstreamFrame, bad, downCounted]

theorem downstreamFrame_of_good {f : Bytes} {s : State} (good : frameGood f = true) :
    downstreamFrame f s = routeDownstream f (downCounted true s) := by
  simp [downstreamFrame, good, downCounted]

section
variable {f : Bytes} {s : State}

/-- A frame that is neither a ROLLCALL nor an ENGINE_COMMAND goes up (R145). -/
theorem routeDownstream_of_other (noCommand : byteAt f 0 ≠ 0x30) (noRollcall : byteAt f 0 ≠ 0x40) :
    routeDownstream f s = routeUp f s := (if_neg noRollcall).trans (if_neg noCommand)

/-- What becomes of an ENGINE_COMMAND frame (R145). -/
theorem routeDownstream_of_command (command : byteAt f 0 = 0x30) : routeDownstream f s =
    if f.length < 9 then
      routeUp f (s.setLine { s.line with dnPort := { s.line.dnPort with formatDrops := satAdd s.line.dnPort.formatDrops 1 } })
    else if byteAt f 4 = 15 then routeUp f (takeCommand (frameCommand f) s)
    else if s.line.addressValid && byteAt f 4 == s.line.address then takeCommand (frameCommand f) s
    else routeUp f s := by
  have noRollcall : byteAt f 0 ≠ kindRollcall := by
    rw [command]
    decide
  exact (if_neg noRollcall).trans (if_pos command)

theorem routeDownstream_of_short (command : byteAt f 0 = 0x30) (short : f.length < 9) : routeDownstream f s =
    routeUp f (s.setLine { s.line with dnPort := { s.line.dnPort with formatDrops := satAdd s.line.dnPort.formatDrops 1 } }) := by
  rw [routeDownstream_of_command command, if_pos short]

theorem routeDownstream_of_broadcast (command : byteAt f 0 = 0x30) (whole : 9 ≤ f.length) (all : byteAt f 4 = 15) :
    routeDownstream f s = routeUp f (takeCommand (frameCommand f) s) := by
  rw [routeDownstream_of_command command, if_neg (Nat.not_lt.2 whole), if_pos all]

theorem routeDownstream_of_mine (command : byteAt f 0 = 0x30) (whole : 9 ≤ f.length) (one : byteAt f 4 ≠ 15)
    (valid : s.line.addressValid = true) (mine : byteAt f 4 = s.line.address) :
    routeDownstream f s = takeCommand (frameCommand f) s := by
  rw [routeDownstream_of_command command, if_neg (Nat.not_lt.2 whole), if_neg one, if_pos (by simp [valid, mine])]

theorem routeDownstream_of_others (command : byteAt f 0 = 0x30) (whole : 9 ≤ f.length) (one : byteAt f 4 ≠ 15)
    (other : s.line.addressValid = false ∨ byteAt f 4 ≠ s.line.address) : routeDownstream f s = routeUp f s := by
  have notMine : ¬(s.line.addressValid && byteAt f 4 == s.line.address) = true := by
    simp only [Bool.and_eq_true, beq_iff_eq, not_and]
    exact fun valid => other.resolve_left (by simp [valid])
  rw [routeDownstream_of_command command, if_neg (Nat.not_lt.2 whole), if_neg one, if_neg notMine]

/-- A command is discarded and counted while 4 are held or a hot start is in progress, and else held (R146, R179). -/
theorem takeCommand_eq (c : Held) (s : State) : takeCommand c s =
    if s.cmd.executing = some .hotStart ∨ 4 ≤ s.cmd.held.length then
      s.setLine { s.line with commandDiscards := satAdd s.line.commandDiscards 1 }
    else s.setCmd { s.cmd with held := s.cmd.held ++ [c] } := by
  simp only [takeCommand, hotStarting, Bool.or_eq_true, beq_iff_eq, decide_eq_true_eq, Config.heldDepth]

/-! ### The Upward Queue -/

theorem upward_of_room {l : Line} (room : l.up.length < 16) : l.upward f = { l with up := l.up ++ [f] } := if_pos room

theorem upward_of_full {l : Line} (full : 16 ≤ l.up.length) :
    l.upward f = { l with dnPort := { l.dnPort with drops := satAdd l.dnPort.drops 1 } } := if_neg (Nat.not_lt.2 full)

theorem sendUp_of_busy {l : Line} {g : Bytes} (busy : l.upTx = some g) : l.sendUp = l := by
  simp [Line.sendUp, busy]

theorem sendUp_of_empty {l : Line} (empty : l.up = []) : l.sendUp = l := by
  unfold Line.sendUp
  rw [empty]
  split
  · rename_i frames
    cases frames
  · rfl

theorem sendUp_of_free {l : Line} {g : Bytes} {rest : List Bytes} (free : l.upTx = none) (up : l.up = g :: rest) :
    l.sendUp = { l with up := rest, upTx := some g } := by
  simp [Line.sendUp, free, up]

end

/-- Settles O8: a frame is routed by the cases of `routeDownstream_of_command`, and what goes up joins its queue by `upward` and
is sent by `sendUp`. -/
theorem downstreamFramesRouted : Obligations.DownstreamFramesRouted := by
  refine ⟨fun f s free => ?_, fun f s => ⟨fun g busy room => ?_, fun g busy full => ?_, fun idle empty => ?_,
    fun g rest idle up room => ?_⟩⟩
  · have routed {u : State} (good : frameGood f = true)
        (ends : routeDownstream f (downCounted true s) = u) :
        exec (.downstreamFrameReceived f) s = .next (settleLine u) := by
      rw [exec_downstreamFrameReceived f free, downstreamFrame_of_good good, ends]
    refine ⟨fun bad => ?_, fun good noCommand noRollcall => ?_, fun good command short => ?_,
      fun good command whole all => ?_, fun good command whole one valid mine => ?_, fun good command whole one other => ?_⟩
    · rw [exec_downstreamFrameReceived f free, downstreamFrame_of_bad bad]
      rfl
    · exact routed good (routeDownstream_of_other noCommand noRollcall)
    · exact routed good (routeDownstream_of_short command short)
    · exact routed good ((routeDownstream_of_broadcast command whole all).trans (congrArg (routeUp f) (takeCommand_eq _ _)))
    · exact routed good ((routeDownstream_of_mine (s := downCounted true s) command whole one valid mine).trans (takeCommand_eq _ _))
    · exact routed good (routeDownstream_of_others (s := downCounted true s) command whole one other)
  · rw [routeUp, upward_of_room room]
    exact congrArg s.setLine (sendUp_of_busy (l := { s.line with up := s.line.up ++ [f] }) busy)
  · rw [routeUp, upward_of_full full]
    exact congrArg s.setLine (sendUp_of_busy (l := { s.line with dnPort := _ }) busy)
  · have first : s.line.up ++ [f] = f :: [] := by rw [empty]; rfl
    rw [routeUp, upward_of_room (by rw [empty]; decide)]
    refine congrArg s.setLine ((sendUp_of_free (l := { s.line with up := s.line.up ++ [f] }) idle first).trans ?_)
    show { s.line with up := [], upTx := some f } = { s.line with upTx := some f }
    rw [← empty]
  · have first : s.line.up ++ [f] = g :: (rest ++ [f]) := by rw [up]; rfl
    rw [routeUp, upward_of_room (by rw [up]; exact Nat.succ_lt_succ room)]
    exact congrArg s.setLine (sendUp_of_free (l := { s.line with up := s.line.up ++ [f] }) idle first)

/-! ## HOLD, and the ends of transmissions (R147, R148, R150, R151) -/

/-- The line as a transmission upstream has ended: the downstream port counts it (R147). -/
def Line.upFreed (l : Line) : Line :=
  { l with upTx := none, dnPort := { l.dnPort with forwarded := satAdd l.dnPort.forwarded 1 } }

theorem upstreamSent_of_busy {l : Line} {f : Bytes} (busy : l.upTx = some f) : l.upstreamSent = l.upFreed := by
  simp [Line.upstreamSent, Line.upFreed, busy]

theorem upstreamSent_of_idle {l : Line} (idle : l.upTx = none) : l.upstreamSent = l := by
  simp [Line.upstreamSent, idle]

/-- Settles O11: the ends of the transmissions are the branches of `downstreamSent` and `upstreamSent`, and the frame that
follows upstream that of `sendUp_of_free`. -/
theorem transmittersAndHold : Obligations.TransmittersAndHold := by
  refine ⟨fun s free => ⟨?_, ?_⟩, fun s free => ?_⟩
  · exact live_of_free (fun t => t.setLine { t.line with hold := true }) s free
  · exact live_of_free (fun t => settleLine (t.setLine { t.line with hold := false })) s free
  have downstream : exec .downstreamTransmitEnd s = .next (settleLine (s.setLine s.line.downstreamSent)) :=
    live_of_free (fun t => settleLine (t.setLine t.line.downstreamSent)) s free
  have upstream : exec .upstreamTransmitEnd s = .next (s.setLine s.line.upstreamSent.sendUp) :=
    live_of_free (fun t => t.setLine t.line.upstreamSent.sendUp) s free
  refine ⟨fun idle => ?_, fun f own => ?_, fun f forwarded => ?_, fun f busy empty => ?_, fun f g rest busy up => ?_,
    fun idle empty => ?_⟩
  · rw [downstream, Line.downstreamSent, idle]
    rfl
  · rw [downstream, Line.downstreamSent, own]
    rfl
  · rw [downstream, Line.downstreamSent, forwarded]
    rfl
  · rw [upstream, upstreamSent_of_busy busy, sendUp_of_empty (l := s.line.upFreed) empty]
    rfl
  · rw [upstream, upstreamSent_of_busy busy, sendUp_of_free (l := s.line.upFreed) rfl up]
    rfl
  · rw [upstream, upstreamSent_of_idle idle, sendUp_of_empty empty, State.setLine_self]

end Sys2Proof.Machine

namespace Sys2Proof.Machine

/-! ## The Output Arbiter, and the places of the Own Queue (R148, R149, R150, R158) -/

section
variable {l : Line} {f : Bytes}

theorem arbitrate_of_free (released : l.hold = false) (idle : l.dnTx = none) : l.arbitrate =
    match l.own, l.fwd with
    | f :: rest, [] => { l with own := rest, dnTx := some { bytes := f, isOwn := true }, sinceOwn := 0 }
    | f :: rest, g :: more =>
      if l.sinceOwn = 8 then { l with own := rest, dnTx := some { bytes := f, isOwn := true }, sinceOwn := 0 }
      else { l with fwd := more, dnTx := some { bytes := g, isOwn := false }, sinceOwn := min 8 (l.sinceOwn + 1) }
    | [], g :: more =>
      { l with fwd := more, dnTx := some { bytes := g, isOwn := false }, sinceOwn := min 8 (l.sinceOwn + 1) }
    | [], [] => l := by
  unfold Line.arbitrate
  exact if_neg (by simp [released, idle])

/-- An own frame is taken when no forwarded one waits, or 8 have gone before it (R149). -/
theorem arbitrate_takes_own {rest : List Bytes} (released : l.hold = false) (idle : l.dnTx = none) (own : l.own = f :: rest)
    (turn : l.fwd = [] ∨ l.sinceOwn = 8) :
    l.arbitrate = { l with own := rest, dnTx := some { bytes := f, isOwn := true }, sinceOwn := 0 } := by
  rw [arbitrate_of_free released idle, own]
  cases fwd : l.fwd with
  | nil => rfl
  | cons g more => exact if_pos (turn.resolve_left (by simp [fwd]))

/-- A forwarded frame is taken when no own one waits, or fewer than 8 have gone (R149). -/
theorem arbitrate_takes_forwarded {rest : List Bytes} (released : l.hold = false) (idle : l.dnTx = none)
    (fwd : l.fwd = f :: rest) (turn : l.own = [] ∨ l.sinceOwn ≠ 8) : l.arbitrate =
      { l with fwd := rest, dnTx := some { bytes := f, isOwn := false }, sinceOwn := min 8 (l.sinceOwn + 1) } := by
  rw [arbitrate_of_free released idle, fwd]
  cases own : l.own with
  | nil => rfl
  | cons g more => exact if_neg (turn.resolve_left (by simp [own]))

theorem arbitrate_of_held (taken : l.hold = true ∨ l.dnTx.isSome = true) : l.arbitrate = l := if_pos (by simpa using taken)

theorem arbitrate_of_empty (own : l.own = []) (fwd : l.fwd = []) : l.arbitrate = l := by
  unfold Line.arbitrate
  rw [own, fwd]
  split <;> rfl

theorem arbitrate_waiters (l : Line) : l.arbitrate.waiters = l.waiters := by
  unfold Line.arbitrate
  split
  · rfl
  · split
    · rfl
    · split <;> rfl
    · rfl
    · rfl

end

section
variable {s : State} {f g : Bytes} {others : List Producer}

/-! ### One place -/

theorem placeOneWaiter_of_none (none : s.line.waiters = []) : placeOneWaiter s = s := by
  simp [placeOneWaiter, none]

/-- A place stays kept for a NOTICE (assumption 17). -/
theorem placeOneWaiter_of_notice (front : s.line.waiters = .noticeUnit :: others) : placeOneWaiter s = s := by
  simp [placeOneWaiter, front]

theorem placeOneWaiter_of_full (full : 16 ≤ s.line.own.length) : placeOneWaiter s = s :=
  if_neg (by simpa [Line.room] using full)

/-- The state with the waiting reply placed, the producers `others` still waiting (R148, R158). -/
def replyPlaced (f : Bytes) (others : List Producer) (s : State) : State :=
  (s.setLine { s.line with own := s.line.own ++ [f], waiters := others }).setCmd
    { held := s.cmd.held.tail, executing := none }

/-- The state with the waiting roll-call answer placed, the producers `others` still waiting (R148). -/
def answerPlaced (g : Bytes) (others : List Producer) (s : State) : State :=
  s.setLine { s.line with own := s.line.own ++ [g], waiters := others, waitingAnswer := none }

theorem placeOneWaiter_reply (room : s.line.own.length < 16) (front : s.line.waiters = .commandUnit :: others)
    (waits : s.cmd.executing = some (.replyWaiting f)) :
    placeOneWaiter s = replyPlaced f (others.filter fun p => p != .commandUnit) s := by
  have room : s.line.room = true := by simpa [Line.room] using room
  have kept : s.line.waiters.filter (fun p => p != .commandUnit) = others.filter fun p => p != .commandUnit := by
    rw [front]
    rfl
  rw [replyPlaced, ← kept]
  simp [placeOneWaiter, room, front, waits, placeReply]

theorem placeOneWaiter_answer (room : s.line.own.length < 16) (front : s.line.waiters = .lineInterface :: others)
    (waits : s.line.waitingAnswer = some g) : placeOneWaiter s = answerPlaced g others s := by
  have room : s.line.room = true := by simpa [Line.room] using room
  simp [placeOneWaiter, room, front, waits, answerPlaced]

/-! ### All that may be placed -/

/-- No producer that waits finds a place for a frame of its own. -/
def NoPlace (s : State) : Prop := s.line.waiters = [] ∨ (∃ others, s.line.waiters = .noticeUnit :: others) ∨ 16 ≤ s.line.own.length

theorem NoPlace.one (h : NoPlace s) : placeOneWaiter s = s := by
  rcases h with none | ⟨others, front⟩ | full
  · exact placeOneWaiter_of_none none
  · exact placeOneWaiter_of_notice front
  · exact placeOneWaiter_of_full full

theorem NoPlace.all (h : NoPlace s) : placeWaiters s = s := by
  rw [placeWaiters, h.one, h.one, h.one]

/-- One producer finds a place, and none behind it. -/
theorem placeWaiters_one {t : State} (first : placeOneWaiter s = t) (h : NoPlace t) : placeWaiters s = t := by
  rw [placeWaiters, first, h.one, h.one]

/-- Two producers find places, and none behind them. -/
theorem placeWaiters_two {t u : State} (first : placeOneWaiter s = t) (second : placeOneWaiter t = u) (h : NoPlace u) :
    placeWaiters s = u := by
  rw [placeWaiters, first, second, h.one]

/-! ### The line settled -/

/-- The arbiter's choice between two rounds of placing. -/
theorem settleLine_of_placed {t : State} (placed : placeWaiters s = t) (h : NoPlace (settled t)) : settleLine s = settled t := by
  rw [settleLine, placed]
  exact h.all

/-- With the transmitter taken, the line settles by the places that are free. -/
theorem settleLine_of_busy {t : State} (placed : placeWaiters s = t) (busy : t.line.dnTx.isSome = true) (h : NoPlace t) :
    settleLine s = t := by
  have same := settled_of_busy busy
  rw [settleLine_of_placed placed (by rwa [same]), same]

theorem settled_waiters (s : State) : (settled s).line.waiters = s.line.waiters := arbitrate_waiters s.line

/-- The last place of the Own Queue is taken. -/
theorem noPlace_of_last {t : State} (own : t.line.own = s.line.own ++ [f]) (last : s.line.own.length = 15) : NoPlace t :=
  .inr (.inr (by simp [own, last]))

end

/-! ### The arbiter and the waiting frames together -/

/-- Settles O10: the arbiter's choice by what it finds in the queues, and the waiting frames one after another by
`placeOneWaiter_reply` and `placeOneWaiter_answer`. -/
theorem outputArbiterServes : Obligations.OutputArbiterServes := by
  refine ⟨⟨fun l => arbitrate_of_held, fun l f own released idle => arbitrate_takes_own released idle,
    fun l f fwd released idle => arbitrate_takes_forwarded released idle, fun l => arbitrate_of_empty⟩,
    ⟨fun s none => settleLine_of_noWaiter none, fun s f only waits room => ?_, fun s f only waits room => ?_,
      fun s f g own only waits queue last empty released idle => ?_⟩,
    fun s others front => ?_, fun s f g reply answer busy => ⟨fun others front last => ?_, fun others front last => ?_,
      fun both room => ?_, fun both room => ?_⟩⟩
  · exact settleLine_of_placed (placeWaiters_one (placeOneWaiter_reply room only waits) (.inl rfl))
      (.inl (settled_waiters _))
  · exact settleLine_of_placed (placeWaiters_one (placeOneWaiter_answer room only waits) (.inl rfl))
      (.inl (settled_waiters _))
  · have full : NoPlace s := .inr (.inr (by simp [queue, last]))
    have chosen : s.line.arbitrate =
        { s.line with own := own, dnTx := some { bytes := g, isOwn := true }, sinceOwn := 0 } :=
      arbitrate_takes_own released idle queue (.inl empty)
    have room : (settled s).line.own.length < 16 := by rw [settled, State.line_setLine, chosen, last]; decide
    have front : (settled s).line.waiters = [.commandUnit] := (settled_waiters s).trans only
    have placed := placeWaiters_one (placeOneWaiter_reply room front waits) (.inl rfl)
    rw [settleLine, full.all]
    refine placed.trans ?_
    rw [replyPlaced, settled, State.line_setLine, chosen]
    rfl
  · have kept : NoPlace s := .inr (.inl ⟨others, front⟩)
    exact settleLine_of_placed kept.all (.inr (.inl ⟨others, (settled_waiters s).trans front⟩))
  · have taken := noPlace_of_last (s := s) (t := replyPlaced f (others.filter fun p => p != .commandUnit) s) rfl last
    exact settleLine_of_busy (placeWaiters_one (placeOneWaiter_reply (by omega) front reply) taken) busy taken
  · have taken := noPlace_of_last (s := s) (t := answerPlaced g others s) rfl last
    exact settleLine_of_busy (placeWaiters_one (placeOneWaiter_answer (by omega) front answer) taken) busy taken
  · have first := placeOneWaiter_reply (by omega) both reply
    have more : (replyPlaced f [.lineInterface] s).line.own.length < 16 := by
      simpa [replyPlaced] using Nat.add_lt_add_right room 1
    have second : placeOneWaiter (replyPlaced f [.lineInterface] s) = answerPlaced g [] (replyPlaced f [.lineInterface] s) :=
      placeOneWaiter_answer more rfl answer
    refine (settleLine_of_busy (placeWaiters_two first second (.inl rfl)) busy (.inl rfl)).trans ?_
    simp [replyPlaced, answerPlaced, State.setLine, State.setCmd]
  · have first := placeOneWaiter_answer (by omega) both answer
    have more : (answerPlaced g [.commandUnit] s).line.own.length < 16 := by
      simpa [answerPlaced] using Nat.add_lt_add_right room 1
    have second : placeOneWaiter (answerPlaced g [.commandUnit] s) = replyPlaced f [] (answerPlaced g [.commandUnit] s) :=
      placeOneWaiter_reply more rfl reply
    refine (settleLine_of_busy (placeWaiters_two first second (.inl rfl)) busy (.inl rfl)).trans ?_
    simp [replyPlaced, answerPlaced, State.setLine, State.setCmd]

end Sys2Proof.Machine

namespace Sys2Proof.Machine

/-! ## NOTICE_FRAME (R148, R157, R171) -/

/-- A due notice is offered: the address is valid, and a flag is both set and enabled (R171). -/
structure NoticeOffered (s : State) : Prop where
  due : s.notice.due = true
  valid : s.line.addressValid = true
  reportable : s.notice.flags &&& s.notice.enables ≠ 0

/-- The NOTICE frame as things stand, the address being valid (R157). -/
def noticeBytes (s : State) : Bytes :=
  ownFrame 0x32 (encNat 1 s.line.address ++ encNat 2 (s.notice.flags &&& s.notice.enables).toNat
    ++ encOpt 6 s.tracker.lineTime ++ encNat 1 s.queue.length)

section
variable {s : State}

theorem noticeOffered_iff (s : State) : (s.notice.due && s.line.addressValid && s.notice.reportable != 0) = true ↔
    NoticeOffered s := by
  simp only [Bool.and_eq_true, bne_iff_ne, NoticeUnit.reportable]
  exact ⟨fun h => ⟨h.1.1, h.1.2, h.2⟩, fun h => ⟨⟨h.due, h.valid⟩, h.reportable⟩⟩

theorem placeNotice_of_none (none : ¬NoticeOffered s) : placeNotice s = s :=
  if_neg fun offered => none ((noticeOffered_iff s).1 offered)

theorem noticeFrameBytes_of_valid (valid : s.line.addressValid = true) : noticeFrameBytes s = noticeBytes s := by
  simp [noticeFrameBytes, noticeBytes, Line.source, valid, NoticeUnit.reportable, kindNotice, encFlags]

theorem placeNotice_of_place (offered : NoticeOffered s) (place : s.line.mayPlace .noticeUnit = true) : placeNotice s =
    (s.setLine { s.line with own := s.line.own ++ [noticeBytes s]
                             waiters := s.line.waiters.filter fun p => p != .noticeUnit }).setNotice
      { s.notice with due := false } := by
  rw [placeNotice, if_pos ((noticeOffered_iff s).2 offered), if_pos place, noticeFrameBytes_of_valid offered.valid]

/-- The unit finds no place where the Own Queue is full or another producer waits in front (R148). -/
theorem mayPlace_of_blocked {p : Producer} (blocked : 16 ≤ s.line.own.length ∨ ∃ q others, s.line.waiters = q :: others ∧ q ≠ p) :
    ¬s.line.mayPlace p = true := by
  rw [mayPlace_iff]
  rintro ⟨room, front⟩
  rcases blocked with full | ⟨q, others, waits, other⟩
  · omega
  · rcases front with none | ⟨rest, same⟩
    · exact List.cons_ne_nil _ _ (waits.symm.trans none)
    · exact other (List.cons.inj (waits.symm.trans same)).1

theorem placeNotice_waits (offered : NoticeOffered s) (blocked : ¬s.line.mayPlace .noticeUnit = true)
    (absent : .noticeUnit ∉ s.line.waiters) :
    placeNotice s = s.setLine { s.line with waiters := s.line.waiters ++ [.noticeUnit] } := by
  rw [placeNotice, if_pos ((noticeOffered_iff s).2 offered), if_neg blocked, if_neg (by simpa using absent)]

theorem placeNotice_waiting (blocked : ¬s.line.mayPlace .noticeUnit = true) (waits : .noticeUnit ∈ s.line.waiters) :
    placeNotice s = s := by
  by_cases offered : NoticeOffered s
  · rw [placeNotice, if_pos ((noticeOffered_iff s).2 offered), if_neg blocked, if_pos (by simpa using waits)]
  · exact placeNotice_of_none offered

end

/-- Settles O12: the offer is `NoticeOffered`, and its frame is placed, waits, or waits already. -/
theorem noticeFramePlaced : Obligations.NoticeFramePlaced := by
  intro s free
  have step : exec .noticeFrame s = .next (settleLine (placeNotice s)) :=
    live_of_free (fun t => settleLine (placeNotice t)) s free
  refine ⟨fun due valid reportable => ?_, fun blocked waits => ?_, fun none => ?_⟩
  · have offered : NoticeOffered s := ⟨due, valid, reportable⟩
    refine ⟨fun room => ?_, fun others front room => ?_, fun blocked absent => ?_⟩
    · have place : s.line.mayPlace .noticeUnit = true := (mayPlace_iff _ _).2 ⟨room.room, .inl room.noWaiter⟩
      rw [step, placeNotice_of_place offered place, settleLine_of_noWaiter (by simp [room.noWaiter]), room.noWaiter,
        List.filter_nil, ← room.noWaiter]
      rfl
    · have place : s.line.mayPlace .noticeUnit = true := (mayPlace_iff _ _).2 ⟨room, .inr ⟨others, front⟩⟩
      rw [step, placeNotice_of_place offered place, front]
      rfl
    · rw [step, placeNotice_waits offered (mayPlace_of_blocked blocked) absent]
  · rw [step, placeNotice_waiting (mayPlace_of_blocked blocked) waits]
  · rw [step, placeNotice_of_none]
    rintro ⟨due, valid, reportable⟩
    rcases none with undue | invalid | empty
    · simp [undue] at due
    · simp [invalid] at valid
    · exact reportable empty

/-! ## The Command Unit serves its commands in order (R148, R158, R159) -/

section
variable {i : Instr} {code : Nat} {s : State} {c : Held} {rest : List Held}

/-- A row whose command is not the oldest held one, or finds another in execution, changes nothing (R158; assumption 1). -/
theorem exec_command_idle (hi : commandCode i = some code) (free : s.resetHeld = false)
    (idle : s.cmd.held = [] ∨ s.cmd.executing.isSome = true ∨ ∀ c rest, s.cmd.held = c :: rest → c.code.toNat ≠ code) :
    exec i s = .next (settleLine s) := by
  have nothing (mine : Held → Bool) (is : ∀ c, mine c = true ↔ c.code.toNat = code) (body : Held → State → State) :
      beginHeld mine body s = s := by
    unfold beginHeld
    split
    · rename_i c rest unoccupied oldest
      rcases idle with none | busy | other
      · exact absurd (oldest.symm.trans none) (List.cons_ne_nil _ _)
      · simp [unoccupied] at busy
      · exact if_neg fun h => other c rest oldest ((is c).1 h)
    · rfl
  rw [exec_command i s code hi, runCommand, liveLine, live_of_free _ s free, nothing _ (by simp)]

/-- The first checks of R159, whatever the room for the reply. -/
theorem exec_oldest (hi : commandCode i = some code) (h : Oldest s code c rest) : exec i s =
    .next (settleLine (checked (paramsFit i) (!refusedFrozen i) (commandBody i) c s)) := by
  rw [exec_command i s code hi]
  simp [runCommand, liveLine, live, h.live, beginHeld, h.idle, h.held, h.code]

/-- The reply is placed, its command ended (R158). -/
theorem answer_of_ownRoom (k : ReplyCode) (x : Bytes) (held : s.cmd.held = c :: rest) (room : OwnRoom s) : answer k x s =
    (s.setLine { s.line with own := s.line.own ++ [replyFrame s.line.source c k x] }).setCmd
      { held := rest, executing := none } := by
  have place : s.line.mayPlace .commandUnit = true := (mayPlace_iff _ _).2 ⟨room.room, .inl room.noWaiter⟩
  have same : s.line.waiters.filter (fun q => q != .commandUnit) = s.line.waiters := by rw [room.noWaiter]; rfl
  simp [answer, held, place, placeReply, same]

end

/-- Settles O14: a command that is not its turn is `exec_command_idle`, a reply is placed by `answer_of_ownRoom` or waits by
`answer_waits`, and the checks are those of `exec_oldest`. -/
theorem commandsServedInOrder : Obligations.CommandsServedInOrder := by
  refine ⟨fun i code s => exec_command_idle, fun i code result s c rest row h none full absent sends => ?_,
    fun code result s c rest held => ⟨answer_of_ownRoom code result held, fun blocked => ?_⟩,
    fun i code s c rest hi h => ⟨fun misfit => ?_, fun fits refused frozen => ?_⟩⟩
  · have replies : commandCode i = some code ∧ paramsFit i c = true ∧ refusedFrozen i = false
        ∧ commandBody i c s = answer .ok (result s) s := by
      have fits : (c.params.length == 0) = true := by rw [none]; rfl
      rcases row with ⟨rfl, rfl, rfl⟩ | ⟨rfl, rfl, rfl⟩ | ⟨rfl, rfl, rfl⟩
      · exact ⟨rfl, fits, rfl, rfl⟩
      · exact ⟨rfl, fits, rfl, rfl⟩
      · exact ⟨rfl, fits, rfl, rfl⟩
    obtain ⟨hi, fits, served, body⟩ := replies
    have blocked : s.line.mayPlace .commandUnit = false := (commandUnit_blocked_iff _).2 (.inl full)
    have others : s.line.waiters.filter (fun q => q != .commandUnit) = s.line.waiters :=
      List.filter_eq_self.2 fun q mem => bne_iff_ne.2 fun same => absent (same ▸ mem)
    rw [exec_begins hi h fits fun _ => served, body, answer_waits _ _ h.held blocked, others]
    exact congrArg Host.Outcome.next (settleLine_of_full full sends)
  · exact answer_waits code result held ((commandUnit_blocked_iff _).2 blocked)
  · rw [exec_oldest hi h, checked, misfit]
    rfl
  · rw [exec_oldest hi h, checked, fits, refused, frozen]
    rfl

/-! ## SET ADDRESS (R153, R172) -/

/-- A command served while FROZEN too, whose own handling comes to a reply in a state that keeps the Command Unit and the places
of the Own Queue. -/
theorem exec_replies_of_place {i : Instr} {code : Nat} {s t : State} {c : Held} {rest : List Held} {k : ReplyCode} {x : Bytes}
    (row : commandCode i = some code) (h : Begins s code c rest) (fits : paramsFit i c = true)
    (served : refusedFrozen i = false) (body : commandBody i c s = answer k x t) (cmd : t.cmd = s.cmd)
    (waiters : t.line.waiters = s.line.waiters) (own : t.line.own = s.line.own) :
    exec i s = .next (replied k x c rest t) := by
  rw [exec_begins row h.toOldest fits fun _ => served, body]
  exact reply_placed k x h cmd waiters own

section
variable {s : State} {c : Held}

theorem setAddress_of_auto (auto : c.byte 0 = 0) :
    setAddress c s = answer .ok [] (s.setLine { s.line with mode := .auto }) := by
  rw [setAddress, auto]
  rfl

theorem setAddress_of_manual (manual : c.byte 0 = 1) : setAddress c s =
    if c.byte 1 ≤ 3 then
      let t := s.setLine { s.line with mode := .manual, address := c.byte 1, addressValid := true }
      answer .ok [] (if s.line.addressValid then t else addressBecameValid t)
    else answer .badRequest [] s := by
  rw [setAddress, manual]
  rfl

theorem setAddress_of_above (above : 1 < c.byte 0) : setAddress c s = answer .badRequest [] s := by
  have unnamed : modeOfCode (c.byte 0) = none := by
    match c.byte 0, above with
    | n + 2, _ => rfl
  rw [setAddress, unnamed]

theorem stopWaiting_of_noWaiter (p : Producer) (none : s.line.waiters = []) : stopWaiting p s = s := by
  have same : s.line.waiters.filter (fun q => q != p) = s.line.waiters := by rw [none]; rfl
  rw [stopWaiting, same]
  exact State.setLine_self s

/-- Where no producer waits, an address that becomes valid changes no more than the due mark (R172). -/
theorem addressBecameValid_of_noWaiter (none : s.line.waiters = []) : addressBecameValid s =
    s.setNotice { s.notice with due := s.notice.due && s.notice.flags &&& s.notice.enables != 0 } := by
  have cancelled : cancelIfEmpty s =
      if s.notice.flags &&& s.notice.enables = 0 then s.setNotice { s.notice with due := false } else s := by
    have stopped := stopWaiting_of_noWaiter (s := s.setNotice { s.notice with due := false }) .noticeUnit none
    rw [cancelIfEmpty, stopped]
    rfl
  unfold addressBecameValid
  rw [cancelled]
  cases due : s.notice.due with
  | false => rw [if_neg (by decide), Bool.false_and, ← due, State.setNotice_self]
  | true =>
    rw [if_pos rfl, Bool.true_and]
    split
    · rename_i empty
      rw [empty]
      rfl
    · rename_i reportable
      rw [bne_iff_ne.2 reportable, ← due, State.setNotice_self]

end

/-- Settles O15: the modes are the branches of `setAddress`, and the due mark is that of `addressBecameValid_of_noWaiter`. -/
theorem setAddressSetsAddress : Obligations.SetAddressSetsAddress := by
  intro s c rest h
  have served (two : c.params.length = 2) {k : ReplyCode} {u : State} (body : setAddress c s = answer k [] u)
      (cmd : u.cmd = s.cmd) (waiters : u.line.waiters = s.line.waiters) (own : u.line.own = s.line.own) :
      exec .setAddress s = .next (replied k [] c rest u) :=
    exec_replies_of_place (i := .setAddress) rfl h (by simp [paramsFit, fixedBytes, two]) rfl body cmd waiters own
  refine ⟨fun misfit => ?_, fun two auto => ?_, fun two manual inside => ?_, fun two manual above => ?_, fun two above => ?_⟩
  · exact exec_misfit rfl h (by simp [paramsFit, fixedBytes, misfit])
  · exact served two (setAddress_of_auto auto) rfl rfl rfl
  · refine served two ?_ rfl rfl rfl
    rw [setAddress_of_manual manual, if_pos inside]
    refine congrArg (answer .ok []) ?_
    dsimp only
    have became := addressBecameValid_of_noWaiter
      (s := s.setLine { s.line with mode := .manual, address := c.byte 1, addressValid := true }) h.noWaiter
    cases valid : s.line.addressValid with
    | true =>
      rw [if_pos rfl, Bool.true_or, Bool.and_true]
      rfl
    | false =>
      rw [if_neg (by decide), Bool.false_or]
      exact became
  · exact served two ((setAddress_of_manual manual).trans (if_neg (Nat.not_le.2 above))) rfl rfl rfl
  · exact served two (setAddress_of_above above) rfl rfl rfl

end Sys2Proof.Machine

namespace Sys2Proof.Machine

/-! ## READ PORT COUNTERS, READ SCAN and READ DETECTOR (R90, R116, R155) -/

theorem yes_of_zero {c : Held} {i : Nat} (no : c.byte i = 0) : c.yes i = false := by simp [Held.yes, no]

theorem yes_of_ne {c : Held} {i : Nat} (yes : c.byte i ≠ 0) : c.yes i = true := by simp [Held.yes, yes]

/-- A change that the clear option asks for. -/
theorem if_yes {α : Type} (c : Held) (i : Nat) (x y : α) : (if c.yes i then x else y) = if c.byte i = 0 then y else x := by
  by_cases no : c.byte i = 0
  · rw [yes_of_zero no, if_pos no]
    rfl
  · rw [yes_of_ne no, if_neg no]
    rfl

theorem fits_one {c : Held} (one : c.params.length = 1) : (c.params.length == 1) = true := beq_iff_eq.2 one

/-! ### The wait reason (R90) -/

/-- The lanes that contribute and have not delivered through tick `t` + DMAX (R75). -/
def lackingLanes (s : State) (t : Nat) : List (Nat × Lane) :=
  s.tracker.lanes.filter fun e => e.2.record.contributes && !laneDelivered s t e.2.record

theorem complete_iff_lacking (s : State) (t : Nat) : complete s t = true ↔ lackingLanes s t = [] := by
  simp only [complete, lackingLanes, List.filter_eq_nil_iff, List.all_eq_true, Bool.or_eq_true, Bool.not_eq_true',
    Bool.and_eq_true, not_and]
  refine forall₂_congr fun e _ => ?_
  cases e.2.record.contributes <;> simp

theorem blockingLane_of_lacking {s : State} {t : Nat} {e : Nat × Lane} {others : List (Nat × Lane)}
    (lacking : lackingLanes s t = e :: others) : blockingLane s t = some e.1 := by
  rw [blockingLane, ← List.head?_filter]
  change (lackingLanes s t).head?.map Prod.fst = some e.1
  rw [lacking]
  rfl

theorem waitReason_lane (s : State) (other : (waitReason s).1 ≠ 2) : (waitReason s).2 = none := by
  unfold waitReason at other ⊢
  split
  · rfl
  · rename_i t cursor
    rw [cursor] at other
    dsimp only at other ⊢
    split_ifs at other ⊢
    · rfl
    · rfl
    · rfl
    · exact absurd rfl other

theorem waitReason_of_still {s : State} (still : s.scan.state = .idle ∨ s.scan.state = .frozen ∨ s.scan.tick.isSome = true) :
    (waitReason s).1 = 0 := by
  have none : (!scanning s || s.scan.tick.isSome) = true := by
    rcases still with idle | frozen | flight
    · simp [not_scanning_of_idle idle]
    · simp [not_scanning_of_frozen frozen]
    · simp [flight]
  unfold waitReason
  split
  · rfl
  · rw [if_pos none]

/-- The reason of a scan that runs with no tick scan in flight (R90; assumption 40). -/
theorem waitReason_of_running {s : State} {t : Nat} (cursor : s.scan.cursor = some t)
    (runs : s.scan.state = .running ∨ s.scan.state = .halting) (idle : s.scan.tick = none) : waitReason s =
      if lineReached s t 0 = false then (1, none)
      else if complete s t = true ∨ deadline s t = true then (0, none)
      else (2, blockingLane s t) := by
  have active : (!scanning s || s.scan.tick.isSome) = false := by
    rcases runs with state | state <;> simp [scanning, state, idle]
  simp [waitReason, cursor, active]

theorem lineReached_of_some {s : State} {l : Nat} (line : s.tracker.lineTime = some l) (t extra : Nat) :
    lineReached s t extra = true ↔ t + activeDmax s + extra ≤ l := by
  simp [lineReached, line]

theorem waitReason_line {s : State} {t : Nat} (cursor : s.scan.cursor = some t)
    (runs : s.scan.state = .running ∨ s.scan.state = .halting) (idle : s.scan.tick = none)
    (short : ∀ l, s.tracker.lineTime = some l → l < t + activeDmax s) : (waitReason s).1 = 1 := by
  have unreached : lineReached s t 0 = false := by
    rw [lineReached, Option.any_eq_false]
    intro l line
    have := short l line
    simpa using this
  rw [waitReason_of_running cursor runs idle, if_pos unreached]

section
variable {s : State} {t l : Nat} (cursor : s.scan.cursor = some t) (runs : s.scan.state = .running ∨ s.scan.state = .halting)
  (idle : s.scan.tick = none) (line : s.tracker.lineTime = some l) (reached : t + activeDmax s ≤ l)
include cursor runs idle line reached

theorem waitReason_ready (done : lackingLanes s t = [] ∨ t + activeDmax s + (scanValues s).grace ≤ l) :
    (waitReason s).1 = 0 := by
  have full : lineReached s t 0 = true := (lineReached_of_some line t 0).2 reached
  have ready : complete s t = true ∨ deadline s t = true :=
    done.imp (complete_iff_lacking s t).2 (lineReached_of_some line t _).2
  rw [waitReason_of_running cursor runs idle, if_neg (by simp [full]), if_pos ready]

theorem waitReason_lanes {e : Nat × Lane} {others : List (Nat × Lane)} (lacking : lackingLanes s t = e :: others)
    (early : l < t + activeDmax s + (scanValues s).grace) : waitReason s = (2, some e.1) := by
  have full : lineReached s t 0 = true := (lineReached_of_some line t 0).2 reached
  have unready : ¬(complete s t = true ∨ deadline s t = true) := by
    rintro (done | late)
    · rw [complete_iff_lacking, lacking] at done
      cases done
    · have := (lineReached_of_some line t _).1 late
      omega
  rw [waitReason_of_running cursor runs idle, if_neg (by simp [full]), if_neg unready, blockingLane_of_lacking lacking]

end

/-! ### The fields of the replies -/

theorem portCountersResult_eq (l : Line) : portCountersResult l =
    encNat 4 l.upPort.framesIn ++ encNat 4 l.upPort.badFrames ++ encNat 4 l.upPort.formatDrops
      ++ encNat 4 l.upPort.forwarded ++ encNat 4 l.upPort.drops ++ encNat 4 l.dnPort.framesIn ++ encNat 4 l.dnPort.badFrames
      ++ encNat 4 l.dnPort.formatDrops ++ encNat 4 l.dnPort.forwarded ++ encNat 4 l.dnPort.drops ++ encNat 4 l.ownSent
      ++ encNat 4 l.commandDiscards ++ encNat 1 l.fwd.length ++ encNat 1 l.up.length ++ encNat 1 l.own.length
      ++ encBool l.hold ++ encNat 1 l.sinceOwn := by
  simp [portCountersResult, encCounters, Line.counterValues]

theorem encLastResult_eq (r : Option LastResult) : encLastResult r =
    encOpt 6 (r.map LastResult.origin) ++ encOpt 2 (r.map LastResult.eligible) ++ encOpt 2 (r.map LastResult.peak)
      ++ encOpt 2 (r.bind LastResult.peakVoxel) ++ encOpt 1 (r.map fun x => if x.nuisance then 1 else 0)
      ++ encOpt 2 (r.map LastResult.mean) ++ encOpt 1 (r.map LastResult.listLength) := by
  cases r <;> rfl

/-- Settles O16: each read replies with its values as they stand, the wait reason by `waitReason_of_running`, and `if_yes` is the
clear option. -/
theorem readsThatMayClear : Obligations.ReadsThatMayClear := by
  refine ⟨fun s c rest h one => ⟨fun no => ?_, fun yes => ?_⟩, fun s c rest h one => ?_, fun s c rest h one => ?_⟩
  · refine exec_replies (i := .readPortCounters) rfl h (fits_one one) rfl ?_ rfl rfl
    rw [← portCountersResult_eq]
    show answer .ok _ _ = _
    rw [yes_of_zero no]
    rfl
  · refine exec_replies_of_place (i := .readPortCounters) rfl h (fits_one one) rfl ?_ rfl rfl rfl
    rw [← portCountersResult_eq]
    show answer .ok _ _ = _
    rw [yes_of_ne yes]
    rfl
  · refine ⟨(waitReason s).1, (waitReason s).2, ?_, waitReason_lane s, waitReason_of_still, fun t cursor runs idle =>
      ⟨waitReason_line cursor runs idle, fun l line reached => ⟨waitReason_ready cursor runs idle line reached,
        fun e others lacking early => ?_⟩⟩⟩
    · have cleared (x : Scan) : (if c.byte 0 = 0 then s else s.setScan x).line = s.line
          ∧ (if c.byte 0 = 0 then s else s.setScan x).cmd = s.cmd := by split <;> exact ⟨rfl, rfl⟩
      refine exec_replies (i := .readScan) rfl h (fits_one one) rfl ?_ (cleared _).2 (cleared _).1
      rw [← encLastResult_eq]
      show answer .ok (scanResult s) (if c.yes 0 then s.setScan s.scan.clearCounters else s) = _
      rw [if_yes]
      rfl
    · have named := waitReason_lanes cursor runs idle line reached lacking early
      exact ⟨congrArg Prod.fst named, congrArg Prod.snd named⟩
  · have cleared (x : Detector) : (if c.byte 0 = 0 then s else s.setDet x).line = s.line
        ∧ (if c.byte 0 = 0 then s else s.setDet x).cmd = s.cmd := by split <;> exact ⟨rfl, rfl⟩
    refine exec_replies (i := .readDetector) rfl h (fits_one one) rfl ?_ (cleared _).2 (cleared _).1
    show answer .ok (detectorResult s.det) (if c.yes 0 then s.setDet s.det.clearCounters else s) = _
    rw [if_yes]
    rfl

/-! ## READ STATUS, READ PARAMETERS, READ NOTICES and READ FAULT (R163, R169, R170, R174) -/

theorem length_contributingSet (s : State) : (contributingSet s).length =
    (s.tracker.lanes.filter fun e => e.2.record.state == .admitted && 0 < e.2.record.weightInUse).length := by
  unfold contributingSet
  induction s.tracker.lanes with
  | nil => rfl
  | cons e lanes ih =>
    rw [List.filterMap_cons, List.filter_cons]
    cases contributes : e.2.record.contributes with
    | true =>
      have counted : (e.2.record.state == .admitted && decide (0 < e.2.record.weightInUse)) = true := contributes
      simp [counted, ih]
    | false =>
      have counted : (e.2.record.state == .admitted && decide (0 < e.2.record.weightInUse)) = false := contributes
      simp [counted, ih]

/-- The nine fields of a place, in the three groups of the table of 9.3 (R156). -/
theorem encPlaceFields_grouped (bank voxel entry lane tick store ringLane index word : Option Nat) :
    encPlaceFields bank voxel entry lane tick store ringLane index word =
      encOpt 1 bank ++ encOpt 2 voxel ++ encOpt 1 entry ++ (encOpt 1 lane ++ encOpt 6 tick)
        ++ (encOpt 1 store ++ encOpt 1 ringLane ++ encOpt 6 index ++ encOpt 2 word) := by
  simp only [encPlaceFields, List.append_assoc]

/-- Settles O17: each read's result is its list of fields, and a place is `encPlaceFields_grouped`. -/
theorem readsThatChangeNothing : Obligations.ReadsThatChangeNothing := by
  have empty {c : Held} (none : c.params = []) : (c.params.length == 0) = true := by rw [none]; rfl
  refine ⟨fun s c rest h none => ?_, fun s c rest => ⟨fun h one group => ?_, fun h none => ?_, fun h none => ?_⟩, ?_⟩
  · refine exec_replies (i := .readStatus) rfl h (empty none) rfl ?_ rfl rfl
    rw [← length_contributingSet]
    rfl
  · refine exec_replies (i := .readParameters) rfl h ?_ rfl rfl rfl rfl
    simp [paramsFit, readParametersFits, one, group]
  · exact exec_replies (i := .readNotices) rfl h (empty none) rfl rfl rfl rfl
  · exact exec_replies (i := .readFault) rfl h (empty none) rfl rfl rfl rfl
  · refine ⟨encPlaceFields_grouped .., fun bank voxel entry => ?_, fun lane tick => ?_, fun lane index => ?_, fun word => ?_⟩
    · simp only [encPlace, encPlaceFields_grouped]
    · simp only [encPlace, encPlaceFields_grouped, List.append_assoc]
    · simp only [encPlace, encPlaceFields_grouped, List.append_assoc]
    · simp only [encPlace, encPlaceFields_grouped, List.append_assoc]

end Sys2Proof.Machine

namespace Sys2Proof.Machine

/-! ## ROLLCALL (R148, R152, R172) -/

/-! ### What the line keeps while own frames are placed -/

/-- `l'` has the address, the Upward Queue and the downstream port's counters of `l`: what placing own frames leaves alone. -/
structure SameRoute (l l' : Line) : Prop where
  address : l'.address = l.address
  valid : l'.addressValid = l.addressValid
  mode : l'.mode = l.mode
  up : l'.up = l.up
  dnPort : l'.dnPort = l.dnPort

theorem SameRoute.refl (l : Line) : SameRoute l l := ⟨rfl, rfl, rfl, rfl, rfl⟩

theorem SameRoute.trans {l l' l'' : Line} (h : SameRoute l l') (k : SameRoute l' l'') : SameRoute l l'' :=
  ⟨k.address.trans h.address, k.valid.trans h.valid, k.mode.trans h.mode, k.up.trans h.up, k.dnPort.trans h.dnPort⟩

theorem sameRoute_arbitrate (l : Line) : SameRoute l l.arbitrate := by
  unfold Line.arbitrate
  split
  · exact .refl l
  · split
    · exact ⟨rfl, rfl, rfl, rfl, rfl⟩
    · split <;> exact ⟨rfl, rfl, rfl, rfl, rfl⟩
    · exact ⟨rfl, rfl, rfl, rfl, rfl⟩
    · exact .refl l

theorem sameRoute_placeOneWaiter (s : State) : SameRoute s.line (placeOneWaiter s).line := by
  unfold placeOneWaiter
  split
  · split
    · split
      · exact ⟨rfl, rfl, rfl, rfl, rfl⟩
      · exact .refl _
    · split
      · exact ⟨rfl, rfl, rfl, rfl, rfl⟩
      · exact .refl _
    · exact .refl _
    · exact .refl _
  · exact .refl _

theorem sameRoute_placeWaiters (s : State) : SameRoute s.line (placeWaiters s).line :=
  ((sameRoute_placeOneWaiter s).trans (sameRoute_placeOneWaiter _)).trans (sameRoute_placeOneWaiter _)

theorem sameRoute_settleLine (s : State) : SameRoute s.line (settleLine s).line :=
  ((sameRoute_placeWaiters s).trans (sameRoute_arbitrate _)).trans (sameRoute_placeWaiters (arbitrate (placeWaiters s)))

/-! ### The address -/

/-- A flag that is set already stays as it is when it is set again. -/
theorem or_mask_of_isSet {n : NoticeUnit} {f : Flag} (set : n.isSet f = true) : n.flags ||| f.mask = n.flags := by
  have single : f.mask = BitVec.twoPow 9 f.bit := (BitVec.twoPow_eq 9 f.bit).symm
  rw [NoticeUnit.isSet, bne_iff_ne, single, BitVec.and_twoPow] at set
  have bit : n.flags.getLsbD f.bit = true := by
    by_contra clear
    exact set (if_neg clear)
  rw [single]
  refine BitVec.eq_of_getLsbD_eq fun i _ => ?_
  rw [BitVec.getLsbD_or, BitVec.getLsbD_twoPow]
  by_cases same : f.bit = i
  · rw [← same, bit, Bool.true_or]
  · simp [same]

theorem setFlag_flags (f : Flag) (s : State) : (setFlag f s).notice.flags = s.notice.flags ||| f.mask := by
  show (s.notice.raise f).flags = _
  unfold NoticeUnit.raise
  split
  · rename_i set
    exact (or_mask_of_isSet set).symm
  · rfl

theorem cancelIfEmpty_flags (s : State) : (cancelIfEmpty s).notice.flags = s.notice.flags := by
  unfold cancelIfEmpty
  split <;> rfl

theorem addressBecameValid_flags (s : State) : (addressBecameValid s).notice.flags = s.notice.flags := by
  unfold addressBecameValid
  split
  · exact cancelIfEmpty_flags s
  · rfl

/-- The producers that wait after a change of the address: the Notice and Fault Unit may have left them (R172). -/
def OfferKept (w w' : List Producer) : Prop := w' = w ∨ w' = w.filter fun p => p != .noticeUnit

theorem OfferKept.others {w w' : List Producer} (h : OfferKept w w') :
    (w'.filter fun p => p != .noticeUnit) = w.filter fun p => p != .noticeUnit := by
  rcases h with same | dropped
  · rw [same]
  · rw [dropped, List.filter_filter]
    simp

theorem OfferKept.nil {w : List Producer} (h : OfferKept [] w) : w = [] := by
  rcases h with same | dropped
  · exact same
  · exact dropped

/-- The line after the Notice and Fault Unit has been told that the address became valid. -/
theorem addressBecameValid_line (s : State) :
    ∃ w, (addressBecameValid s).line = { s.line with waiters := w } ∧ OfferKept s.line.waiters w := by
  unfold addressBecameValid cancelIfEmpty
  split
  · split
    · exact ⟨_, rfl, .inr rfl⟩
    · exact ⟨_, rfl, .inl rfl⟩
  · exact ⟨_, rfl, .inl rfl⟩

/-- A roll call sets the address, and changes nothing else of the line but that the unit's offer may stop (R152, R172). -/
theorem rollcallSet_line (hop : Nat) (s : State) : ∃ w,
    (rollcallSet hop s).line = { s.line.rollcallAddress hop with waiters := w } ∧ OfferKept s.line.waiters w := by
  have waiters : (s.line.rollcallAddress hop).waiters = s.line.waiters := by
    unfold Line.rollcallAddress
    split
    · rfl
    · split <;> rfl
  unfold rollcallSet
  dsimp only
  split
  · exact ⟨_, by rw [stopWaiting, State.line_setLine, setFlagIf_line, State.line_setLine], .inr (by rw [waiters])⟩
  · split
    · obtain ⟨w, line, kept⟩ := addressBecameValid_line (setFlagIf (addressChanged s.line (s.line.rollcallAddress hop)) .address
        (s.setLine (s.line.rollcallAddress hop)))
      rw [setFlagIf_line, State.line_setLine] at line kept
      exact ⟨w, line, by rwa [waiters] at kept⟩
    · exact ⟨_, by rw [setFlagIf_line, State.line_setLine], .inl waiters⟩

/-- The ADDRESS flag is set where the address or its validity changes (R152). -/
theorem rollcallSet_flags (hop : Nat) (s : State) : (rollcallSet hop s).notice.flags =
    if addressChanged s.line (s.line.rollcallAddress hop) then s.notice.flags ||| 0x100 else s.notice.flags := by
  have flagged (c : Bool) (l : Line) : (setFlagIf c .address (s.setLine l)).notice.flags =
      if c then s.notice.flags ||| 0x100 else s.notice.flags := by
    cases c
    · rfl
    · exact setFlag_flags .address (s.setLine l)
  unfold rollcallSet
  dsimp only
  split
  · exact flagged _ _
  · split
    · rw [addressBecameValid_flags]
      exact flagged _ _
    · exact flagged _ _

/-! ### The answer, and the frame sent on -/

theorem sameRoute_placeAnswer (f : Bytes) (s : State) : SameRoute s.line (placeAnswer f s).line := by
  unfold placeAnswer
  split
  · exact ⟨rfl, rfl, rfl, rfl, rfl⟩
  · split <;> exact ⟨rfl, rfl, rfl, rfl, rfl⟩

theorem placeAnswer_upTx (f : Bytes) (s : State) : (placeAnswer f s).line.upTx = s.line.upTx := by
  unfold placeAnswer
  split
  · rfl
  · split <;> rfl

theorem placeAnswer_of_room {s : State} (f : Bytes) (none : s.line.waitingAnswer = none) (room : OwnRoom s) :
    placeAnswer f s = s.setLine { s.line with own := s.line.own ++ [f] } := by
  have place : s.line.mayPlace .lineInterface = true := (mayPlace_iff _ _).2 ⟨room.room, .inl room.noWaiter⟩
  simp [placeAnswer, none, place]

/-- With the Own Queue full the answer waits, in the position of one that waits already (R148). -/
theorem placeAnswer_of_full {s : State} (f : Bytes) (full : 16 ≤ s.line.own.length) : placeAnswer f s = s.setLine
    { s.line with waitingAnswer := some f
                  waiters := s.line.waiters ++ if s.line.waitingAnswer = none then [.lineInterface] else [] } := by
  have blocked : s.line.mayPlace .lineInterface = false := by
    rw [← Bool.not_eq_true]
    exact mayPlace_of_blocked (.inl full)
  cases waits : s.line.waitingAnswer <;> simp [placeAnswer, waits, blocked]

/-- The line less its Upward Queue, the upstream transmitter and the drops of the downstream port, which sending a frame up may
change (R145, R151). -/
structure SentUp (l l' : Line) : Prop where
  own : l'.own = l.own
  waiters : l'.waiters = l.waiters
  waiting : l'.waitingAnswer = l.waitingAnswer
  dnTx : l'.dnTx = l.dnTx
  address : l'.address = l.address
  valid : l'.addressValid = l.addressValid
  mode : l'.mode = l.mode
  framesIn : l'.dnPort.framesIn = l.dnPort.framesIn

theorem sentUp_routeUp (f : Bytes) (s : State) : SentUp s.line (routeUp f s).line := by
  rw [routeUp, State.line_setLine]
  unfold Line.sendUp Line.upward
  split
  · split <;> constructor <;> rfl
  · split <;> constructor <;> rfl

theorem routeUp_up {s : State} (f : Bytes) (busy : s.line.upTx.isSome = true) (room : s.line.up.length < 16) :
    (routeUp f s).line.up = s.line.up ++ [f] := by
  obtain ⟨g, sends⟩ := Option.isSome_iff_exists.1 busy
  rw [routeUp, upward_of_room room, State.line_setLine, sendUp_of_busy (l := { s.line with up := s.line.up ++ [f] }) sends]

/-! ### The whole row -/

theorem rollcallAddress_of_manual {l : Line} (hop : Nat) (manual : l.mode = .manual) : l.rollcallAddress hop = l := by
  simp [Line.rollcallAddress, manual]

theorem rollcallAddress_of_auto {l : Line} (hop : Nat) (auto : l.mode = .auto) : l.rollcallAddress hop =
    if hop ≤ 3 then { l with address := hop, addressValid := true } else { l with addressValid := false } := by
  simp [Line.rollcallAddress, auto]

/-- A roll call changes the address and its validity, and no other part of the line (R152). -/
theorem rollcallAddress_eq (l : Line) (hop : Nat) : l.rollcallAddress hop =
    { l with address := (l.rollcallAddress hop).address, addressValid := (l.rollcallAddress hop).addressValid } := by
  unfold Line.rollcallAddress
  split
  · rfl
  · split <;> rfl

theorem addressChanged_iff (l l' : Line) :
    addressChanged l l' = true ↔ l'.address ≠ l.address ∨ l'.addressValid ≠ l.addressValid := by
  simp only [addressChanged, Bool.or_eq_true, bne_iff_ne]
  exact or_congr ne_comm ne_comm

section
variable (f : Bytes) (s : State)

/-- The engine as a good ROLLCALL has set the address. -/
def rollcalled : State := rollcallSet (byteAt f 1) (downCounted true s)

/-- The line with the address that a good ROLLCALL sets. -/
def rollcallLine : Line := (downCounted true s).line.rollcallAddress (byteAt f 1)

/-- The answer to a ROLLCALL from the engine `u` (R152, R157). -/
def answerTo (u : State) : Bytes := rollcallAnswer u.line ((f.drop 4).take 2) (byteAt f 1)

/-- The engine with the answer placed, or waiting. -/
def rollcallAnswered : State := placeAnswer (answerTo f (rollcalled f s)) (rollcalled f s)

/-- The engine as the whole row leaves it: the frame is sent on, and the line settles. -/
def rollcallDone : State := settleLine (routeUp (rollcallForward f) (rollcallAnswered f s))

variable {f s}

theorem exec_rollcall (free : s.resetHeld = false) (good : frameGood f = true) (kind : byteAt f 0 = 0x40) :
    exec (.downstreamFrameReceived f) s = .next (rollcallDone f s) := by
  have routed : routeDownstream f (downCounted true s) = handleRollcall f (downCounted true s) := if_pos kind
  rw [exec_downstreamFrameReceived f free, downstreamFrame_of_good good, routed]
  rfl

/-- What the row sets of the line and of the flags, own frames and the frame sent on aside. -/
structure AddressSet (l : Line) (t : State) : Prop where
  address : t.line.address = l.address
  valid : t.line.addressValid = l.addressValid
  mode : t.line.mode = l.mode
  framesIn : t.line.dnPort.framesIn = l.dnPort.framesIn

theorem rollcalled_line : ∃ w, (rollcalled f s).line = { rollcallLine f s with waiters := w } ∧ OfferKept s.line.waiters w :=
  rollcallSet_line _ _

theorem addressSet_rollcalled : AddressSet (rollcallLine f s) (rollcalled f s) := by
  obtain ⟨w, line, _⟩ := rollcalled_line (f := f) (s := s)
  constructor <;> rw [line]

theorem addressSet_done : AddressSet (rollcallLine f s) (rollcallDone f s) := by
  have set := addressSet_rollcalled (f := f) (s := s)
  have placed := sameRoute_placeAnswer (answerTo f (rollcalled f s)) (rollcalled f s)
  have sent := sentUp_routeUp (rollcallForward f) (rollcallAnswered f s)
  have settled : SameRoute _ (rollcallDone f s).line := sameRoute_settleLine (routeUp (rollcallForward f) (rollcallAnswered f s))
  constructor
  · rw [settled.address, sent.address, rollcallAnswered, placed.address, set.address]
  · rw [settled.valid, sent.valid, rollcallAnswered, placed.valid, set.valid]
  · rw [settled.mode, sent.mode, rollcallAnswered, placed.mode, set.mode]
  · rw [settled.dnPort, sent.framesIn, rollcallAnswered, placed.dnPort, set.framesIn]

/-- The answer placed or waiting gives the address and the mode as the row leaves them. -/
theorem answerTo_done : answerTo f (rollcalled f s) = answerTo f (rollcallDone f s) := by
  have before := addressSet_rollcalled (f := f) (s := s)
  have after := addressSet_done (f := f) (s := s)
  simp only [answerTo, rollcallAnswer, Line.source, before.address, before.valid, before.mode, after.address, after.valid,
    after.mode]

theorem flags_done : (rollcallDone f s).notice.flags =
    if (rollcallDone f s).line.address ≠ s.line.address ∨ (rollcallDone f s).line.addressValid ≠ s.line.addressValid
    then s.notice.flags ||| 0x100 else s.notice.flags := by
  have set := addressSet_done (f := f) (s := s)
  have flags := rollcallSet_flags (byteAt f 1) (downCounted true s)
  have kept : (rollcallDone f s).notice = (rollcalled f s).notice := by simp [rollcallDone, rollcallAnswered]
  rw [kept, set.address, set.valid]
  simp only [addressChanged_iff] at flags
  exact flags

/-- Of the line, setting the address changes only the port's counters and the address, and may stop the unit's offer. -/
theorem rollcalled_line_eq : ∃ p a v w, (rollcalled f s).line =
    { s.line with dnPort := p, address := a, addressValid := v, waiters := w } ∧ OfferKept s.line.waiters w := by
  obtain ⟨w, line, kept⟩ := rollcalled_line (f := f) (s := s)
  rw [rollcallLine, rollcallAddress_eq] at line
  exact ⟨_, _, _, w, line, kept⟩

/-- With a free place and no producer that waits, the answer is the newest frame of the Own Queue (R148, R152). -/
theorem own_done_of_room (room : OwnRoom s) (none : s.line.waitingAnswer = none) (busy : s.line.dnTx.isSome = true) :
    (rollcallDone f s).line.own = s.line.own ++ [answerTo f (rollcallDone f s)] := by
  obtain ⟨p, a, v, w, line, offer⟩ := rollcalled_line_eq (f := f) (s := s)
  have empty : w = [] := OfferKept.nil (room.noWaiter ▸ offer)
  have stillRoom : OwnRoom (rollcalled f s) := ⟨by rw [line, empty], by rw [line]; exact room.room⟩
  have placed : rollcallAnswered f s = (rollcalled f s).setLine _ := placeAnswer_of_room _ (by rw [line]; exact none) stillRoom
  have sent := sentUp_routeUp (rollcallForward f) (rollcallAnswered f s)
  rw [placed, line] at sent
  have done : rollcallDone f s = routeUp (rollcallForward f) (rollcallAnswered f s) := by
    rw [rollcallDone, placed, line, settleLine_of_noWaiter (sent.waiters.trans empty),
      settled_of_busy (by rw [sent.dnTx]; exact busy)]
  rw [← answerTo_done, done, placed, line, sent.own]
  rfl

/-- With the Own Queue full the answer waits, behind the producers that wait or in the place of an older one (R148). -/
theorem waits_done_of_full (full : 16 ≤ s.line.own.length) (busy : s.line.dnTx.isSome = true) :
    (rollcallDone f s).line.own = s.line.own
      ∧ (rollcallDone f s).line.waitingAnswer = some (answerTo f (rollcallDone f s))
      ∧ ((rollcallDone f s).line.waiters.filter fun p => p != .noticeUnit) = (s.line.waiters.filter fun p => p != .noticeUnit)
        ++ if s.line.waitingAnswer = none then [.lineInterface] else [] := by
  obtain ⟨p, a, v, w, line, offer⟩ := rollcalled_line_eq (f := f) (s := s)
  have placed : rollcallAnswered f s = (rollcalled f s).setLine _ := placeAnswer_of_full _ (by rw [line]; exact full)
  have sent := sentUp_routeUp (rollcallForward f) (rollcallAnswered f s)
  rw [placed, line] at sent
  have done : rollcallDone f s = routeUp (rollcallForward f) (rollcallAnswered f s) := by
    rw [rollcallDone, placed, line]
    exact settleLine_of_full (by rw [sent.own]; exact full) (by rw [sent.dnTx]; exact busy)
  rw [← answerTo_done, done, placed, line]
  refine ⟨sent.own, sent.waiting, ?_⟩
  rw [sent.waiters, State.line_setLine, List.filter_append, offer.others]
  split <;> rfl

/-- The frame goes upstream with its hop byte advanced (R152): with the transmitter busy, as the newest of the Upward Queue. -/
theorem up_done (busy : s.line.upTx.isSome = true) (room : s.line.up.length < 16) :
    (rollcallDone f s).line.up = s.line.up ++ [rollcallForward f] := by
  obtain ⟨p, a, v, w, line, _⟩ := rollcalled_line_eq (f := f) (s := s)
  have up : (rollcallAnswered f s).line.up = s.line.up := by
    rw [rollcallAnswered, (sameRoute_placeAnswer _ _).up, line]
  have upTx : (rollcallAnswered f s).line.upTx = s.line.upTx := by
    rw [rollcallAnswered, placeAnswer_upTx, line]
  rw [rollcallDone, (sameRoute_settleLine _).up, routeUp_up _ (by rwa [upTx]) (by rwa [up]), up]

/-- A manual address stays, with its flag (R152). -/
theorem manual_done (mode : s.line.mode = .manual) : (rollcallDone f s).line.address = s.line.address
    ∧ (rollcallDone f s).line.addressValid = s.line.addressValid ∧ (rollcallDone f s).notice.flags = s.notice.flags := by
  have set := addressSet_done (f := f) (s := s)
  rw [rollcallLine, rollcallAddress_of_manual (l := (downCounted true s).line) _ mode] at set
  refine ⟨set.address, set.valid, ?_⟩
  rw [flags_done, set.address, set.valid]
  exact if_neg fun changed => changed.elim (· rfl) (· rfl)

/-- In AUTO mode a hop byte up to 3 is the address (R152). -/
theorem near_done (mode : s.line.mode = .auto) (near : byteAt f 1 ≤ 3) :
    (rollcallDone f s).line.address = byteAt f 1 ∧ (rollcallDone f s).line.addressValid = true := by
  have set := addressSet_done (f := f) (s := s)
  rw [rollcallLine, rollcallAddress_of_auto (l := (downCounted true s).line) _ mode, if_pos near] at set
  exact ⟨set.address, set.valid⟩

/-- In AUTO mode a hop byte above 3 makes the address not valid (R152). -/
theorem far_done (mode : s.line.mode = .auto) (far : 3 < byteAt f 1) : (rollcallDone f s).line.addressValid = false := by
  have set := addressSet_done (f := f) (s := s)
  rw [rollcallLine, rollcallAddress_of_auto (l := (downCounted true s).line) _ mode, if_neg (by omega)] at set
  exact set.valid

/-- The row keeps the address's mode and counts the frame (R145, R152). -/
theorem counted_done : (rollcallDone f s).line.mode = s.line.mode
    ∧ (rollcallDone f s).line.dnPort.framesIn = satAdd s.line.dnPort.framesIn 1 := by
  have set := addressSet_done (f := f) (s := s)
  rw [rollcallLine, rollcallAddress_eq] at set
  exact ⟨set.mode, set.framesIn⟩

end

/-- Settles O9: the engine that the row leaves is `rollcallDone`, and each part of the statement is the lemma of it above. -/
theorem rollcallHandled : Obligations.RollcallHandled := fun _ _ free good kind =>
  ⟨_, exec_rollcall free good kind, counted_done.1, counted_done.2, manual_done, near_done, far_done, fun _ => flags_done,
    own_done_of_room, waits_done_of_full, up_done⟩

end Sys2Proof.Machine

namespace Sys2Proof.Machine

/-! ## The parameters within their ranges (R164, R166) -/

theorem clampTo_of_le {lo hi : Nat} (order : lo ≤ hi) (v : Nat) :
    clampTo lo hi v = if v < lo then lo else if hi < v then hi else v := by
  unfold clampTo
  split_ifs <;> omega

theorem clampTo_le {lo hi : Nat} (order : lo ≤ hi) (v : Nat) : clampTo lo hi v ≤ hi :=
  max_le order (min_le_left _ _)

theorem clampTo_within {lo hi : Nat} (order : lo ≤ hi) (v : Nat) : lo ≤ clampTo lo hi v ∧ clampTo lo hi v ≤ hi :=
  ⟨le_max_left _ _, clampTo_le order v⟩

theorem clampRate_cases (v : Nat) : clampRate v = 250 ∨ clampRate v = 500 ∨ clampRate v = 1000 := by
  unfold clampRate
  split_ifs <;> simp

theorem clampTickLen_cases (v : Nat) : clampTickLen v = 1 ∨ clampTickLen v = 2 ∨ clampTickLen v = 4
    ∨ clampTickLen v = 8 ∨ clampTickLen v = 16 := by
  unfold clampTickLen
  split_ifs <;> simp

section
variable {p : Params}

theorem ParamsInRange.storeLane (h : ParamsInRange p) (v : List Nat) : ParamsInRange { p with lane := storedLane v } :=
  have sta := clampTo_within (lo := 1) (hi := 8) (by decide) (v.getD 3 0)
  { h with
    rate := clampRate_cases _
    tick := clampTickLen_cases _
    dcShift := clampTo_within (by decide) _
    staShift := sta
    ltaShift := ⟨le_max_left _ _, max_le (Nat.add_le_add_right sta.2 2 |>.trans (by decide)) (min_le_left _ _)⟩
    ltaFloor := clampTo_within (by decide) _
    freeze := clampTo_within (by decide) _
    admitCount := clampTo_within (by decide) _
    muteCount := clampTo_within (by decide) _
    clipLimit := clampTo_le (by decide) _
    holdoverLimit := clampTo_le (by decide) _
    maxGap := clampTo_le (by decide) _ }

theorem ParamsInRange.storeTimers (h : ParamsInRange p) (v : List Nat) :
    ParamsInRange { p with timers := storedTimers v } :=
  { h with
    laneTimeout := clampTo_within (by decide) _
    lineSilence := clampTo_within (by decide) _ }

theorem ParamsInRange.storeScan (h : ParamsInRange p) (v : List Nat) : ParamsInRange { p with scan := storedScan v } :=
  { h with
    grace := clampTo_le (by decide) _
    lagAllowance := clampTo_within (by decide) _
    minWeight := clampTo_within (by decide) _ }

theorem ParamsInRange.storeDetect (h : ParamsInRange p) (v : List Nat) :
    ParamsInRange { p with detect := storedDetect v } :=
  have tOn := clampTo_within (lo := 256) (hi := 65535) (by decide) (v.getD 0 0)
  { h with
    tOn := tOn
    tOff := ⟨le_min tOn.1 (clampTo_within (by decide) _).1, min_le_left _ _⟩
    coherence := clampTo_within (by decide) _
    kOn := clampTo_within (by decide) _
    qOff := clampTo_within (by decide) _
    maxDuration := clampTo_within (by decide) _
    holdoff := clampTo_le (by decide) _
    vetoLimit := clampTo_le (by decide) _ }

theorem ParamsInRange.storeCapture (h : ParamsInRange p) (v : List Nat) :
    ParamsInRange { p with capture := storedCapture v } :=
  { h with
    snipLanes := clampTo_within (by decide) _
    preSamples := clampTo_le (by decide) _
    postSamples := clampTo_within (by decide) _
    captureWait := clampTo_within (by decide) _ }

theorem ParamsInRange.store (h : ParamsInRange p) (v : List Nat) : ∀ group, ParamsInRange (p.store group v)
  | 0 => h.storeLane v
  | 1 => h.storeTimers v
  | 2 => h.storeScan v
  | 3 => h.storeDetect v
  | 4 => h.storeCapture v
  | 5 => { h with }
  | _ + 6 => h

end

/-- SET PARAMETERS keeps the set, or stores the group that its command names (R165, R167). -/
theorem setParameters_params (c : Held) (s : State) : (setParameters c s).params = s.params
    ∨ (setParameters c s).params = s.params.store (c.byte 0) (carriedValues c) := by
  unfold setParameters
  dsimp only
  split
  · exact .inl (by simp)
  · right
    split <;> simp

theorem paramsInRange_cold : ParamsInRange Params.cold := by
  constructor <;> decide

/-- No row that is no engine command touches the parameters. -/
theorem eventBody_params (i : Instr) (s : State) : (eventBody i s).params = s.params := by
  cases i <;> simp [eventBody]

/-- Every row keeps the parameters within their ranges: none but SET PARAMETERS and a cold start touches them. -/
theorem paramsInRange_exec {i : Instr} {s t : State} (hs : ParamsInRange s.params) (h : exec i s = .next t) :
    ParamsInRange t.params := by
  have same {u : State} (params : u.params = s.params) : ParamsInRange u.params := params ▸ hs
  have command (c : Held) : ParamsInRange (commandBody i c s).params := by
    cases i with
    | setParameters =>
      rcases setParameters_params c s with kept | stored
      · exact same kept
      · exact stored.symm ▸ hs.store _ _
    | _ => exact same (by simp [commandBody])
  exact exec_keeps (P := fun u => ParamsInRange u.params) (fun u hu => (settleLine_params u).symm ▸ hu)
    (fun k x => same (answer_params k x s)) hs
    (same (eventBody_params i s)) (fun c _ _ _ _ => command c) (fun _ _ => paramsInRange_cold) (fun _ => hs) h

end Sys2Proof.Machine

namespace Sys2Proof.Machine

/-! ## The Lane Map binds its numbers to distinct station channels (R1) -/

/-- What a map binds: each lane number to its station and channel (R1). -/
def stationChannels (m : Memory Lane) : List (Nat × Nat × Nat) :=
  m.map fun e => (e.1, e.2.entry.station, e.2.entry.channel)

theorem mapDistinct_iff (s : State) : MapDistinct s ↔
    (stationChannels s.tracker.lanes).Pairwise (fun a b => a.1 < b.1)
    ∧ (∀ a ∈ stationChannels s.tracker.lanes, a.1 < Config.lanes)
    ∧ ∀ a ∈ stationChannels s.tracker.lanes, ∀ b ∈ stationChannels s.tracker.lanes, a.2 = b.2 → a.1 = b.1 := by
  simp only [stationChannels, List.pairwise_map, List.forall_mem_map, Prod.mk.injEq, and_imp, ← Memory.rising_iff]
  exact ⟨fun h => ⟨h.rising, h.numbers, h.channels⟩, fun ⟨rising, numbers, channels⟩ => ⟨rising, numbers, channels⟩⟩

/-- `t` binds the same lane numbers to the same station channels as `s`. -/
def SameChannels (s t : State) : Prop := stationChannels t.tracker.lanes = stationChannels s.tracker.lanes

theorem SameChannels.refl (s : State) : SameChannels s s := rfl

theorem SameChannels.trans {s t u : State} (h : SameChannels s t) (k : SameChannels t u) : SameChannels s u :=
  Eq.trans k h

theorem SameChannels.of_lanes {s t : State} (h : t.tracker.lanes = s.tracker.lanes) : SameChannels s t :=
  congrArg stationChannels h

theorem SameMemories.sameChannels {s t : State} (h : SameMemories s t) : SameChannels s t := .of_lanes h.lanes

theorem SameChannels.distinct {s t : State} (h : SameChannels s t) (hs : MapDistinct s) : MapDistinct t := by
  rw [mapDistinct_iff, h]
  exact (mapDistinct_iff s).1 hs

/-! ### Operations on the lanes -/

/-- A change of a lane that leaves its station and its channel. -/
def KeepsChannel (f : Lane → Lane) : Prop :=
  ∀ l, (f l).entry.station = l.entry.station ∧ (f l).entry.channel = l.entry.channel

theorem stationChannels_mapValues {f : Lane → Lane} (hf : KeepsChannel f) (m : Memory Lane) :
    stationChannels (Memory.mapValues m f) = stationChannels m := by
  simp only [stationChannels, Memory.mapValues, List.map_map]
  refine List.map_congr_left fun e _ => ?_
  obtain ⟨station, channel⟩ := hf e.2
  simp [station, channel]

theorem stationChannels_modify {f : Lane → Lane} (hf : KeepsChannel f) (m : Memory Lane) (lane : Nat) :
    stationChannels (Memory.modify m lane f) = stationChannels m := by
  simp only [stationChannels, Memory.modify, List.map_map]
  refine List.map_congr_left fun e _ => ?_
  obtain ⟨station, channel⟩ := hf e.2
  by_cases here : e.1 = lane <;> simp [here, station, channel]

/-- A change of the record leaves the entry. -/
theorem keepsChannel_of_record (f : Lane → LaneRecord) : KeepsChannel fun l => { l with record := f l } :=
  fun _ => ⟨rfl, rfl⟩

theorem keepsChannel_ite {f : Lane → Lane} (hf : KeepsChannel f) (b : Lane → Bool) :
    KeepsChannel fun l => if b l then f l else l := by
  intro l
  dsimp only
  split
  · exact hf l
  · exact ⟨rfl, rfl⟩

theorem sameChannels_updateLane {f : Lane → Lane} (hf : KeepsChannel f) (lane : Nat) (s : State) :
    SameChannels s (updateLane lane f s) :=
  stationChannels_modify hf _ _

theorem sameChannels_applyLaneChange (x : LaneChange) (s : State) : SameChannels s (applyLaneChange x s) := by
  refine SameChannels.trans ?_ (same_applyLaneChange x s).sameChannels
  unfold changeIncluded
  split
  · exact sameChannels_updateLane (f := Lane.include x) (fun _ => ⟨rfl, rfl⟩) x.lane s
  · exact sameChannels_updateLane (f := Lane.exclude x) (fun _ => ⟨rfl, rfl⟩) x.lane s

/-! ### The rows that are no engine command -/

theorem sameChannels_tickBoundary (s : State) : SameChannels s (tickBoundary s) := by
  have applied (u : State) : SameChannels u (applyWaitingChange u) := by
    unfold applyWaitingChange
    split
    · exact (sameChannels_applyLaneChange _ u).trans (same_answer _ _ _).sameChannels
    · exact .refl u
  unfold tickBoundary
  split
  · exact (same_endHalting s).sameChannels.trans (applied _)
  · refine SameChannels.trans ?_ (same_retest _).sameChannels
    refine SameChannels.trans ?_ (applied _)
    split
    · exact (same_takeSwitch s).sameChannels
    · exact .refl s

theorem sameChannels_tickResultDelivery (s : State) : SameChannels s (tickResultDelivery s) := by
  unfold tickResultDelivery
  split
  · exact .refl s
  · split
    · exact .refl s
    · have delivered (r : TickResult) := (same_deliver r s).sameChannels
      dsimp only
      split
      · exact delivered _
      · exact (delivered _).trans (sameChannels_tickBoundary _)

theorem sameChannels_afterCompletion (boundary : Bool) (s : State) : SameChannels s (afterCompletion boundary s) := by
  have answered (u : State) (k : ReplyCode) : SameChannels u (answer k [] u) := (same_answer k [] u).sameChannels
  unfold afterCompletion
  split
  · split
    · exact answered _ _
    · exact (same_clearScanEffect s).sameChannels.trans (answered _ _)
  · split
    · exact sameChannels_tickBoundary s
    · exact .refl s

theorem sameChannels_closeCompletion (s : State) : SameChannels s (closeCompletion s) := by
  unfold closeCompletion
  split
  · rename_i c run _ _
    have closed := (same_completeClose c run s).sameChannels
    have kept : SameChannels (completeClose c run s) (keptOverrun c (completeClose c run s)) := .of_lanes (by simp)
    exact (closed.trans kept).trans (sameChannels_afterCompletion _ _)
  · exact .refl s

theorem sameChannels_copyWord (lane i w : Nat) (p : CopyProgress) : SameChannels p.state (copyWord lane i w p).state := by
  have written (x : Sample) : SameChannels p.state (writeStore w x p.state) := .of_lanes (by simp)
  unfold copyWord
  split
  · exact written _
  · exact written _
  · exact written _
  · exact written _
  · exact (written _).trans (same_copyEccFailure _ _ _).sameChannels

theorem sameChannels_copyWords (lane n i w : Nat) (p : CopyProgress) :
    SameChannels p.state (copyWords lane n i w p).state := by
  induction n generalizing i w p with
  | zero => exact .refl p.state
  | succ n ih =>
    have copied := sameChannels_copyWord lane i w p
    unfold copyWords
    dsimp only
    split
    · exact copied
    · exact copied.trans (ih _ _ _)

theorem sameChannels_copyStep (s : State) : SameChannels s (copyStep s) := by
  unfold copyStep
  split
  · split
    · exact .refl s
    · rename_i e _
      have copied := sameChannels_copyWords e.lane e.count e.start (e.extentOffset.getD 0)
        { state := s, omitStart := 0, omitEnd := 0 }
      dsimp only
      split
      · exact copied
      · split
        · exact copied.trans (.of_lanes (by simp))
        · exact copied.trans (.of_lanes (by simp))
  · exact .refl s

theorem sameChannels_processFrame (s : State) : SameChannels s (processFrame s) := by
  have stale : KeepsChannel Lane.countStale := keepsChannel_of_record _
  have served (f : Bytes) (u : State) : SameChannels u (serveFrame f u) :=
    stationChannels_mapValues (keepsChannel_ite stale fun l => serves f l && l.record.stale (frameTag f)) _
  unfold processFrame
  split
  · exact .refl s
  · split
    · exact .refl s
    · rename_i f rest _
      have taken : SameChannels s (s.setTracker { s.tracker with inbox := rest }) := .refl s
      dsimp only
      split
      · exact taken.trans (served f _)
      · exact taken.trans (.of_lanes (by simp))

theorem sameChannels_acceptBlock (lane : Nat) (k : Block) (l : Lane) (s : State) :
    SameChannels s (acceptBlock lane k l s) := by
  have stored (o : BlockResult) : SameChannels s (storeBlock lane k o s) :=
    stationChannels_modify (keepsChannel_of_record fun _ => o.record) _ lane
  rw [acceptBlock_eq]
  exact (((stored _).trans (same_setFlagIf _ _ _).sameChannels).trans (same_retest _).sameChannels).trans
    (same_waitTestFor _ _).sameChannels

theorem sameChannels_takeBlock (k : Block) (s : State) : SameChannels s (takeBlock k s) := by
  unfold takeBlock
  split
  · exact .refl s
  · split
    · exact .refl s
    · split
      · exact sameChannels_updateLane (keepsChannel_of_record _) k.lane s
      · exact sameChannels_acceptBlock _ _ _ s

theorem sameChannels_acceptedBlock (lane : Nat) (s : State) : SameChannels s (acceptedBlock lane s) := by
  unfold acceptedBlock
  split
  · exact .refl s
  · split
    · exact .refl s
    · rename_i k rest _
      have taken : SameChannels s (s.setTracker { s.tracker with blocks := rest }) := .refl s
      exact taken.trans (sameChannels_takeBlock k _)

theorem sameChannels_laneTimerExpiry (lane : Nat) (s : State) : SameChannels s (laneTimerExpiry lane s) := by
  have lost (u : State) : SameChannels u (updateLane lane (fun x => { x with record := x.record.lose }) u) :=
    sameChannels_updateLane (keepsChannel_of_record _) lane u
  unfold laneTimerExpiry
  split
  · exact .refl s
  · split
    · exact .refl s
    · split
      · exact .refl s
      · rename_i e _
        have moved : SameChannels s (s.setNow (max s.now e)) := .refl s
        exact (((moved.trans (lost _)).trans (same_setFlagIf _ _ _).sameChannels).trans
          (same_retest _).sameChannels).trans (same_waitTestFor _ _).sameChannels

theorem sameChannels_lineSilenceExpiry (s : State) : SameChannels s (lineSilenceExpiry s) := by
  unfold lineSilenceExpiry
  split
  · exact .refl s
  · split
    · exact .refl s
    · exact .of_lanes (by simp)

theorem sameChannels_endOfValidation (s : State) : SameChannels s (endOfValidation s) := by
  have answered (k : ReplyCode) (x : Bytes) (u : State) : SameChannels u (answer k x u) := (same_answer k x u).sameChannels
  unfold endOfValidation
  split
  · have ended : SameChannels s (s.setCmd { s.cmd with executing := none }) := .refl s
    unfold endValidation
    dsimp only
    split
    · exact ended.trans (answered _ _ _)
    · exact (ended.trans (same_takeFault _ _ _).sameChannels).trans (answered _ _ _)
    · split
      · exact (ended.trans (.of_lanes (by simp))).trans (answered _ _ _)
      · exact ended.trans (answered _ _ _)
  · exact .refl s

theorem sameChannels_voxelEvaluation (s : State) : SameChannels s (voxelEvaluation s) := by
  unfold voxelEvaluation
  split
  · exact .refl s
  · split
    · exact (same_evaluateVoxel _ s).sameChannels
    · exact .refl s

/-- No row that is no engine command, nor a cold start, binds a lane number or releases one. -/
theorem sameChannels_eventBody (i : Instr) (s : State) : SameChannels s (eventBody i s) := by
  cases i with
  | upstreamFrameReceived f => exact (same_upstreamFrame f s).sameChannels
  | sampleFrameProcessing => exact sameChannels_processFrame s
  | acceptedBlock lane => exact sameChannels_acceptedBlock lane s
  | laneTimerExpiry lane => exact sameChannels_laneTimerExpiry lane s
  | lineSilenceExpiry => exact sameChannels_lineSilenceExpiry s
  | endOfValidation => exact sameChannels_endOfValidation s
  | snippetFramePlaced => exact (same_snippetFramePlaced s).sameChannels
  | voxelEvaluation => exact sameChannels_voxelEvaluation s
  | tickResultDelivery => exact sameChannels_tickResultDelivery s
  | closeCompletion => exact sameChannels_closeCompletion s
  | copyStep => exact sameChannels_copyStep s
  | _ => exact .of_lanes (by simp [eventBody])

/-! ### The engine commands -/

theorem sameChannels_writeEntry (x : LaneChange) (s : State) : SameChannels s (writeEntry x s) :=
  sameChannels_updateLane (f := fun l => { l with entry := l.entry.change x.weight x.gainShift l.entry.included })
    (fun _ => ⟨rfl, rfl⟩) x.lane s

theorem sameChannels_setLane (c : Held) (s : State) : SameChannels s (setLane c s) := by
  have answered (k : ReplyCode) (u : State) : SameChannels u (answer k [] u) := (same_answer k [] u).sameChannels
  unfold setLane
  dsimp only
  split
  · exact answered _ s
  · split
    · exact answered _ s
    · split
      · exact (sameChannels_writeEntry _ s).trans (answered _ _)
      · split
        · exact .refl s
        · exact ((sameChannels_applyLaneChange _ s).trans (answered _ _)).trans (same_retest _).sameChannels

theorem sameChannels_readLane (c : Held) (s : State) : SameChannels s (readLane c s) := by
  unfold readLane
  dsimp only
  split
  · exact (same_answer _ _ s).sameChannels
  · split
    · exact (same_answer _ _ s).sameChannels
    · refine SameChannels.trans ?_ (same_answer _ _ _).sameChannels
      split
      · exact sameChannels_updateLane (f := Lane.clearCounters) (keepsChannel_of_record _) _ s
      · exact .refl s

theorem sameChannels_clearMarks (lanes : List (Nat × Lane)) (s : State) : SameChannels s (clearMarks lanes s) := by
  unfold clearMarks
  induction lanes generalizing s with
  | nil => exact .refl s
  | cons e rest ih => exact (sameChannels_updateLane (keepsChannel_of_record _) e.1 s).trans (ih _)

theorem sameChannels_changeEffects (rate tick : Bool) (s : State) : SameChannels s (changeEffects rate tick s) := by
  have lost : SameChannels s (loseLanes s) := by
    have absent := keepsChannel_ite (keepsChannel_of_record fun l => l.record.lose) fun l => l.record.receiving
    unfold loseLanes
    refine SameChannels.trans ?_ (same_setFlagIf _ _ _).sameChannels
    exact stationChannels_mapValues absent s.tracker.lanes
  cases rate <;> cases tick
  · exact .refl s
  · exact lost
  · exact lost
  · exact lost

theorem sameChannels_setParameters (c : Held) (s : State) : SameChannels s (setParameters c s) := by
  have changed (p : Params) (rate tick : Bool) : SameChannels s (changeEffects rate tick (s.setParams p)) :=
    sameChannels_changeEffects rate tick (s.setParams p)
  unfold setParameters
  dsimp only
  split
  · exact (same_answer _ _ s).sameChannels
  · refine SameChannels.trans ?_ (same_answer _ _ _).sameChannels
    split
    · exact (changed _ _ _).trans (same_waitTest _).sameChannels
    · exact changed _ _ _

theorem sameChannels_hotStart (c : Held) (s : State) : SameChannels s (hotStart c s) :=
  stationChannels_mapValues (f := Lane.clear) (keepsChannel_of_record _) s.tracker.lanes

/-- What a LOAD LANE MAP lists is what its entries bind, beside what was listed before. -/
theorem mem_listLanes {entries : List (Nat × LaneEntry × Nat)} {m : Memory Lane} {e : Nat × Lane}
    (he : e ∈ listLanes m entries) : (∃ x ∈ entries, e = (x.1, newLane x.2.1)) ∨ e ∈ m := by
  induction entries generalizing m with
  | nil => exact .inr he
  | cons x xs ih =>
    rcases ih he with ⟨y, hy, rfl⟩ | old
    · exact .inl ⟨y, List.mem_cons_of_mem _ hy, rfl⟩
    · rcases Memory.put_mem m _ _ e old with rfl | old
      · exact .inl ⟨x, List.mem_cons_self .., rfl⟩
      · exact .inr old

theorem mapEntryFits_lane {x : Nat × LaneEntry × Nat} (fits : mapEntryFits x = true) : x.1 < Config.lanes := by
  simp only [mapEntryFits, Bool.and_eq_true, decide_eq_true_eq] at fits
  tauto

/-- Distinct entries of one station channel are one entry. -/
theorem mapDistinct_channel {entries : List (Nat × LaneEntry × Nat)} (distinct : mapDistinct entries = true)
    {x y : Nat × LaneEntry × Nat} (hx : x ∈ entries) (hy : y ∈ entries) (station : x.2.1.station = y.2.1.station)
    (channel : x.2.1.channel = y.2.1.channel) : x.1 = y.1 := by
  induction entries with
  | nil => cases hx
  | cons z zs ih =>
    simp only [mapDistinct, Bool.and_eq_true, List.all_eq_true, Bool.not_eq_true', Bool.and_eq_false_iff, beq_eq_false_iff_ne]
      at distinct
    obtain ⟨apart, distinct⟩ := distinct
    rcases List.mem_cons.1 hx, List.mem_cons.1 hy with ⟨rfl | later, rfl | later'⟩
    · rfl
    · exact absurd channel.symm ((apart y later').2.resolve_left fun h => h station.symm)
    · exact absurd channel ((apart x later).2.resolve_left fun h => h station)
    · exact ih distinct later later'

/-- The map of an accepted LOAD LANE MAP (R1, R2). -/
theorem mapDistinct_of_newMap {entries : List (Nat × LaneEntry × Nat)} {t : State}
    (fits : ∀ x ∈ entries, mapEntryFits x = true) (distinct : mapDistinct entries = true)
    (lanes : t.tracker.lanes = newMap entries) : MapDistinct t := by
  have listed {e : Nat × Lane} (he : e ∈ t.tracker.lanes) : ∃ x ∈ entries, e = (x.1, newLane x.2.1) :=
    by
    rw [lanes] at he
    exact (mem_listLanes he).resolve_right List.not_mem_nil
  refine ⟨lanes ▸ rising_newMap entries, fun e he => ?_, fun e he f hf station channel => ?_⟩
  · obtain ⟨x, hx, rfl⟩ := listed he
    exact mapEntryFits_lane (fits x hx)
  · obtain ⟨x, hx, rfl⟩ := listed he
    obtain ⟨y, hy, rfl⟩ := listed hf
    exact mapDistinct_channel distinct hx hy station channel

theorem mapDistinct_loadLaneMap (c : Held) {s : State} (hs : MapDistinct s) : MapDistinct (loadLaneMap c s) := by
  have refused (k : ReplyCode) : MapDistinct (answer k [] s) := (same_answer k [] s).sameChannels.distinct hs
  unfold loadLaneMap
  dsimp only
  split
  · exact refused _
  · split
    · rename_i accepted
      simp only [Bool.and_eq_true, List.all_eq_true] at accepted
      exact mapDistinct_of_newMap accepted.1 accepted.2 (by simp [replaceMap])
    · exact refused _

/-- Every engine command's own handling keeps the map's numbers on distinct station channels. -/
theorem mapDistinct_commandBody (i : Instr) (c : Held) {s : State} (hs : MapDistinct s) :
    MapDistinct (commandBody i c s) := by
  cases i with
  | loadLaneMap => exact mapDistinct_loadLaneMap c hs
  | setParameters => exact (sameChannels_setParameters c s).distinct hs
  | setLane => exact (sameChannels_setLane c s).distinct hs
  | readLane => exact (sameChannels_readLane c s).distinct hs
  | readLaneChanges =>
    exact ((sameChannels_clearMarks _ s).trans (same_answer _ _ _).sameChannels).distinct hs
  | restart => exact (sameChannels_hotStart c s).distinct hs
  | _ => exact SameChannels.distinct (.of_lanes (by simp [commandBody])) hs

theorem mapDistinct_coldStart (cause : ColdCause) (s : State) : MapDistinct (coldStart cause s) :=
  ⟨rfl, fun _ he => (nomatch he), fun _ he => (nomatch he)⟩

/-- Every row keeps the map's numbers on distinct station channels. -/
theorem mapDistinct_exec {i : Instr} {s t : State} (hs : MapDistinct s) (h : exec i s = .next t) : MapDistinct t :=
  exec_keeps (fun u hu => (same_settleLine u).sameChannels.distinct hu)
    (fun k x => (same_answer k x s).sameChannels.distinct hs) hs ((sameChannels_eventBody i s).distinct hs)
    (fun c _ _ _ _ => mapDistinct_commandBody i c hs) (fun cause _ => mapDistinct_coldStart cause s)
    (fun _ => SameChannels.distinct (.of_lanes (by simp)) hs) h

/-- Settles O59: the rows by `paramsInRange_exec` and `mapDistinct_exec`, and a millisecond touches neither. -/
theorem parametersAndMapStayRight : Obligations.ParametersAndMapStayRight := by
  intro s t h
  unfold step at h
  split at h
  · injection h with h
    subst h
    unfold passMillisecond
    split
    · exact ⟨id, id⟩
    · exact ⟨id, SameChannels.distinct (.of_lanes (by simp))⟩
  · refine ⟨fun hs => paramsInRange_exec ?_ h, fun hs => mapDistinct_exec (SameChannels.distinct (.of_lanes ?_) hs) h⟩
    · exact hs
    · rfl

end Sys2Proof.Machine

namespace Sys2Proof.Machine

/-! ## A step, and the first checks of a command (R158, R159, R176) -/

/-- Settles O1: the front of the queue is the command that `step` takes. -/
theorem stepRunsFrontCommand : Obligations.StepRunsFrontCommand := fun _ _ _ => rfl

/-- An unknown code is answered BAD_REQUEST (R159, check 1). -/
theorem exec_unknownCommandCode {s : State} {code : Nat} {c : Held} {rest : List Held} (h : Oldest s code c rest)
    (unknown : code ∉ knownCodes) : exec .unknownCommandCode s = .next (settleLine (answer .badRequest [] s)) := by
  have mine : knownCodes.contains c.code.toNat = false := by rw [h.code]; simpa using unknown
  show liveLine _ s = _
  rw [liveLine, live_of_free _ s h.live, beginHeld, h.idle, h.held]
  simp only [mine, Bool.not_false, if_true]

/-- Settles O13: the checks are those of `exec_unknownCommandCode` and `exec_oldest`, and each reply finds room. -/
theorem commandsCheckedInOrder : Obligations.CommandsCheckedInOrder := by
  refine ⟨⟨fun s code c rest h unknown => ?_, fun i code s c rest hi h misfit => ?_⟩,
    fun i code s c rest hi refused h fits frozen => ?_⟩
  · rw [exec_unknownCommandCode h.toOldest unknown, settleLine_answer _ _ h.held h.toOwnRoom]
  · rw [exec_oldest hi h.toOldest, checked, misfit]
    exact congrArg _ (settleLine_answer _ _ h.held h.toOwnRoom)
  · rw [exec_oldest hi h.toOldest, checked, fits, refused, frozen]
    exact congrArg _ (settleLine_answer _ _ h.held h.toOwnRoom)

/-! ## The values that a SET PARAMETERS carries, brought within their ranges (R166) -/

/-- Each of the three rates lies at least as far from the value as the one stored, and where it lies as near, no lower. -/
theorem clampRate_nearest (v : Nat) (r : Int) (rate : r ∈ [250, 500, 1000]) :
    ((clampRate v : Int) - v).natAbs < (r - v).natAbs
      ∨ (((clampRate v : Int) - v).natAbs = (r - v).natAbs ∧ clampRate v ≤ r) := by
  simp only [List.mem_cons, List.not_mem_nil, or_false] at rate
  unfold clampRate
  split_ifs <;> omega

/-- Each of the five tick lengths lies at least as far from the value as the one stored, and where it lies as near, no lower. -/
theorem clampTickLen_nearest (v : Nat) (r : Int) (length : r ∈ [1, 2, 4, 8, 16]) :
    ((clampTickLen v : Int) - v).natAbs < (r - v).natAbs
      ∨ (((clampTickLen v : Int) - v).natAbs = (r - v).natAbs ∧ clampTickLen v ≤ r) := by
  simp only [List.mem_cons, List.not_mem_nil, or_false] at length
  unfold clampTickLen
  split_ifs <;> omega

/-- Settles O20: the clamps are `clampTo_of_le`, `clampRate_nearest` and `clampTickLen_nearest`, and each group stores them. -/
theorem valuesBroughtWithinRange : Obligations.ValuesBroughtWithinRange := by
  refine ⟨fun lo hi v order => clampTo_of_le order v, fun v => ⟨?_, clampRate_nearest v⟩,
    fun v => ⟨?_, clampTickLen_nearest v⟩, fun p v range => ⟨range.store v, ?_, rfl, rfl, ?_, rfl, rfl⟩⟩
  · simpa using clampRate_cases v
  · simpa using clampTickLen_cases v
  · simp only [Params.store, storedLane, max_comm (_ + 2), max_def_lt]
  · simp only [Params.store, storedDetect, min_def_lt]

end Sys2Proof.Machine

namespace Sys2Proof.Machine

/-! ## SET PARAMETERS (R165, R167) -/

section
variable {s : State} {c : Held} {rest : List Held}

theorem exec_setParameters (h : Begins s 0x09 c rest) (fits : setParametersFits c = true) (awake : s.notice.frozen = false) :
    exec .setParameters s = .next (settleLine (setParameters c s)) :=
  exec_begins (i := .setParameters) rfl h.toOldest fits (by simp [awake])

theorem changesRate_iff (old new : Params) :
    changesRate old new = true ↔ new.lane.sampleRate ≠ old.lane.sampleRate := bne_iff_ne

theorem changesTick_iff (old new : Params) : changesTick old new = true ↔ new.lane.tickLen ≠ old.lane.tickLen := bne_iff_ne

/-- The reply code after a clamp: OK where the stored values are the carried ones (R165). -/
theorem okOr_bne (stored carried : List Nat) : okOr (stored != carried) = if stored = carried then .ok else .clamped := by
  by_cases same : stored = carried <;> simp [okOr, same]

/-- The engine with the set `p` stored, after the effects of a change of rate or tick and the wait test that may follow, before
the reply (R126, R167). -/
def paramsChanged (p : Params) (s : State) : State :=
  let t := changeEffects (changesRate s.params p) (changesTick s.params p) (s.setParams p)
  if candidatePlansReceiving s then waitTest t else t

/-- The reply to a SET PARAMETERS that leaves the set `p` (R165). -/
def paramsReplied (p : Params) (c : Held) (s : State) : State :=
  answer (if p.values (c.byte 0) = carriedValues c then .ok else .clamped) (p.encGroup (c.byte 0)) s

section
variable {p : Params} (stores : s.params.store (c.byte 0) (carriedValues c) = p)
include stores

theorem setParameters_of_busy (change : (changesRate s.params p || changesTick s.params p) = true) (busy : scanning s = true) :
    setParameters c s = answer .busy [] s := by
  simp only [setParameters, stores, change, busy, Bool.and_self, if_true]

theorem setParameters_of_same (same : (changesRate s.params p || changesTick s.params p) = false) :
    setParameters c s = paramsReplied p c (s.setParams p) := by
  have unchanged : changeEffects (changesRate s.params p) (changesTick s.params p) (s.setParams p) = s.setParams p := by
    rw [Bool.or_eq_false_iff] at same
    rw [same.1, same.2]
    rfl
  simp only [setParameters, stores, same, Bool.false_and, Bool.false_eq_true, if_false, unchanged, okOr_bne, paramsReplied]

theorem setParameters_of_change (change : (changesRate s.params p || changesTick s.params p) = true)
    (free : scanning s = false) : setParameters c s = paramsReplied p c (paramsChanged p s) := by
  simp only [setParameters, stores, change, free, Bool.and_false, Bool.true_and, Bool.false_eq_true, if_false, okOr_bne,
    paramsReplied, paramsChanged]

end
end

/-- Settles O18: the forms are the branches `setParameters_of_same` and `setParameters_of_busy`. -/
theorem setParametersStores : Obligations.SetParametersStores := by
  intro s c rest h fits awake p same
  rw [exec_setParameters h fits awake]
  have changes : (changesRate s.params p || changesTick s.params p) = true ↔ ¬same := by
    rw [Bool.or_eq_true, changesRate_iff, changesTick_iff, ← not_and_or]
  refine ⟨fun unchanged => ?_, fun changed busy => ?_⟩
  · rw [setParameters_of_same rfl (Bool.eq_false_iff.2 fun x => changes.1 x unchanged)]
    exact reply_placed _ _ h rfl rfl rfl
  · rw [setParameters_of_busy rfl (changes.2 changed) ((scanning_iff s).2 busy)]
    exact congrArg _ (settleLine_answer _ _ h.held h.toOwnRoom)

end Sys2Proof.Machine

namespace Sys2Proof.Machine

/-! ## A change of rate or tick (R22, R167) -/

/-! ### The lanes that return to ABSENT (R8, R22) -/

theorem receiving_iff (r : LaneRecord) :
    r.receiving = true ↔ r.state = .acquiring ∨ r.state = .admitted ∨ r.state = .muted := by
  simp [LaneRecord.receiving, or_assoc]

theorem lose_of_receiving {r : LaneRecord} (receiving : r.receiving = true) : r.lose =
    { r with
      state := .absent, changed := true, expectedTag := none, completeThrough := none, goodRun := 0, badRun := 0
      warmup := 0, timer := none, filter := none } := by
  have present : r.state ≠ .absent := by
    intro absent
    simp [LaneRecord.receiving, absent] at receiving
  rw [LaneRecord.lose, LaneRecord.withState, if_neg present]

section
variable {rate tick : Bool} (s : State)

theorem changeEffects_rings : (changeEffects rate tick s).rings = if rate then [] else s.rings := by
  cases rate <;> cases tick <;> simp [changeEffects, clearRings, clearTicks]

theorem changeEffects_tracks : (changeEffects rate tick s).tracks = if tick then [] else s.tracks := by
  cases rate <;> cases tick <;> simp [changeEffects, clearRings, clearTicks]

theorem changeEffects_lineTime :
    (changeEffects rate tick s).tracker.lineTime = if tick then none else s.tracker.lineTime := by
  cases rate <;> cases tick <;> simp [changeEffects, clearRings, clearTicks, loseLanes]

theorem changeEffects_silenceTimer : (changeEffects rate tick s).tracker.silenceTimer = s.tracker.silenceTimer := by
  cases rate <;> cases tick <;> simp [changeEffects, clearRings, clearTicks, loseLanes]

theorem changeEffects_notice (change : (rate || tick) = true) :
    (changeEffects rate tick s).notice = (loseLanes s).notice := by
  rw [changeEffects, if_pos change]
  cases rate <;> cases tick <;> rfl

theorem changeEffects_lanes (change : (rate || tick) = true) :
    (changeEffects rate tick s).tracker.lanes = (loseLanes s).tracker.lanes := by
  rw [changeEffects, if_pos change]
  cases rate <;> cases tick <;> rfl

theorem loseLanes_lanes : (loseLanes s).tracker.lanes = Memory.mapValues s.tracker.lanes fun l =>
    if l.record.state = .acquiring ∨ l.record.state = .admitted ∨ l.record.state = .muted then
      { l with record :=
          { l.record with
            state := .absent, changed := true, expectedTag := none, completeThrough := none, goodRun := 0, badRun := 0
            warmup := 0, timer := none, filter := none } }
    else l := by
  simp only [loseLanes, setFlagIf_tracker, State.tracker_setTracker, ← receiving_iff]
  congr 1
  funext l
  split
  · rw [lose_of_receiving ‹_›]
  · rfl

theorem isSet_loseLanes (present : ∃ e ∈ s.tracker.lanes, e.2.record.receiving = true) :
    (loseLanes s).notice.isSet .laneChange = true :=
  isSet_setFlagIf_self _ _ (List.any_eq_true.2 present)

end

/-! ### The wait test that may follow (R126) -/

theorem candidatePlansReceiving_of_candidate {s : State} {before after : List EventRecord} {r : EventRecord}
    (k : Candidate s s.captures before r after) : candidatePlansReceiving s = true ↔
      ∃ e ∈ r.plan, ∃ l, laneOf s e.lane = some l
        ∧ (l.record.state = .acquiring ∨ l.record.state = .admitted ∨ l.record.state = .muted) := by
  have found : candidate s = some r := (candidate_iff s r).2 ⟨before, after, k⟩
  simp only [candidatePlansReceiving, found, Option.any_some, List.any_eq_true, Option.any_eq_true, receiving_iff]

theorem candidatePlansReceiving_of_none {s : State} (none : ∀ before r after, ¬Candidate s s.captures before r after) :
    candidatePlansReceiving s = false := by
  rw [candidatePlansReceiving, (candidate_none_iff s).2 none]
  rfl

section
variable {p : Params} {s : State}

/-- What the wait test leaves alone, `paramsChanged` leaves as `changeEffects` does. -/
theorem paramsChanged_of_waitTest {α : Type} {part : State → α} (same : ∀ u, part (waitTest u) = part u) :
    part (paramsChanged p s)
      = part (changeEffects (changesRate s.params p) (changesTick s.params p) (s.setParams p)) := by
  unfold paramsChanged
  dsimp only
  split
  · exact same _
  · rfl

theorem changeEffects_captures (rate tick : Bool) (s : State) : (changeEffects rate tick s).captures = s.captures := by
  simp [State.captures]

theorem paramsChanged_tested (planned : candidatePlansReceiving s = true) :
    WaitTested (paramsChanged p s) s.captures (paramsChanged p s).captures := by
  have tested := waitTest_tested (changeEffects (changesRate s.params p) (changesTick s.params p) (s.setParams p))
  rw [changeEffects_captures] at tested
  rw [paramsChanged, if_pos planned]
  exact tested

theorem paramsChanged_captures (unplanned : candidatePlansReceiving s = false) :
    (paramsChanged p s).captures = s.captures := by
  rw [paramsChanged, unplanned]
  exact changeEffects_captures _ _ _

theorem paramsChanged_line : (paramsChanged p s).line = s.line :=
  (paramsChanged_of_waitTest waitTest_line).trans (changeEffects_line _ _ _)

theorem paramsChanged_cmd : (paramsChanged p s).cmd = s.cmd :=
  (paramsChanged_of_waitTest waitTest_cmd).trans (changeEffects_cmd _ _ _)

theorem paramsChanged_params : (paramsChanged p s).params = p :=
  (paramsChanged_of_waitTest waitTest_params).trans (changeEffects_params _ _ _)

theorem paramsChanged_tracker : (paramsChanged p s).tracker
    = (changeEffects (changesRate s.params p) (changesTick s.params p) (s.setParams p)).tracker :=
  paramsChanged_of_waitTest waitTest_tracker

theorem isSet_paramsChanged (change : (changesRate s.params p || changesTick s.params p) = true)
    (present : ∃ e ∈ s.tracker.lanes, e.2.record.receiving = true) :
    (paramsChanged p s).notice.isSet .laneChange = true := by
  have raised : (changeEffects (changesRate s.params p) (changesTick s.params p) (s.setParams p)).notice.isSet .laneChange
      = true := by
    rw [changeEffects_notice _ change]
    exact isSet_loseLanes (s.setParams p) present
  unfold paramsChanged
  dsimp only
  split
  · exact isSet_waitTest raised
  · exact raised

end

/-- The frame of a reply that is OK or CLAMPED (R157, R160). -/
theorem replyFrame_ok_or_clamped (source : Nat) (c : Held) (same : Prop) [Decidable same] (x : Bytes) :
    replyFrame source c (if same then .ok else .clamped) x
      = ownFrame 0x31 (encNat 1 source ++ [c.tag, c.code] ++ [if same then 0 else 1] ++ x) := by
  split <;> rfl

/-- Settles O19: the command replies in the engine of `paramsChanged`, whose lanes are those of `loseLanes_lanes` and whose wait
test is made where `candidatePlansReceiving_of_candidate` says. -/
theorem rateOrTickChanges : Obligations.RateOrTickChanges := by
  intro s c rest h fits awake notRunning notHalting p rate tick changed
  have change : (changesRate s.params p || changesTick s.params p) = true := by
    rw [Bool.or_eq_true, changesRate_iff, changesTick_iff]
    exact changed
  have free : scanning s = false := Bool.eq_false_iff.2 fun busy =>
    ((scanning_iff s).1 busy).elim notRunning notHalting
  have line := paramsChanged_line (p := p) (s := s)
  have ends : exec .setParameters s = .next (replied (if p.values (c.byte 0) = carriedValues c then .ok else .clamped)
      (p.encGroup (c.byte 0)) c rest (paramsChanged p s)) := by
    rw [exec_setParameters h fits awake, setParameters_of_change rfl change free]
    exact reply_placed _ _ h paramsChanged_cmd (congrArg Line.waiters line) (congrArg Line.own line)
  have same (k : ReplyCode) (x : Bytes) : SameForTest (paramsChanged p s) (replied k x c rest (paramsChanged p s)) :=
    ⟨rfl, rfl, rfl, rfl, rfl, id⟩
  refine ⟨_, ends, paramsChanged_params, rfl, ?_, fun ⟨e, he, receiving⟩ => ?_,
    fun before r after k => ⟨fun planned => ?_, fun gone => ?_⟩, fun none => ?_, ?_, ?_, ?_, ?_, ?_, ?_, ?_, ?_⟩
  · show (paramsChanged p s).line.withOwn (replyFrame (paramsChanged p s).line.source c _ _) = _
    rw [line, replyFrame_ok_or_clamped]
    rfl
  · exact isSet_paramsChanged change ⟨e, he, (receiving_iff _).2 receiving⟩
  · exact (paramsChanged_tested ((candidatePlansReceiving_of_candidate k).2 planned)).congr (same _ _)
  · refine paramsChanged_captures (Bool.eq_false_iff.2 fun planned => ?_)
    obtain ⟨e, he, l, mapped, receiving⟩ := (candidatePlansReceiving_of_candidate k).1 planned
    rcases gone e he l mapped with absent | excluded
    · simp [absent] at receiving
    · simp [excluded] at receiving
  · exact paramsChanged_captures (candidatePlansReceiving_of_none none)
  · exact (paramsChanged_of_waitTest waitTest_banks).trans (changeEffects_banks _ _ _)
  · exact (paramsChanged_of_waitTest waitTest_det).trans (changeEffects_det _ _ _)
  · refine (paramsChanged_of_waitTest waitTest_scan).trans ((changeEffects_scan _ _ _).trans ?_)
    simp only [changesTick_iff]
    rfl
  · refine (paramsChanged_of_waitTest waitTest_rings).trans ((changeEffects_rings _).trans ?_)
    simp only [changesRate_iff]
    rfl
  · refine (paramsChanged_of_waitTest waitTest_tracks).trans ((changeEffects_tracks _).trans ?_)
    simp only [changesTick_iff]
    rfl
  · refine (congrArg Tracker.lineTime paramsChanged_tracker).trans ((changeEffects_lineTime _).trans ?_)
    simp only [changesTick_iff]
    rfl
  · exact (congrArg Tracker.silenceTimer paramsChanged_tracker).trans (changeEffects_silenceTimer _)
  · exact (congrArg Tracker.lanes paramsChanged_tracker).trans
      ((changeEffects_lanes _ change).trans (loseLanes_lanes _))

end Sys2Proof.Machine

namespace Sys2Proof.Machine

/-! ## The held reset line, and the engine at reset (R177) -/

/-- Every row but a cold start and the release is a step of a live engine, which a held reset line keeps from acting (R177;
assumption 5). -/
theorem exec_of_held {i : Instr} {s : State} (held : s.resetHeld = true) (warm : ∀ cause, i ≠ .coldStart cause)
    (kept : i ≠ .resetLineReleased) : exec i s = .next s := by
  cases i with
  | coldStart cause => exact absurd rfl (warm cause)
  | resetLineReleased => exact absurd rfl kept
  | _ => exact congrArg Host.Outcome.next (if_pos held)

theorem step_of_empty {s : State} (empty : s.pending = []) : step s = .next (passMillisecond s) := by
  rw [step, empty]

/-- Settles O2: an empty queue is `step_of_empty`, and a held line is `exec_of_held`. -/
theorem idleAndHeldSteps : Obligations.IdleAndHeldSteps :=
  ⟨fun _ empty => step_of_empty empty, fun _ _ => exec_of_held, fun _ => rfl⟩

/-- Settles O3: `coldStart` sets every field but the commands that wait to be taken and the line's hold. -/
theorem coldStartSetsEverything : Obligations.ColdStartSetsEverything := fun _ _ => rfl

/-! ### The invariants after a cold start -/

theorem queuesBounded_reset : QueuesBounded State.reset where
  forwarding := Nat.zero_le _
  upward := Nat.zero_le _
  own := Nat.zero_le _
  run := Nat.zero_le _
  held := Nat.zero_le _
  events := Nat.zero_le _

/-- Neither bank is ACTIVE, no switch is pending, and the scan is IDLE (R48, R66). -/
theorem selectorAgrees_reset : SelectorAgrees State.reset where
  selector bank := by cases bank <;> decide
  pendingReady _ pending := by cases pending
  pendingScan pending := by cases pending
  scanBank running := by cases running
  validating _ busy := by cases busy

theorem storeAccounts_reset : StoreAccounts State.reset where
  total := rfl
  position := by decide

theorem frozenAgrees_reset : FrozenAgrees State.reset :=
  frozenAgrees_running (fun busy => by cases busy) rfl (by decide)

theorem mapDistinct_reset : MapDistinct State.reset where
  rising := rfl
  numbers _ mem := by cases mem
  channels _ mem := by cases mem

theorem serialsFollow_reset : SerialsFollow State.reset := .singleton _

/-- No tick scan is in flight and no close in progress (R66, R92). -/
theorem scanAgrees_reset : ScanAgrees State.reset where
  cursor _ tick := by cases tick
  runs tick := by cases tick
  boundary _ closing := by cases closing
  closes _ closing := by cases closing

/-- Settles O60: at reset every queue, table and store is empty and nothing is in progress, so each invariant is a lemma of its
own. -/
theorem invariantsHoldAtReset : Obligations.InvariantsHoldAtReset :=
  ⟨queuesBounded_reset, canonical_reset, selectorAgrees_reset, storeAccounts_reset, frozenAgrees_reset, paramsInRange_cold,
    mapDistinct_reset, serialsFollow_reset, scanAgrees_reset⟩

/-! ## The hot start (R49, R178, R179) -/

theorem exec_hotStartCompletion {s : State} (free : s.resetHeld = false) :
    exec .hotStartCompletion s = .next (settleLine (hotStartCompletion s)) :=
  live_of_free (fun t => settleLine (hotStartCompletion t)) s free

theorem hotStarting_iff (s : State) : hotStarting s = true ↔ s.cmd.executing = some .hotStart := beq_iff_eq

theorem hotStartCompletion_of_starting {s : State} (starting : s.cmd.executing = some .hotStart) :
    hotStartCompletion s = answer .ok (restartResult s) (s.setCmd { s.cmd with executing := none }) :=
  if_pos ((hotStarting_iff s).2 starting)

theorem hotStartCompletion_idle {s : State} (idle : s.cmd.executing ≠ some .hotStart) : hotStartCompletion s = s :=
  if_neg (mt (hotStarting_iff s).1 idle)

/-- A hot start leaves the arbiter nothing to send (R147 to R150). -/
theorem settleLine_hotStart (c : Held) (s : State) : settleLine (hotStart c s) = hotStart c s := by
  have none : (hotStart c s).line.waiters = [] := rfl
  have nothing : (hotStart c s).line.arbitrate = (hotStart c s).line := arbitrate_of_empty rfl rfl
  rw [settleLine_of_noWaiter none, settled, nothing, State.setLine_self]

/-- With the Own Queue full the reply joins the producers that wait, and the line has nothing to do (R148). -/
theorem settleLine_answer_of_full {s : State} {c : Held} {rest : List Held} (k : ReplyCode) (x : Bytes)
    (held : s.cmd.held = c :: rest) (full : Config.ownDepth ≤ s.line.own.length) (absent : .commandUnit ∉ s.line.waiters)
    (sends : s.line.dnTx.isSome = true) : settleLine (answer k x s) =
      (s.setLine { s.line with waiters := s.line.waiters ++ [.commandUnit] }).setCmd
        { held := c :: rest, executing := some (.replyWaiting (replyFrame s.line.source c k x)) } := by
  have blocked : s.line.mayPlace .commandUnit = false := (commandUnit_blocked_iff _).2 (.inl full)
  have others : s.line.waiters.filter (fun q => q != .commandUnit) = s.line.waiters :=
    List.filter_eq_self.2 fun q mem => bne_iff_ne.2 fun same => absent (same ▸ mem)
  rw [answer_waits k x held blocked, others, ← held]
  exact settleLine_of_full full sends

/-- Settles O5: the step of RESTART is `hotStart`, which the line's settling leaves as it is, and its completion is a reply that
is placed or waits. -/
theorem hotStartRuns : Obligations.HotStartRuns := by
  refine ⟨fun s c rest h bare => ?_, fun s c rest free held starting => ⟨fun room => ?_, fun full absent sends => ?_⟩,
    fun s idle noWaiter free => ?_⟩
  · rw [exec_restart h bare, settleLine_hotStart]
    rfl
  · rw [exec_hotStartCompletion free, hotStartCompletion_of_starting starting]
    exact congrArg _ (settleLine_answer (s := s.setCmd _) .ok (restartResult s) held
      ⟨room.noWaiter, room.room⟩)
  · rw [exec_hotStartCompletion free, hotStartCompletion_of_starting starting]
    exact congrArg _ (settleLine_answer_of_full (s := s.setCmd _) .ok (restartResult s) held full absent sends)
  · rw [exec_hotStartCompletion free, hotStartCompletion_idle idle, settleLine_of_noWaiter noWaiter]

/-! ## The notice flags, and CLEAR FAULT (R170 to R172, R174) -/

section
variable {s : State} {c : Held} {rest : List Held}

/-- A notice that is due is cancelled where no flag is both set and enabled; where no producer waits, nothing else changes
(R172). -/
theorem cancelIfEmpty_of_noWaiter (none : s.line.waiters = []) : cancelIfEmpty s = s.setNotice
    { s.notice with due := s.notice.due && s.notice.flags &&& s.notice.enables != 0 } := by
  unfold cancelIfEmpty
  split
  · rename_i empty
    have cancelled : (s.notice.due && s.notice.flags &&& s.notice.enables != 0) = false := by
      rw [show s.notice.flags &&& s.notice.enables = 0 from empty, bne_self_eq_false, Bool.and_false]
    rw [stopWaiting_of_noWaiter _ (by exact none), cancelled]
  · rename_i reportable
    have stays : (s.notice.due && s.notice.flags &&& s.notice.enables != 0) = s.notice.due := by
      rw [bne_iff_ne.2 (show s.notice.flags &&& s.notice.enables ≠ 0 from reportable), Bool.and_true]
    rw [stays]
    exact (State.setNotice_self s).symm

theorem clearFlags_of_noWaiter (named : BitVec 9) (none : s.line.waiters = []) : clearFlags named s = s.setNotice
    { s.notice with
      flags := s.notice.flags &&& ~~~named
      due := s.notice.due && s.notice.flags &&& ~~~named &&& s.notice.enables != 0 } :=
  cancelIfEmpty_of_noWaiter (s := s.setNotice _) none

theorem setEnables_of_noWaiter (new : BitVec 9) (none : s.line.waiters = []) : setEnables new s = s.setNotice
    { s.notice with
      enables := new
      due := (s.notice.due || new &&& ~~~s.notice.enables &&& s.notice.flags != 0) && s.notice.flags &&& new != 0 } :=
  cancelIfEmpty_of_noWaiter (s := s.setNotice _) none

/-- The setting of a flag, whether it was clear or set (R170, R171). -/
theorem setFlag_eq (f : Flag) (s : State) : setFlag f s = s.setNotice
    { s.notice with
      flags := s.notice.flags ||| f.mask
      due := s.notice.due || (s.notice.flags &&& f.mask == 0 && s.notice.enables &&& f.mask != 0) } := by
  unfold setFlag NoticeUnit.raise
  split
  · rename_i set
    have nonzero : (s.notice.flags &&& f.mask == 0) = false := by simpa [NoticeUnit.isSet] using set
    rw [or_mask_of_isSet set, nonzero, Bool.false_and, Bool.or_false]
  · rename_i clear
    have zero : (s.notice.flags &&& f.mask == 0) = true := by simpa [NoticeUnit.isSet] using clear
    rw [zero, Bool.true_and]

/-- Settles O21: with no producer waiting each command's change is that of the notices alone, and `setFlag_eq` says what setting
a flag does. -/
theorem noticeFlagsKept : Obligations.NoticeFlagsKept := by
  refine ⟨fun s c rest two => ⟨fun h => ?_, fun h => ?_⟩, setFlag_eq⟩
  · refine exec_replies (i := .clearNotices) rfl h (by simp [paramsFit, fixedBytes, two]) rfl ?_ rfl rfl
    exact congrArg (fun t : State => answer .ok (encFlags t.notice.flags) t) (clearFlags_of_noWaiter c.flagSet h.noWaiter)
  · refine exec_replies (i := .setNoticeMask) rfl h (by simp [paramsFit, fixedBytes, two]) rfl ?_ rfl rfl
    exact congrArg (fun t : State => answer .ok (encFlags t.notice.enables) t) (setEnables_of_noWaiter c.flagSet h.noWaiter)

theorem clearFault_of_none (none : s.notice.faultRecord = none) : clearFault c s = answer .notReady [] s := by
  rw [clearFault, none]

theorem clearFault_of_record {r : FaultRecord} (record : s.notice.faultRecord = some r) :
    clearFault c s = answer .ok (clearedFault r) (s.setNotice { s.notice with faultRecord := none }) := by
  rw [clearFault, record]

end

/-- Settles O22: the two forms are the branches of `clearFault`. -/
theorem clearFaultClears : Obligations.ClearFaultClears := by
  intro s c rest h bare awake
  have served : exec .clearFault s = .next (settleLine (clearFault c s)) :=
    exec_served (i := .clearFault) rfl h (by simp [paramsFit, fixedBytes, bare]) awake
  rw [served]
  exact ⟨fun none => settled_reply h (clearFault_of_none none) rfl rfl,
    fun r record => settled_reply h (clearFault_of_record record) rfl rfl⟩

end Sys2Proof.Machine

namespace Sys2Proof.Machine

/-! ## The taking of a fault, and the FROZEN condition (R124, R132, R173, R175) -/

/-! ### What a fault records -/

section
variable (a : Activity) (p : FaultPlace) (s : State)

/-- The fault records with a fault in its place: the first fault held, or the one met while that is held (R173). -/
def NoticeUnit.noteFault (n : NoticeUnit) (first : FaultRecord) : NoticeUnit :=
  if n.faultRecord.isSome then { n with secondFault := some { activity := first.activity, place := first.place } }
  else { n with faultRecord := some first }

/-- The record of a first fault, with the outcome that FAULT_CAPTURE gives it (R173). -/
def firstFault : FaultRecord :=
  { activity := a, place := p, cursor := s.scan.cursor, detector := s.det.state
    outcome := if s.params.faultCapture then .continued else .frozen }

/-- `s` with the fault recorded and FAULT set (R173). -/
def faultNoted : State := setFlag .fault (s.setNotice (s.notice.noteFault (firstFault a p s)))

/-- A fault that an engine takes is recorded, and freezes it where one is held or FAULT_CAPTURE is off (R173, R175). -/
theorem takeFault_of_awake (awake : s.notice.frozen = false) : takeFault a p s =
    if s.notice.faultRecord.isSome = true ∨ s.params.faultCapture = false then enterFrozen a (faultNoted a p s)
    else faultNoted a p s := by
  unfold takeFault faultNoted firstFault NoticeUnit.noteFault
  rw [if_neg (by simp [awake])]
  by_cases held : s.notice.faultRecord.isSome = true
  · simp only [held, if_true, true_or]
  · cases capture : s.params.faultCapture <;> simp [held]

end

section
variable {a : Activity} {p : FaultPlace} {s : State}

theorem takeFault_of_freezes (awake : s.notice.frozen = false)
    (freezes : s.notice.faultRecord.isSome = true ∨ s.params.faultCapture = false) :
    takeFault a p s = enterFrozen a (faultNoted a p s) :=
  (takeFault_of_awake a p s awake).trans (if_pos freezes)

/-- A first fault with FAULT_CAPTURE on leaves the engine running (R173). -/
theorem takeFault_of_captured (awake : s.notice.frozen = false) (first : s.notice.faultRecord = none)
    (captured : s.params.faultCapture = true) : takeFault a p s = faultNoted a p s :=
  (takeFault_of_awake a p s awake).trans (if_neg (by simp [first, captured]))

theorem isSet_faultNoted : (faultNoted a p s).notice.isSet .fault = true := isSet_setFlag_self _ _

theorem faultNoted_of_first (first : s.notice.faultRecord = none) :
    (faultNoted a p s).notice.faultRecord = some (firstFault a p s)
      ∧ (faultNoted a p s).notice.secondFault = s.notice.secondFault := by
  simp [faultNoted, NoticeUnit.noteFault, first]

theorem faultNoted_of_held {r : FaultRecord} (held : s.notice.faultRecord = some r) :
    (faultNoted a p s).notice.faultRecord = some r
      ∧ (faultNoted a p s).notice.secondFault = some { activity := a, place := p } := by
  simp [faultNoted, NoticeUnit.noteFault, held, firstFault]

theorem faultNoted_frozen : (faultNoted a p s).notice.frozen = s.notice.frozen := by
  unfold faultNoted NoticeUnit.noteFault
  split <;> simp

/-! ### The engine halts -/

/-- `s` as the FROZEN condition halts it, before a close in progress and the command in execution are seen to (R72, R132,
R175). -/
def halted (s : State) : State :=
  abortCaptures (((s.setNotice { s.notice with frozen := true }).setScan { s.scan with state := .frozen, tick := none }).setTracker
    { s.tracker with inbox := [], blocks := [] })

theorem enterFrozen_eq (a : Activity) (s : State) : enterFrozen a s = freezeCommand (freezeClose a (halted s)) := rfl

theorem halted_frozen : (halted s).notice.frozen = true := by simp [halted]

/-- The records that wait for their capture or are in it (R119). -/
theorem settled_eq_false_iff (r : EventRecord) :
    r.status.settled = false ↔ r.status = .waiting ∨ r.status = .capturing := by
  cases r.status <;> decide

/-- What the FROZEN condition makes of a record (R132). -/
theorem abort_eq (r : EventRecord) : r.abort =
    if r.status = .waiting ∨ r.status = .capturing then
      { r with status := .aborted, plan := r.plan.map fun e => { e with extentOffset := none } }
    else r := by
  simp only [EventRecord.abort, ← settled_eq_false_iff]
  cases r.status.settled <;> rfl

theorem halted_queue : (halted s).queue = s.queue.map fun r =>
    if r.status = .waiting ∨ r.status = .capturing then
      { r with status := .aborted, plan := r.plan.map fun e => { e with extentOffset := none } }
    else r := by
  have aborted : (halted s).queue = s.queue.map EventRecord.abort := by simp [halted, abortCaptures]
  exact aborted.trans (List.map_congr_left fun r _ => abort_eq r)

/-- The words of the extent of the record in capture (R124). -/
theorem capturingWords_eq (q : List EventRecord) : capturingWords q =
    ((q.filter fun r => r.status == .capturing).map fun r => (r.plan.map PlanEntry.count).sum).sum := by
  refine congrArg List.sum (List.map_congr_left fun r mem => ?_)
  have captures : r.status = .capturing := beq_iff_eq.1 (List.mem_filter.1 mem).2
  rw [EventRecord.extent, captures]
  rfl

theorem halted_store : (halted s).store =
    { s.store with
      writePos := (s.store.writePos + 65536 - capturingWords s.queue % 65536) % 65536
      freeWords := s.store.freeWords + capturingWords s.queue } := by
  simp [halted, abortCaptures]

theorem isSet_halted {f : Flag} (set : s.notice.isSet f = true) : (halted s).notice.isSet f = true := by
  rw [halted, abortCaptures]
  refine isSet_setFlagIf .eventReady ?_
  simpa [NoticeUnit.isSet] using set

/-- A record that becomes settled by its abort sets EVENT_READY (R120, R132). -/
theorem isSet_halted_eventReady (unsettled : ∃ r ∈ s.queue, r.status = .waiting ∨ r.status = .capturing) :
    (halted s).notice.isSet .eventReady = true := by
  obtain ⟨r, mem, waits⟩ := unsettled
  rw [halted, abortCaptures]
  refine isSet_setFlagIf_self .eventReady _ (List.any_eq_true.2 ⟨r, mem, ?_⟩)
  rw [(settled_eq_false_iff r).2 waits]
  rfl

/-! ### The close in progress -/

theorem freezeClose_of_noClose (noClose : a = .planning ∨ s.det.closing = none) : freezeClose a s = s := by
  unfold freezeClose
  split
  · rfl
  · rename_i other
    rw [noClose.resolve_left other]

theorem freezeClose_of_closing {c : Closing} {run : Running} (other : a ≠ .planning) (closing : s.det.closing = some c)
    (running : s.det.running = some run) : freezeClose a s = appendClosed c run [] s := by
  rw [freezeClose, if_neg other, closing, running]

theorem appendRecord_of_settled {r : EventRecord} (settled : r.status.settled = true) :
    appendRecord r s = raiseEventReady (s.setQueue (s.queue ++ [r])) := if_pos settled

/-- In a FROZEN engine a close appends its record settled, which sets EVENT_READY (R114, R120). -/
theorem appendClosed_of_frozen (c : Closing) (run : Running) (plan : List PlanEntry) (frozen : s.notice.frozen = true) :
    appendClosed c run plan s = raiseEventReady
      ((s.setDet { s.det.afterClose c.detect.holdoff with serial := (s.det.serial + 1) % 65536 }).setQueue
        (s.queue ++ [closedRecord c run c.detect.vetoLimit s.det.serial s.now plan true])) := by
  rw [appendClosed, frozen]
  exact appendRecord_of_settled rfl

theorem isSet_appendClosed {f : Flag} (c : Closing) (run : Running) (plan : List PlanEntry)
    (frozen : s.notice.frozen = true) (set : s.notice.isSet f = true) :
    (appendClosed c run plan s).notice.isSet f = true := by
  rw [appendClosed_of_frozen c run plan frozen]
  exact isSet_setFlag (s := State.setQueue _ _) .eventReady set

theorem isSet_freezeClose {f : Flag} (a : Activity) (frozen : s.notice.frozen = true) (set : s.notice.isSet f = true) :
    (freezeClose a s).notice.isSet f = true := by
  unfold freezeClose
  split
  · exact set
  · split
    · exact set
    · split
      · exact isSet_appendClosed _ _ _ frozen set
      · exact set

/-- No close is left in a FROZEN engine but the one whose planning met the fault (R175). -/
theorem freezeClose_closing_iff (frozen : s.notice.frozen = true) :
    (freezeClose a s).det.closing = none ↔ a ≠ .planning ∨ s.det.closing = none := by
  obtain ⟨_, _, _, ends⟩ := freezeClose_frozen a frozen
  by_cases planning : a = .planning
  · rw [freezeClose_of_noClose (.inl planning)]
    simp [planning]
  · simp [planning, ends planning]

/-! ### The command in execution -/

/-- The FROZEN condition that a fault of `a` brings ends the command in execution (R4, R57, R71). -/
def EndedByFault (a : Activity) (s : State) : Prop :=
  (∃ x, s.cmd.executing = some (.laneChange x)) ∨ (∃ bank, s.cmd.executing = some (.validating bank))
    ∨ (s.cmd.executing = some .clearScan ∧ (a ≠ .planning ∨ s.det.closing = none))

theorem freezeCommand_of_ended (ends : EndedByFault .planning s) : freezeCommand s = answer .frozen [] s := by
  unfold freezeCommand
  rcases ends with ⟨x, change⟩ | ⟨bank, validates⟩ | ⟨clears, closed⟩
  · rw [change]
  · rw [validates]
  · simp [clears, closed.resolve_left (· rfl)]

theorem freezeCommand_of_other (goes : ¬EndedByFault .planning s) : freezeCommand s = s := by
  unfold freezeCommand
  split
  · rename_i x change
    exact absurd (.inl ⟨x, change⟩) goes
  · rename_i clears
    refine if_pos (Option.isSome_iff_ne_none.2 fun closed => goes (.inr (.inr ⟨clears, .inr closed⟩)))
  · rename_i bank validates
    exact absurd (.inr (.inl ⟨bank, validates⟩)) goes
  all_goals rfl

/-- Whether the command ends is seen after the close, which only a fault of its own planning leaves in progress. -/
theorem endedByFault_freezeClose : EndedByFault .planning (freezeClose a (halted s)) ↔ EndedByFault a s := by
  have cmd : (freezeClose a (halted s)).cmd = s.cmd := by simp [halted]
  have det : (halted s).det = s.det := by simp [halted]
  have closing := freezeClose_closing_iff (a := a) (s := halted s) halted_frozen
  simp only [EndedByFault, cmd, closing, det, ne_eq, not_true_eq_false, false_or]

theorem sameLine_freezeClose : SameLine s (freezeClose a (halted s)) := by
  constructor <;> simp [halted]

theorem enterFrozen_of_ended (ends : EndedByFault a s) : SameLine (answer .frozen [] s) (enterFrozen a s) := by
  rw [enterFrozen_eq, freezeCommand_of_ended (endedByFault_freezeClose.2 ends)]
  exact sameLine_freezeClose.answer .frozen []

theorem enterFrozen_of_other (goes : ¬EndedByFault a s) : SameLine s (enterFrozen a s) := by
  rw [enterFrozen_eq, freezeCommand_of_other (mt endedByFault_freezeClose.1 goes)]
  exact sameLine_freezeClose

/-! ### The engine as it has become FROZEN -/

theorem enterFrozen_scan : (enterFrozen a s).scan = { s.scan with state := .frozen, tick := none } := by
  simp [enterFrozen]

theorem enterFrozen_tracker : (enterFrozen a s).tracker = { s.tracker with inbox := [], blocks := [] } := by
  simp [enterFrozen]

theorem enterFrozen_store : (enterFrozen a s).store = (halted s).store := by
  obtain ⟨_, store, _⟩ := freezeClose_frozen (s := halted s) a halted_frozen
  rw [enterFrozen_eq, freezeCommand_store, store]

theorem isSet_enterFrozen {f : Flag} (set : (halted s).notice.isSet f = true) : (enterFrozen a s).notice.isSet f = true := by
  rw [enterFrozen_eq, freezeCommand_notice]
  exact isSet_freezeClose a halted_frozen set

theorem enterFrozen_faultRecord : (enterFrozen a s).notice.faultRecord = s.notice.faultRecord := by simp [enterFrozen]

theorem enterFrozen_secondFault : (enterFrozen a s).notice.secondFault = s.notice.secondFault := by simp [enterFrozen]

theorem enterFrozen_of_noClose (noClose : a = .planning ∨ s.det.closing = none) :
    (enterFrozen a s).det = s.det ∧ (enterFrozen a s).queue = (halted s).queue := by
  have det : (halted s).det = s.det := by simp [halted]
  rw [enterFrozen_eq, freezeClose_of_noClose (by rwa [det]), freezeCommand_det, freezeCommand_queue, det]
  exact ⟨rfl, rfl⟩

theorem enterFrozen_of_closing {c : Closing} {run : Running} (other : a ≠ .planning) (closing : s.det.closing = some c)
    (running : s.det.running = some run) :
    (enterFrozen a s).notice.isSet .eventReady = true
      ∧ (enterFrozen a s).det = { s.det.afterClose c.detect.holdoff with serial := (s.det.serial + 1) % 65536 }
      ∧ (enterFrozen a s).queue = (halted s).queue ++
        [closedRecord c run c.detect.vetoLimit s.det.serial s.now [] true] := by
  have det : (halted s).det = s.det := by simp [halted]
  have now : (halted s).now = s.now := by simp [halted]
  rw [enterFrozen_eq, freezeClose_of_closing other (by rwa [det]) (by rwa [det]), appendClosed_of_frozen _ _ _ halted_frozen,
    freezeCommand_notice, freezeCommand_det, freezeCommand_queue, det, now]
  exact ⟨isSet_setFlag_self _ _, by simp [raiseEventReady], by simp [raiseEventReady]⟩

end

/-- Settles O23: a fault that is taken leaves `faultNoted`, halted as `enterFrozen` halts it where the fault freezes the engine;
each part of the statement is the lemma above of that part. -/
theorem faultsTaken : Obligations.FaultsTaken := by
  intro a p s
  have frozen (freezes : s.notice.frozen = false ∧ (s.notice.faultRecord.isSome = true ∨ s.params.faultCapture = false)) :
      takeFault a p s = enterFrozen a (faultNoted a p s) := takeFault_of_freezes freezes.1 freezes.2
  refine ⟨takeFault_of_frozen a p, fun awake => ⟨?_, by simp, by simp, by simp, by simp⟩, fun awake first captured => ?_,
    fun awake first off => ?_, fun r awake held => ?_, fun freezes => ?_, fun freezes noClose => ?_,
    fun c run freezes other closing running => ?_, fun freezes => ?_⟩
  · rw [takeFault_of_awake a p s awake]
    split
    · exact isSet_enterFrozen (isSet_halted isSet_faultNoted)
    · exact isSet_faultNoted
  · obtain ⟨record, _⟩ := faultNoted_of_first (a := a) (p := p) first
    rw [takeFault_of_captured awake first captured, record, faultNoted_frozen, firstFault, captured]
    exact ⟨rfl, awake, rfl, rfl, rfl, rfl, rfl, rfl, rfl, rfl⟩
  · obtain ⟨record, second⟩ := faultNoted_of_first (a := a) (p := p) first
    rw [takeFault_of_freezes awake (.inr off), enterFrozen_faultRecord, enterFrozen_secondFault, record, second, firstFault, off]
    exact ⟨rfl, rfl⟩
  · rw [takeFault_of_freezes awake (.inl (by simp [held])), enterFrozen_faultRecord, enterFrozen_secondFault]
    exact faultNoted_of_held held
  · rw [frozen freezes, enterFrozen_scan, enterFrozen_tracker, enterFrozen_capture, enterFrozen_store, halted_store,
      ← capturingWords_eq]
    exact ⟨enterFrozen_frozen _ _, rfl, rfl, rfl, rfl, fun unsettled => isSet_enterFrozen (isSet_halted_eventReady unsettled)⟩
  · obtain ⟨det, queue⟩ := enterFrozen_of_noClose (s := faultNoted a p s) noClose
    rw [frozen freezes, det, queue, halted_queue]
    exact ⟨rfl, rfl⟩
  · obtain ⟨ready, det, queue⟩ := enterFrozen_of_closing (s := faultNoted a p s) other closing running
    rw [frozen freezes, det, queue, halted_queue]
    exact ⟨ready, rfl, rfl⟩
  · have answered (ends : EndedByFault a s) : (takeFault a p s).cmd = (answer .frozen [] s).cmd
        ∧ (takeFault a p s).line = (answer .frozen [] s).line := by
      have noted : SameLine s (faultNoted a p s) := ⟨rfl, rfl⟩
      have replied := noted.answer .frozen []
      have ended := enterFrozen_of_ended (s := faultNoted a p s) ends
      rw [frozen freezes, ended.cmd, ended.line]
      exact ⟨replied.cmd, replied.line⟩
    refine ⟨fun goes => ?_, answered, fun c rest ends held room => ?_⟩
    · have same := enterFrozen_of_other (s := faultNoted a p s) goes
      rw [frozen freezes]
      exact ⟨same.cmd, same.line⟩
    · obtain ⟨cmd, line⟩ := answered ends
      rw [cmd, line, answer_of_ownRoom .frozen [] held room, replyFrame, List.append_nil]
      exact ⟨rfl, rfl⟩

end Sys2Proof.Machine

namespace Sys2Proof.Machine

/-! ## The frame of every row (O54) -/

/-- `t` stands as `s` does, but for the parts that `ps` names. -/
def Leaves (ps : List Part) (s t : State) : Prop := ∀ p, p ∉ ps → p.same s t

/-- The frame, field by field: the form in which the laws of the rows' own parts state it. -/
theorem leaves_iff {ps : List Part} {s t : State} : Leaves ps s t ↔
    (.pending ∉ ps → t.pending = s.pending) ∧ (.resetHeld ∉ ps → t.resetHeld = s.resetHeld)
      ∧ (.now ∉ ps → t.now = s.now) ∧ (.line ∉ ps → t.line = s.line) ∧ (.cmd ∉ ps → t.cmd = s.cmd)
      ∧ (.params ∉ ps → t.params = s.params) ∧ (.tracker ∉ ps → t.tracker = s.tracker)
      ∧ (.tracks ∉ ps → t.tracks = s.tracks) ∧ (.rings ∉ ps → t.rings = s.rings) ∧ (.banks ∉ ps → t.banks = s.banks)
      ∧ (.scan ∉ ps → t.scan = s.scan) ∧ (.det ∉ ps → t.det = s.det) ∧ (.queue ∉ ps → t.queue = s.queue)
      ∧ (.store ∉ ps → t.store = s.store) ∧ (.capture ∉ ps → t.capture = s.capture)
      ∧ (.notice ∉ ps → t.notice = s.notice) := by
  constructor
  · intro h
    exact ⟨h .pending, h .resetHeld, h .now, h .line, h .cmd, h .params, h .tracker, h .tracks, h .rings, h .banks, h .scan,
      h .det, h .queue, h .store, h .capture, h .notice⟩
  · rintro ⟨_, _, _, _, _, _, _, _, _, _, _, _, _, _, _, _⟩ p
    cases p <;> assumption

theorem Part.same_refl (p : Part) (s : State) : p.same s s := by cases p <;> rfl

theorem Part.same_trans {p : Part} {s t u : State} (first : p.same s t) (second : p.same t u) : p.same s u := by
  cases p <;> exact Eq.trans second first

theorem Leaves.refl (ps : List Part) (s : State) : Leaves ps s s := fun p _ => p.same_refl s

theorem Leaves.trans {ps : List Part} {s t u : State} (first : Leaves ps s t) (second : Leaves ps t u) : Leaves ps s u :=
  fun p out => Part.same_trans (first p out) (second p out)

theorem Leaves.mono {ps qs : List Part} {s t : State} (within : ps ⊆ qs) (h : Leaves ps s t) : Leaves qs s t :=
  fun p out => h p fun inPs => out (within inPs)

/-! ### The parts of a step -/

theorem settleLine_leaves (s : State) : Leaves replyParts s (settleLine s) := by simp [leaves_iff, replyParts]

theorem answer_leaves (code : ReplyCode) (result : Bytes) (s : State) : Leaves replyParts s (answer code result s) := by
  simp [leaves_iff, replyParts]

/-- The expiry of a lane's timer keeps the tracks and the rings: a lost lane's history stands (R21). -/
@[simp] theorem laneTimerExpiry_tracks (lane : Nat) (s : State) : (laneTimerExpiry lane s).tracks = s.tracks := by
  unfold laneTimerExpiry
  (repeat' split) <;> simp

@[simp] theorem laneTimerExpiry_rings (lane : Nat) (s : State) : (laneTimerExpiry lane s).rings = s.rings := by
  unfold laneTimerExpiry
  (repeat' split) <;> simp

/-- The own part of a row that is no engine command: row by row, the fields that its laws in Laws/RowFrames.lean keep are all but
those of its row of `mayChange`. -/
theorem eventBody_leaves (i : Instr) (s : State) : Leaves (mayChange i) s (eventBody i s) := by
  cases i <;> simp [leaves_iff, mayChange, replyParts, faultParts, eventBody]

/-- The own handling of an engine command, row by row as for the other rows. -/
theorem commandBody_leaves (i : Instr) (c : Held) (s : State) : Leaves (mayChange i) s (commandBody i c s) := by
  cases i <;> simp [leaves_iff, mayChange, replyParts, faultParts, commandBody]

theorem coldStart_leaves (cause : ColdCause) (s : State) : Leaves (mayChange (.coldStart cause)) s (coldStart cause s) := by
  simp [leaves_iff, mayChange, faultParts, coldStart]

theorem setResetHeld_leaves (s : State) (held : Bool) : Leaves [.resetHeld] s (s.setResetHeld held) := by simp [leaves_iff]

/-! ### The rows -/

/-- A row that may not change the line and the Command Unit is a step in which the line does not settle. -/
theorem replyParts_or_live (i : Instr) :
    replyParts ⊆ mayChange i ∨ i = .resetLineReleased ∨ ∀ s, exec i s = live (eventBody i) s := by
  cases i
  case sampleFrameProcessing | acceptedBlock | laneTimerExpiry | lineSilenceExpiry | holdReceived | upstreamTransmitEnd
    | tickScanBegin | waitTimerExpiry => exact .inr (.inr fun _ => rfl)
  case resetLineReleased => exact .inr (.inl rfl)
  all_goals exact .inl (by simp [replyParts, mayChange, faultParts])

/-- Where the row may change what a reply changes, the parts of its step are put together; the other rows are their own part
alone. -/
theorem exec_leaves {i : Instr} {s t : State} (h : exec i s = .next t) : Leaves (mayChange i) s t := by
  obtain replies | rfl | silent := replyParts_or_live i
  · refine exec_keeps (P := Leaves (mayChange i) s) (fun u kept => kept.trans ((settleLine_leaves u).mono replies))
      (fun code result => (answer_leaves code result s).mono replies) (.refl _ s) (eventBody_leaves i s)
      (fun c _ _ _ _ => commandBody_leaves i c s) ?_ ?_ h
    · rintro cause rfl
      exact coldStart_leaves cause s
    · rintro rfl
      exact setResetHeld_leaves s false
  · injection h with h
    exact h ▸ setResetHeld_leaves s false
  · exact live_keeps (fun _ => eventBody_leaves i s) (.refl _ s) (silent s ▸ h)

/-- Settles O54: the frame of each row's own part is that of the row, since the settling of the line and a refusal change
nothing but the line and the Command Unit. -/
theorem rowsLeaveOtherParts : Obligations.RowsLeaveOtherParts := fun _ _ _ h => exec_leaves h

end Sys2Proof.Machine
